-- ==== Sys2Proof/Word.lean ====
section
/-!
DEFINITION. The word types of the Colqua module and its index types (R4, R13, R15, R237, R289, R308, R365).
Multi-byte values are little-endian (R5). Everything a test could show wrong about arithmetic on them stands in
Sys2Proof/Machine/Bits.lean.
-/

namespace Sys2Proof

/-- One byte. -/
abbrev Byte := BitVec 8

/-- A logical tile, by the tile ID of R4: row · 44 + column, 48 rows and 44 columns. -/
abbrev TileId := Fin 2112

/-- A partition P00–P31. -/
abbrev PartId := Fin 32

/-- A home slice HS000–HS255 (R237). -/
abbrev SliceId := Fin 256

/-- A stack S00–S19 (R289). -/
abbrev StackId := Fin 20

/-- A Coppice port C0–C7 (R365). -/
abbrev PortId := Fin 8

/-- A flash channel (R308). -/
abbrev ChanId := Fin 32

/-- A Hazel die H0–H3 (R12). -/
abbrev DieId := Fin 4

/-- A Graft link in the order of R361: 0 H0·H1, 1 H2·H3, 2 H0·H2, 3 H1·H3, 4–7 K·H0–K·H3. -/
abbrev LinkId := Fin 8

/-- A mover of a tile (R38). -/
abbrev MoverId := Fin 4

/-- A group slot of a tile (R41). -/
abbrev GSlot := Fin 64

/-- A queue pair of a virtual function (R409). -/
abbrev QpId := Fin 16

/-- A direction of a mesh port or neighbour lane: 0 north, 1 east, 2 south, 3 west (R108, R172). -/
abbrev Dir := Fin 4

/-- A router output (R171): 0–3 mesh N, E, S, W; 4–7 neighbour lane N, E, S, W; 8 local ejection; 9 memory port. -/
abbrev RouterOut := Fin 10

/-- How a bundle goes on after a slot's command (R90, R91): `none`, a further enabled slot of the same bundle
follows; `some idle`, this is the bundle's last enabled slot and `idle` its IDLE field. Commands of one bundle stand
in the order M, V, X, C. -/
abbrev BundleEnd := Option (BitVec 4)

end Sys2Proof
end

