-- ==== Sys2Proof/Syntax.lean ====
section
/-!
DEFINITION. The commands of the Colqua module, whole: one constructor for each row of the table of operations and
events, with the operands each row takes from outside. Encoded operands (bundle slots, GX instructions, register
values, control blocks) are the encoded words themselves, so that reserved codes and fields keep their meaning.
-/

namespace Sys2Proof

/-- The function through which a register access arrives (R520, R521): the physical function carries the operator
role, virtual function n the tenant role of Pn. -/
inductive Fn where
  | pf
  | vf (n : PartId)
  deriving DecidableEq, Repr

/-- A requester of the dictionary (R510, R516): I3C, the PF mailbox, the VF mailbox of Pn, UDP session number n. -/
inductive Requester where
  | i3c
  | pfMailbox
  | vfMailbox (n : PartId)
  | udp (session : Nat)
  deriving DecidableEq, Repr

/-- A requester of a bank of the tile store of priority 2 to 5 (R27). -/
inductive BankRequester where
  | dynamicLanding
  | mover (m : MoverId)
  | groupEngine
  | l1
  deriving DecidableEq, Repr

/-- Where a vector function is issued (R101, R139): the sequencer's V slot, or a thread group. -/
inductive VecSite where
  | vslot (t : TileId) (w : BitVec 64) (e : BundleEnd)
  | gx (t : TileId) (g : GSlot) (w : BitVec 64)
  deriving DecidableEq, Repr

/-- The events a tile reports over Twig (R197). -/
inductive TwigEvent where
  | endDone
  | phaseEnd
  | cohort (tag : BitVec 24)
  | fault (code : BitVec 8)
  | internalError
  deriving DecidableEq, Repr

/-- What the parity checks of a Graft receiver find as a flit crosses a seam (R346): a failed DPAR group, a failed
SPAR of the flit's half. On a hop inside a die both are false. -/
structure LinkCheck where
  dpar : Bool
  spar : Bool
  deriving DecidableEq, Repr

/-- A flit with its sideband (R169). `data` is the payload, 64 bytes, or 128 for a neighbour-lane unit (R170). -/
structure Flit where
  kind : BitVec 2
  poison : Bool
  vc : BitVec 2
  last : Bool
  part : BitVec 5
  dest : BitVec 13
  data : List Byte
  deriving DecidableEq, Repr

/-- The header word of an MW or MACK packet (R213), with the packet's destination tile. -/
structure MwHdr where
  dst : Nat
  off : Nat
  len8 : Nat
  ac : Nat
  cnt : Bool
  srcTile : Nat
  mover : Nat
  status : Nat
  deriving DecidableEq, Repr

/-- An MW packet (R213): header, data, whether it carries POISON, and the data flits that are clean all the same (R169, R193). -/
structure MwPacket where
  hdr : MwHdr
  data : List Byte
  poison : Bool
  clean : BitVec 2
  deriving DecidableEq, Repr

/-- A coherence message (R243, R244): the header fields, and the type-specific fields, unused ones 0 or empty.
`tile` is the TILE field; `mask` the byte mask of WRU and DMW; `aop`, `size` (bytes), `ord` (ORD and SCOPE), `off` and `ops`
(operand and new value of each lane, in lane order) those of ATOMIC; `vals` the fetch values of ATOMR; `ac`, `cntTile` and `count` those of
DMW, CNT, RING_INV and RING_ACK; `mw` the reply header of MRD; `mover` the issuing mover of mover traffic. -/
structure CMsg where
  part : Nat
  line : Nat
  tile : BitVec 13
  smask : BitVec 4
  info : BitVec 3
  dmask : BitVec 4
  poison : Bool
  data : List Byte
  mask : BitVec 128
  aop : Nat
  size : Nat
  ord : Nat
  off : Nat
  ops : List (Nat × Nat)
  vals : List Nat
  ac : Nat
  cntTile : Nat
  count : Nat
  mw : MwHdr
  mover : Nat
  deriving DecidableEq, Repr

/-- Where a reply to an invalidation arrives: a home slice, or the ring agent of a die (R246). -/
inductive ReplyTo where
  | home (h : SliceId)
  | ring (d : DieId)
  deriving DecidableEq, Repr

/-- The case of an in-service stack failure (R302). -/
inductive StackFault where
  | link
  | readout
  | uncorrectable
  | temperature
  deriving DecidableEq, Repr

/-- How a page's cells decode on a read (R317). -/
inductive PageOutcome where
  | nominal
  | retry (level : Nat)
  | rebuilt
  | lost
  deriving DecidableEq, Repr

/-- A cell of the lockstep stream (R370). -/
structure LockCell where
  kind : BitVec 8
  jobTag : BitVec 16
  tick : BitVec 32
  pos : BitVec 5
  poison : Bool
  dstModule : BitVec 10
  srcModule : BitVec 10
  rpart : BitVec 5
  window : BitVec 6
  offset : BitVec 43
  cntTile : BitVec 13
  ac : BitVec 6
  len8 : BitVec 4
  hops : BitVec 4
  crc : BitVec 32
  data : List Byte
  deriving DecidableEq, Repr

/-- The causes of a job kill that a command names (R479). -/
inductive KillCause where
  | fault
  | partitionReset
  | stepWatchdog
  | peerLoss
  | lag
  | drain
  | commanded
  | deletion
  deriving DecidableEq, Repr

/-- One tile's part of a job image (R88, R129, R84, R159, R40, R499): first bundle, LS contents as (offset, bytes),
Sheller tables, kernel table entries and their LS offset, mover assignment (0 sequencer, 1 group engine), LS bytes
that the static program uses, and the frame slots whose local injection carries trace flits. -/
structure TileImage where
  tile : Nat
  entry : Nat
  chunks : List (Nat × List Byte)
  tables : List (List Byte)
  kernelOff : Nat
  kernels : List (List Byte)
  movers : List Nat
  staticLs : Nat
  traceSlots : List Nat
  deriving DecidableEq, Repr

/-- One tile's part of a later phase (R88, R125): entry point, LS contents, a0–a31, l0–l7, scope and envelope limit. -/
structure PhaseTile where
  tile : Nat
  entry : Nat
  chunks : List (Nat × List Byte)
  a : List (BitVec 48)
  l : List (BitVec 24)
  scope : BitVec 2
  env : Nat
  deriving DecidableEq, Repr

/-- One slot-table entry of an image (R171, R172): tile, output, slot of the frame, entry byte. -/
structure SlotEntry where
  tile : Nat
  out : Nat
  slot : Nat
  entry : BitVec 8
  deriving DecidableEq, Repr

/-- One entry of a lockstep port's send or landing table (R372). -/
structure PortEntry where
  port : Nat
  send : Bool
  pos : Nat
  entry : BitVec 16
  deriving DecidableEq, Repr

/-- The service header of an image (R408). -/
structure ServiceHeader where
  kind : Nat
  vocabId : Nat
  batchMax : Nat
  prefillChunk : Nat
  kvPerToken : Nat
  ctxMax : Nat
  stepTile : Nat
  stepAc : Nat
  stepArea : Nat
  inputArea : Nat
  outputArea : Nat
  outputTag : Nat
  entryMember : Option Nat
  eSlot : Nat
  eBase : Nat
  deriving DecidableEq, Repr

/-- A job image: per-tile parts, later phases, slot tables of every phase, lockstep port tables and declared flights,
needed seam classes as (seam, crossing, class), peak core current per die in amperes at point 0, traced memory-port
cycles as (tile, slot), the prune-tolerant flag, whether every field of the image's own layout is legal (R571), and
the service header. -/
structure Image where
  tiles : List TileImage
  phases : List (List PhaseTile)
  slots : List SlotEntry
  laterSlots : List (List SlotEntry)
  ports : List PortEntry
  declF : List (Nat × Nat)
  needs : List (Nat × Nat × Nat)
  peak : List Nat
  traced : List (Nat × Nat)
  tolerant : Bool
  layoutOk : Bool
  lockstep : Bool
  modelTag : Nat
  svc : ServiceHeader
  deriving DecidableEq, Repr

/-- A Colqua message at a door (R393, R409, R412): arrival stamp in µs, partition, intake queue (0–15 a queue pair,
16 the service ports), service port, client address and UDP port, whether it came to the link-local address, VLAN,
TYPE, session, request ID, SEQ and body. -/
structure InMsg where
  stamp : Nat
  part : Nat
  queue : Nat
  port : Nat
  src : List Byte
  sport : Nat
  linkLocal : Bool
  vlan : Nat
  type : Nat
  session : Nat
  reqId : Nat
  seq : Nat
  body : List Byte
  deriving DecidableEq, Repr

/-- A session command of the entry member (R426), or a step record carried to this member. -/
inductive SessCmd where
  | openSession (id : Nat) (modelTag : Nat) (kvVa kvBytes slot : Nat) (seed : Nat)
  | park (id : Nat)
  | resume (id : Nat)
  | close (id : Nat)
  | capacity (id : Nat) (kvVa kvBytes slot : Nat)
  | stepRecord (record : List Byte)
  | confirm (id : Nat) (member : Nat)
  | absent (id : Nat) (member : Nat)
  deriving DecidableEq, Repr

/-- Sensor readings in thousandths of a degree Celsius: the hottest Hazel sensor of each die, the Husk, each NAND
package, the regulators (R453). -/
structure Sensors where
  hazel : List Int
  husk : Int
  nand : List Int
  regulator : Int
  deriving DecidableEq, Repr

/-- A consumer of energy (R454): a tile's compute sub-domain; a slot of a router output, by what its entry is; a router's leakage; a home
slice; an access to the stacks, by the slice that issues it; a lockstep port; a service port's bytes, by the partition that their datagrams name;
a flash access for an extent; and what the device itself does (refresh, patrol, self-refresh, training, flash work in the background, Husk
cores, idle lanes). -/
inductive Consumer where
  | tile (t : TileId)
  | slot (t : TileId) (out : Fin 10) (slot : Fin 512)
  | router (t : TileId)
  | slice (h : SliceId)
  | stacks (h : SliceId)
  | lockstep (n : PortId)
  | datagram (p : PartId)
  | flash (ext : Nat)
  | device
  deriving DecidableEq, Repr

/-- A count of one estimation interval (R436): its domain (0–19 the stacks, 20 the rest), the event kind, the supply whose voltage the
event's energy follows (0–3 the Hazel dies' cores, 4 the SRAM base dies; others do not depend on the point), and how often. -/
structure Activity where
  domain : Nat
  kind : Nat
  supply : Nat
  count : Nat
  deriving DecidableEq, Repr

/-- A unit that leaks (R436): its domain, its number, its supply, and the sensor that gives its temperature. -/
structure Leak where
  domain : Nat
  unit : Nat
  supply : Nat
  sensor : Nat
  deriving DecidableEq, Repr

/-- What the collection chain, the converters and the sensors give the governor in one estimation interval (R436, R437, R453): the activity
counts and the units that leak; the measured energy of the input and of each stack in µJ, whether a converter of a domain reports a fault; the
consumers' shares (R454); the sensors. `us` is the time that the interval takes while the compute clock stands. -/
structure Interval where
  activity : List Activity
  leaks : List Leak
  measuredStacks : List Nat
  measuredInput : Nat
  converterFault : List Bool
  us : Nat
  charges : List (Consumer × Nat)
  sensors : Sensors
  coolantIn : Int
  coolantOut : Int
  mainMv : Nat
  standbyMv : Nat
  deriving DecidableEq, Repr

/-- What an epoch boundary needs beside what the intervals brought (R437, R438): the fused maximum of each domain's epoch energy
in µJ. -/
structure EpochMeasure where
  fusedMax : List Nat
  deriving DecidableEq, Repr

/-- A Hedgerow frame (R512). -/
structure HFrame where
  magic : BitVec 16
  version : BitVec 8
  op : BitVec 8
  session : Nat
  seq : Nat
  index : Nat
  sub : Nat
  reserved15 : BitVec 8
  offset : Nat
  length : Nat
  reserved22 : BitVec 16
  data : List Byte
  deriving DecidableEq, Repr

/-- The outcome of a Graft wire test (R352 step 4): positions that fail or are marginal, per link, bundle and
direction, as (link, bundle, direction, position, margin in 1/64 UI; 0 is a failure), bundle-directions whose two
clock wires fail, working control-group wires per die and direction, dies that answered the capability exchange with
their record, and the loopback outcome (link, bundle, direction, position, fails on first side, on second). -/
structure GraftResults where
  weak : List (Nat × Nat × Nat × Nat × Nat)
  clockBad : List (Nat × Nat × Nat)
  spareClock : List (Nat × Nat)
  control : List (Nat × Nat)
  records : List (Nat × List Byte)
  loopback : List (Nat × Nat × Nat × Nat × Bool × Bool)
  deriving DecidableEq, Repr

/-- The outcomes of a start's tests: Graft; stack stages as (stack, failing stage 1–4); stacks too hot for 60 s; first
temperature of each stack in °C; tiles failing their self-test; FIFOs that no depth trains as (receiving tile, input); what
a FIFO's depths reach as (receiving tile, input, point, depth, margin in 1/64 cycle at the design latency). -/
structure StartResults where
  graft : GraftResults
  stackFail : List (Nat × Nat)
  stackHot : List Nat
  stackTemp : List Nat
  selfTestFail : List Nat
  fifoFail : List (Nat × Nat)
  fifo : List (Nat × Nat × Nat × Nat × Nat)
  deriving DecidableEq, Repr

/-- Levels that the outside drives at the Husk's pins while boundary scan captures them (R551, R552, R567): MOD_RESET_N, SCL, SDA, and what the test receivers of the 48 receive
pairs find, PCIe's 16 first, then Coppice's lanes. -/
structure PinLevels where
  modReset : Bool
  scl : Bool
  sda : Bool
  rx : BitVec 48
  deriving DecidableEq, Repr

/-- Boundary cells that control pins (R567): ALERT_N and SDA, where true lets the open-drain pin go, and the drivers of the 48 transmit pairs. -/
structure PinCells where
  alert : Bool
  sda : Bool
  tx : BitVec 48
  deriving DecidableEq, Repr

/-- A Twig message from a hub (R194, R196): the hub's die and the header word. -/
structure TwigMsg where
  die : DieId
  header : BitVec 32
  deriving DecidableEq, Repr

/-- What a REG_DATA carries to the hub (R197): the TAG of its REG_RD and the register's value. -/
structure RegReply where
  tag : BitVec 5
  value : BitVec 32
  deriving DecidableEq, Repr

/-- The MCTP control messages the I3C endpoint answers (R516). -/
inductive McmpCmd where
  | setEndpointId (eid : BitVec 8)
  | getEndpointId
  | getVersionSupport (type : BitVec 8)
  | getMessageTypeSupport
  deriving DecidableEq, Repr

/-- The commands of the block: one constructor for each row of the table of operations and events. -/
inductive Instr where
  /-- LAUNCH (R571). Job launch of a partition's image: checks, write-back of the previous job's dirty L1 lines, store zeroing and loading of every tile. -/
  | launch (p : PartId) (img : Image)
  /-- FIRST_BUNDLE (R89). All tiles of a job issue their first bundle at the frame boundary that START named. -/
  | firstBundle (p : PartId)
  /-- TILE_PRUNE (R53). A write of 1 to TILE_PRUNE.PRUNE requests a prune of the tile. -/
  | tilePrune (t : TileId) (f : Fn) (v : BitVec 32)
  /-- PRUNE (R43). A tile's Twig node receives a prune command; the tile enters Pruning, and new mover issues are refused. -/
  | prune (x : TwigMsg)
  /-- PRUNE_FRAME_F (R43). At frame boundary F the sequencer halts, compute outputs become null and dirty-line write-back starts. -/
  | pruneFrameF (t : TileId)
  /-- PRUNE_WRITEBACK_DONE (R43). The last dirty line's write-back is acknowledged, and the tile is clock-gated and enters Pruned. -/
  | pruneWritebackDone (t : TileId)
  /-- PRUNE_WRITEBACK_TIMEOUT (R44). The write-back is not acknowledged within 128,000 cycles after F, and the tile enters Pruned regardless. -/
  | pruneWritebackTimeout (t : TileId)
  /-- BANK_WAIT_LIMIT (R29). A requester that has lost a bank for 64 consecutive cycles is served in the next cycle free of priority-1 accesses. -/
  | bankWaitLimit (t : TileId) (bank : Fin 32) (r : BankRequester)
  /-- MMA (R95). M-slot matrix multiply with both operands from LS into a bank. -/
  | mma (t : TileId) (w : BitVec 80) (e : BundleEnd)
  /-- MMA_SA (R97). M-slot matrix multiply with operand A from the Sheller. -/
  | mmaSa (t : TileId) (w : BitVec 80) (e : BundleEnd)
  /-- MMA_SB (R97). M-slot matrix multiply with operand B from the Sheller. -/
  | mmaSb (t : TileId) (w : BitVec 80) (e : BundleEnd)
  /-- CLEAR (R100). M-slot CLEAR clears a bank and loads its window exponent W. -/
  | clear (t : TileId) (w : BitVec 80) (e : BundleEnd)
  /-- ACCUMULATION_COMPLETE (R97). An accumulation adds its terms to the bank in its completion cycle. -/
  | accumulationComplete (t : TileId)
  /-- RAMP_HOLD_END (R123). A ramp hold ends at the next tick boundary. -/
  | rampHoldEnd (t : TileId)
  /-- ADD (R140). Vector function 1, S1 + S2, in the V slot or in GX. -/
  | add (site : VecSite)
  /-- SUB (R140). Vector function 2, S1 − S2. -/
  | sub (site : VecSite)
  /-- MUL (R140). Vector function 3, S1 · S2. -/
  | mul (site : VecSite)
  /-- FMA (R140). Vector function 4, fused S1 · S2 + S3. -/
  | fma (site : VecSite)
  /-- MIN (R140). Vector function 5, the smaller operand. -/
  | min (site : VecSite)
  /-- MAX (R140). Vector function 6, the larger operand. -/
  | max (site : VecSite)
  /-- ABS (R140). Vector function 7, absolute value. -/
  | abs (site : VecSite)
  /-- NEG (R140). Vector function 8, negation. -/
  | neg (site : VecSite)
  /-- CVT (R80). Vector function 9, conversion between formats. -/
  | cvt (site : VecSite)
  /-- CMPEQ (R141). Vector function 10, equality compare giving bit pattern 1 or 0. -/
  | cmpeq (site : VecSite)
  /-- CMPLT (R141). Vector function 11, less-than compare. -/
  | cmplt (site : VecSite)
  /-- CMPLE (R141). Vector function 12, less-or-equal compare. -/
  | cmple (site : VecSite)
  /-- SEL (R141). Vector function 13, selection by the bits of S3. -/
  | sel (site : VecSite)
  /-- RCP (R141). Vector function 14, correctly rounded reciprocal. -/
  | rcp (site : VecSite)
  /-- RSQRT (R141). Vector function 15, correctly rounded reciprocal square root. -/
  | rsqrt (site : VecSite)
  /-- EXP2 (R141). Vector function 16, correctly rounded 2^S1. -/
  | exp2 (site : VecSite)
  /-- LOG2 (R141). Vector function 17, correctly rounded log2 S1. -/
  | log2 (site : VecSite)
  /-- SQRT (R140). Vector function 18, square root. -/
  | sqrt (site : VecSite)
  /-- AND (R140). Vector function 19, bitwise AND. -/
  | andV (site : VecSite)
  /-- OR (R140). Vector function 20, bitwise OR. -/
  | orV (site : VecSite)
  /-- XOR (R140). Vector function 21, bitwise XOR. -/
  | xorV (site : VecSite)
  /-- SHL (R140). Vector function 22, shift left. -/
  | shl (site : VecSite)
  /-- SHR (R140). Vector function 23, logical shift right. -/
  | shr (site : VecSite)
  /-- SRA (R140). Vector function 24, arithmetic shift right. -/
  | sra (site : VecSite)
  /-- MULHI (R140). Vector function 25, high half of the signed product. -/
  | mulhi (site : VecSite)
  /-- CLZ (R140). Vector function 26, count of leading zeros. -/
  | clz (site : VecSite)
  /-- POPC (R140). Vector function 27, count of set bits. -/
  | popc (site : VecSite)
  /-- FLOOR (R140). Vector function 28, floor. -/
  | floor (site : VecSite)
  /-- RINT (R140). Vector function 29, round to the nearest integral value, ties to even. -/
  | rint (site : VecSite)
  /-- READOUT (R104). V-slot readout of a bank to LS as FP32, BF16 or raw, with an optional clear. -/
  | readout (t : TileId) (w : BitVec 64) (e : BundleEnd)
  /-- IMPORT (R105). V-slot raw import of 64 beats into a bank. -/
  | importRaw (t : TileId) (w : BitVec 64) (e : BundleEnd)
  /-- SHELL_START (R106). V-slot start of a Sheller stream. -/
  | shellStart (t : TileId) (w : BitVec 64) (e : BundleEnd)
  /-- STATE_COPY (R107). V-slot copy of the E_MAX values and MATRIX_FLAGS to an LS beat. -/
  | stateCopy (t : TileId) (w : BitVec 64) (e : BundleEnd)
  /-- SEND (R110). X-slot SEND places NFLIT entries in the send queue. -/
  | send (t : TileId) (w : BitVec 64) (e : BundleEnd)
  /-- RECV (R112). X-slot RECV posts NFLIT landing addresses. -/
  | recv (t : TileId) (w : BitVec 64) (e : BundleEnd)
  /-- NSEND (R113). X-slot send of units on a neighbour lane. -/
  | nsend (t : TileId) (w : BitVec 64) (e : BundleEnd)
  /-- NRECV (R113). X-slot receive posts on a neighbour lane. -/
  | nrecv (t : TileId) (w : BitVec 64) (e : BundleEnd)
  /-- MOVE (R109). X-slot issue of a descriptor to a mover, a release at the current scope. -/
  | move (t : TileId) (w : BitVec 64) (e : BundleEnd)
  /-- LOOP (R115). C-slot LOOP loads a loop counter and starts a counted body. -/
  | loop (t : TileId) (w : BitVec 40) (e : BundleEnd)
  /-- BRC (R117). C-slot conditional branch on a loop counter. -/
  | brc (t : TileId) (w : BitVec 40) (e : BundleEnd)
  /-- WAIT (R120). C-slot WAIT holds the bundle until an arrival counter reaches the threshold. -/
  | wait (t : TileId) (w : BitVec 40) (e : BundleEnd)
  /-- WAIT_TIMEOUT (R121). A counter wait exceeds the partition's wait timeout, and the job is killed with code 0x05. -/
  | waitTimeout (t : TileId) (g : Option GSlot)
  /-- SEQUENCER_STALL_TIMEOUT (R467). A sequencer held on a mover, queue, posts or Sheller beyond the wait timeout kills the job. -/
  | sequencerStallTimeout (t : TileId)
  /-- GRANT (R32). C-slot GRANT opens NCYC cycles and lends one accumulator bank to the group engine. -/
  | grant (t : TileId) (w : BitVec 40) (e : BundleEnd)
  /-- GRANT_END (R77). The last open cycle passes, and the lent bank returns to the sequencer. -/
  | grantEnd (t : TileId)
  /-- MARK (R118). C-slot MARK starts a new command with layer and operator identifiers. -/
  | mark (t : TileId) (w : BitVec 40) (e : BundleEnd)
  /-- EPOCH (R119). C-slot EPOCH delays the next bundle to the first cycle of the next epoch. -/
  | epoch (t : TileId) (w : BitVec 40) (e : BundleEnd)
  /-- ADDI (R115). C-slot add of an immediate to an address register. -/
  | addi (t : TileId) (w : BitVec 40) (e : BundleEnd)
  /-- SETL (R115). C-slot load of a loop counter. -/
  | setl (t : TileId) (w : BitVec 40) (e : BundleEnd)
  /-- ENV (R115). C-slot setting of the envelope limit. -/
  | env (t : TileId) (w : BitVec 40) (e : BundleEnd)
  /-- SCOPE (R115). C-slot setting of the sequencer's release and acquire scope. -/
  | scope (t : TileId) (w : BitVec 40) (e : BundleEnd)
  /-- PHASE (R125). C-slot PHASE stops issue and reports phase end once movers, queues and writes drain. -/
  | phase (t : TileId) (w : BitVec 40) (e : BundleEnd)
  /-- PHASE_RELOAD (R125). Once every tile has reported phase end, the firmware reloads LS images and starts the next phase. -/
  | phaseReload (p : PartId)
  /-- END (R124). C-slot END stops issue and reports done once outstanding work completes. -/
  | endStream (t : TileId) (w : BitVec 40) (e : BundleEnd)
  /-- JOB_CLOSE (R124). The firmware closes the job after every tile has reported END, returning tiles to Idle. -/
  | jobClose (p : PartId)
  /-- SLOT_TABLE_ENTRY (R171). Each cycle every router output obeys its slot-table entry, forwarding or injecting a flit. -/
  | slotTableEntry (t : TileId) (o : RouterOut) (link : LinkCheck)
  /-- FLIT_LANDING (R112). A flit arriving in an ejection slot lands at the oldest post, or joins the landing ring. -/
  | flitLanding (t : TileId) (lane : Option Dir) (f : Flit)
  /-- DYNAMIC_CYCLE (R179). In an output's dynamic cycle its owner's dynamic flits are arbitrated round-robin and sent. -/
  | dynamicCycle (t : TileId) (o : RouterOut) (link : LinkCheck)
  /-- SWAP (R175). Twig SWAP names a partition and a frame for its shadow tables. -/
  | swap (x : TwigMsg) (frame : Nat)
  /-- SWAP_FRAME (R175). At the named frame every table of the partition makes its shadow copy active. -/
  | swapFrame (p : PartId)
  /-- TABLE_WR (R197). Twig TABLE_WR writes shadow slot-table entries. -/
  | tableWr (x : TwigMsg) (words : List (BitVec 32))
  /-- HEARTBEAT (R197). Each tile sends a Twig heartbeat every 65,536 cycles. -/
  | heartbeat (t : TileId)
  /-- HEARTBEAT_MISS (R466). Four missed heartbeats make the firmware probe the tile with REG_RD. -/
  | heartbeatMiss (t : TileId)
  /-- HEARTBEAT_PROBE_TIMEOUT (R466). No reply to the probe within 2,048 cycles leads to a retry by the opposite route, then prune or RouterFault. -/
  | heartbeatProbeTimeout (t : TileId)
  /-- FENCE (R197). Twig FENCE stops the router accepting new dynamic packets from the local port. -/
  | fence (x : TwigMsg)
  /-- FENCE_DONE (R197). Twig FENCE_DONE reports that every dynamic packet of the tile has left its router. -/
  | fenceDone (t : TileId)
  /-- KILL (R197). Twig KILL kills the job at a tile. -/
  | kill (x : TwigMsg)
  /-- START (R197). Twig START names the frame of the first bundle of a job or phase. -/
  | start (x : TwigMsg) (frame : Nat)
  /-- REG_RD (R197). Twig REG_RD reads a tile register. -/
  | regRd (x : TwigMsg) (off : Nat)
  /-- REG_WR (R197). Twig REG_WR writes a tile register. -/
  | regWr (x : TwigMsg) (off : Nat) (v : BitVec 32)
  /-- REG_DATA (R197). Twig REG_DATA returns a register value to the hub. -/
  | regData (t : TileId) (x : RegReply)
  /-- EVENT (R197). Twig EVENT reports END done, phase end, a cohort TAG or a fault. -/
  | event (t : TileId) (k : TwigEvent)
  /-- LAUNCH_REC (R130). Twig LAUNCH_REC places a launch record in the tile's launch queue. -/
  | launchRec (x : TwigMsg) (r : BitVec 64)
  /-- SNAP_REQ (R475). A hang-kind SNAP_REQ stops the compute sub-domain and captures the tile record for streaming. -/
  | snapReq (d : DieId) (h : BitVec 32) (hang : Bool)
  /-- SNAP_DATA (R475). Twig SNAP_DATA carries snapshot contents to the hub. -/
  | snapData (t : TileId) (words : List (BitVec 32))
  /-- COUNTER_SNAPSHOT (R494). A counter-kind SNAP_REQ returns the completed banks in four SNAP_DATA messages. -/
  | counterSnapshot (t : TileId)
  /-- GROUP_RESIDENT (R131). A cohort's next group becomes resident once registers, local memory and a slot are free. -/
  | groupResident (t : TileId)
  /-- PROMOTION (R136). A pending group whose event has arrived is promoted to a free active slot. -/
  | promotion (t : TileId)
  /-- NOP (R139). GX no-operation. -/
  | nop (t : TileId) (g : GSlot) (w : BitVec 64)
  /-- MOVI (R142). GX move of an immediate to a register. -/
  | movi (t : TileId) (g : GSlot) (w : BitVec 64)
  /-- RDSPEC (R142). GX read of a special value. -/
  | rdspec (t : TileId) (g : GSlot) (w : BitVec 64)
  /-- SETP (R142). GX compare into a predicate. -/
  | setp (t : TileId) (g : GSlot) (w : BitVec 64)
  /-- PLOG (R142). GX predicate logic. -/
  | plog (t : TileId) (g : GSlot) (w : BitVec 64)
  /-- VOTE (R142). GX vote of a predicate into a lane mask. -/
  | vote (t : TileId) (g : GSlot) (w : BitVec 64)
  /-- SHFL (R142). GX cross-lane shuffle. -/
  | shfl (t : TileId) (g : GSlot) (w : BitVec 64)
  /-- LFOLD (R142). GX cross-lane fold over segments. -/
  | lfold (t : TileId) (g : GSlot) (w : BitVec 64)
  /-- LD (R143). GX load from DM, group-local memory or LS. -/
  | ld (t : TileId) (g : GSlot) (w : BitVec 64)
  /-- ST (R143). GX store to DM, group-local memory or LS. -/
  | st (t : TileId) (g : GSlot) (w : BitVec 64)
  /-- ATOM (R151). GX atomic with fetch, combined per address and applied at the home. -/
  | atom (t : TileId) (g : GSlot) (w : BitVec 64)
  /-- ATOMN (R150). GX atomic without fetch. -/
  | atomn (t : TileId) (g : GSlot) (w : BitVec 64)
  /-- LADD (R153). GX add-to-line of a whole line into its home line. -/
  | ladd (t : TileId) (g : GSlot) (w : BitVec 64)
  /-- BAR (R157). GX barrier arrival for the cohort. -/
  | bar (t : TileId) (g : GSlot) (w : BitVec 64)
  /-- WAITAC (R158). GX wait on an arrival counter. -/
  | waitac (t : TileId) (g : GSlot) (w : BitVec 64)
  /-- RDAC (R158). GX read of an arrival counter. -/
  | rdac (t : TileId) (g : GSlot) (w : BitVec 64)
  /-- MOVEG (R158). GX issue of a descriptor to a mover assigned to the group engine. -/
  | moveg (t : TileId) (g : GSlot) (w : BitVec 64)
  /-- SPAWN (R158). GX entry of a launch record into the tile's launch queue. -/
  | spawn (t : TileId) (g : GSlot) (w : BitVec 64)
  /-- BR (R154). GX branch with divergence and reconvergence. -/
  | br (t : TileId) (g : GSlot) (w : BitVec 64)
  /-- EXIT (R155). GX EXIT ends lanes, freeing the group's resources at its last exit. -/
  | exit (t : TileId) (g : GSlot) (w : BitVec 64)
  /-- GMMA (R160). GX group-wide matrix multiply into the lent bank. -/
  | gmma (t : TileId) (g : GSlot) (w : BitVec 64)
  /-- GMMA_START (R161). A pending GMMA starts in an open cycle with enough open cycles remaining. -/
  | gmmaStart (t : TileId) (g : GSlot)
  /-- GREAD (R162). GX readout of the lent bank to LS. -/
  | gread (t : TileId) (g : GSlot) (w : BitVec 64)
  /-- GREAD_START (R162). A pending GREAD starts when the grant leaves enough open cycles and the readout path is free. -/
  | greadStart (t : TileId) (g : GSlot)
  /-- FORWARD_PROGRESS_TIMEOUT (R137). A resident group that issues nothing beyond the limit kills the job with code 0x06. -/
  | forwardProgressTimeout (t : TileId) (g : GSlot)
  /-- JOB_KILL (R163). A fault or detector kills a partition's job, stopping its engines and movers. -/
  | jobKill (p : PartId) (cause : KillCause)
  /-- DESCRIPTOR_START (R212). A mover starts its next descriptor once its earlier descriptor allows. -/
  | descriptorStart (t : TileId) (m : MoverId)
  /-- COPY (R208). A COPY descriptor is checked, translated and copied between spaces. -/
  | copy (t : TileId) (m : MoverId)
  /-- AC_SUB (R216). An AC_SUB descriptor subtracts AMOUNT from an arrival counter, floored at 0. -/
  | acSub (t : TileId) (m : MoverId)
  /-- DESCRIPTOR_RETIRE (R212). A descriptor retires once the last reply for its bytes has returned. -/
  | descriptorRetire (t : TileId) (m : MoverId)
  /-- MW (R213). An MW packet lands mover bytes in LS and counts them. -/
  | mw (x : MwPacket)
  /-- MACK (R213). An MACK answers an MW with its landed, null or refused status. -/
  | mack (x : MwHdr)
  /-- RANGE_LOOKUP (R276). A translation lookup completes and uses the table contents in force in its cycle. -/
  | rangeLookup (t : TileId) (va : BitVec 64)
  /-- GETS (R251). A read request for sectors of a line at the home. -/
  | gets (h : SliceId) (m : CMsg)
  /-- GETM (R251). An ownership request for a whole line at the home. -/
  | getm (h : SliceId) (m : CMsg)
  /-- RDU (R251). An uncached read request at the home. -/
  | rdu (h : SliceId) (m : CMsg)
  /-- WRU (R251). An uncached write of masked bytes at the home. -/
  | wru (h : SliceId) (m : CMsg)
  /-- ATOMIC (R251). An atomic request applied at the home. -/
  | atomic (h : SliceId) (m : CMsg)
  /-- ADD_TO_LINE (R258). An add-to-line request for one line at the home. -/
  | addToLine (h : SliceId) (m : CMsg)
  /-- LINE_ADDITION (R259). The slice's adder applies one pending line addition, every 2 cycles. -/
  | lineAddition (h : SliceId)
  /-- DISCARD (R262). A DISCARD request invalidates every copy and marks the line DISCARDED. -/
  | discard (h : SliceId) (m : CMsg)
  /-- MRD (R251). A mover read at the home, answered with an MW to the destination. -/
  | mrd (h : SliceId) (m : CMsg)
  /-- DMW (R251). A mover or home write of masked bytes, counted at CNT_TILE. -/
  | dmw (h : SliceId) (m : CMsg)
  /-- WB (R235). A write-back of dirty sectors at the home. -/
  | wb (h : SliceId) (m : CMsg)
  /-- CNT (R215). A CNT message counts bytes at a tile's arrival counter. -/
  | cnt (t : TileId) (m : CMsg)
  /-- FWD_S (R241). A forward makes the owner send sectors to the requester and keep a copy. -/
  | fwdS (t : TileId) (m : CMsg)
  /-- FWD_M (R241). A forward makes the owner send the line to the requester and invalidate. -/
  | fwdM (t : TileId) (m : CMsg)
  /-- INV (R241). An invalidation makes a sharer drop its copy. -/
  | inv (t : TileId) (m : CMsg)
  /-- RECALL (R241). A recall makes the owner return dirty sectors and invalidate. -/
  | recall (t : TileId) (m : CMsg)
  /-- RING_INV (R246). A ring broadcast of invalidations to marked dies' ring agents. -/
  | ringInv (d : DieId) (h : SliceId) (m : CMsg)
  /-- DATA (R252). A DATA response delivers sectors and a grant to the requester. -/
  | data (t : TileId) (m : CMsg)
  /-- ACK (R244). An ACK completes a write-back, write, atomic without fetch, add-to-line or discard. -/
  | ack (t : TileId) (mv : Option MoverId) (m : CMsg)
  /-- FWD_ACK (R251). An owner reports that a forward has been done. -/
  | fwdAck (h : SliceId) (m : CMsg)
  /-- INV_ACK (R251). A sharer reports that its copy has been dropped. -/
  | invAck (r : ReplyTo) (m : CMsg)
  /-- NOT_PRESENT (R247). A tile reports that it held no copy. -/
  | notPresent (r : ReplyTo) (m : CMsg)
  /-- WB_IN_FLIGHT (R252). An L1 reports a forwarded line whose write-back is unacknowledged. -/
  | wbInFlight (h : SliceId) (m : CMsg)
  /-- ATOMR (R151). The home returns atomic fetch values. -/
  | atomr (t : TileId) (m : CMsg)
  /-- RING_ACK (R246). A ring agent reports the invalidations of its die. -/
  | ringAck (h : SliceId) (d : DieId) (m : CMsg)
  /-- HOME_TIMEOUT (R253). A transaction waiting 128,000 cycles poisons its line. -/
  | homeTimeout (h : SliceId) (line : Nat)
  /-- XL_ADD (R281). Translation command ADD places a staged range entry in a slot. -/
  | xlAdd (p : PartId) (v : BitVec 32)
  /-- XL_WITHDRAW (R282). Translation command WITHDRAW starts withdrawal of a range. -/
  | xlWithdraw (p : PartId) (v : BitVec 32)
  /-- XL_READ (R281). Translation command READ copies a slot into XL_ENTRY. -/
  | xlRead (p : PartId) (v : BitVec 32)
  /-- WIN_ADD (R281). Adds a range to a receive window's table. -/
  | winAdd (p : PartId) (v : BitVec 32)
  /-- WIN_WITHDRAW (R282). Withdraws a range of a receive window. -/
  | winWithdraw (p : PartId) (v : BitVec 32)
  /-- WIN_CFG (R281). Enables, disables or configures a receive window's accepted senders. -/
  | winCfg (p : PartId) (v : BitVec 32)
  /-- WIN_READ (R281). Copies a window slot into XL_ENTRY. -/
  | winRead (p : PartId) (v : BitVec 32)
  /-- WITHDRAW_EFFECT (R282). At effect cycle w the range leaves the table, every lookaside and every die cache. -/
  | withdrawEffect (p : PartId)
  /-- DRAIN_REPORT (R282). A tile reports that its last use of the withdrawn range has ended. -/
  | drainReport (p : PartId) (t : TileId)
  /-- DRAIN_ABANDONED (R284). Drain unfinished 100 ms after w kills the job and ends the withdrawal with 0x06. -/
  | drainAbandoned (p : PartId)
  /-- WINDOW_WRITE (R278). A window write arriving from Coppice is checked and landed, or refused. -/
  | windowWrite (n : PortId) (c : LockCell)
  /-- DLOG_CTRL (R287). A write of DLOG_CTRL enables or disables dirty logging. -/
  | dlogCtrl (p : PartId) (v : BitVec 32)
  /-- DLOG_CLEAR (R287). A write of DLOG_CLEAR clears one page of the dirty bitmap. -/
  | dlogClear (p : PartId) (v : BitVec 32)
  /-- TEMPERATURE_READOUT (R298). Each stack's temperature is read every 1 ms and sets its refresh rate. -/
  | temperatureReadout (k : StackId) (temp : Option Nat)
  /-- REFRESH (R298). A per-bank refresh is issued at the rate in force. -/
  | refresh (k : StackId)
  /-- RFM (R289). A refresh-management request from a stack is honoured before bank accesses. -/
  | rfm (k : StackId)
  /-- PATROL (R297). A patrol read checks a codeword and rewrites it corrected or poisoned. -/
  | patrol (pa : BitVec 41)
  /-- STACK_FAILED (R302). A stack is declared failed in service; reads answer Poison, and a device reset is requested. -/
  | stackFailed (k : StackId) (why : StackFault)
  /-- STACK_TEMPERATURE_WAIT (R301). A stack shut down for temperature is excluded when no readout falls below 85 °C within 60 s. -/
  | stackTemperatureWait (k : StackId)
  /-- PAGE_READ (R317). A Seedbank page read ends decoded, retried, rebuilt or lost. -/
  | pageRead (ext page : Nat) (o : PageOutcome)
  /-- PAGE_WRITE (R319). A page write is counted once it is programmed and verified in staging. -/
  | pageWrite (ext page : Nat) (programFailed : Bool)
  /-- EXTENT_CREATE (R315). Extent command CREATE allocates an extent with a new key for a partition. -/
  | extentCreate (c : List Byte)
  /-- EXTENT_DELETE (R315). Extent command DELETE destroys the key, then trims pages and frees capacity. -/
  | extentDelete (c : List Byte)
  /-- ATTACH (R315). Extent command ATTACH gives a detached extent to a partition. -/
  | attach (c : List Byte)
  /-- READ_DISTURB_REFRESH (R322). A block with 50,000 page reads is rewritten elsewhere and erased. -/
  | readDisturbRefresh (b : Nat)
  /-- RETENTION_REFRESH (R322). A block at 90 days of equivalent age is rewritten. -/
  | retentionRefresh (b : Nat)
  /-- STATIC_WEAR_LEVELLING (R322). The least-erased block's data is moved when the erase-count spread exceeds 200. -/
  | staticWearLevelling (ch : ChanId)
  /-- DIE_FAILURE (R322). A failed NAND die is rebuilt from stripe parity, and its channel reports degraded. -/
  | dieFailure (ch : ChanId) (die : Fin 8)
  /-- FOLD (R311). A whole stripe is folded from staging into TLC and verified. -/
  | fold (programFailed : Bool)
  /-- GARBAGE_COLLECTION (R321). Garbage collection reclaims TLC blocks within its share of channel time. -/
  | garbageCollection (ch : ChanId)
  /-- RETENTION_SCAN (R325). After loss of all power, one page per block is read, and blocks needing retries are refreshed. -/
  | retentionScan (blocks : List Nat)
  /-- CHANNEL_TRAINING (R308). ONFI channels are retrained and ZQ-calibrated every 24 hours. -/
  | channelTraining (ch : ChanId) (ok : Bool)
  /-- SEEDBANK_READY (R331). Channels trained and metadata rebuilt, the Seedbank is reported ready. -/
  | seedbankReady
  /-- PARK (R328). The firmware parks a session by writing its data pages into the session extent. -/
  | park (id : Nat)
  /-- SESSION_PARKED (R328). The header page is counted, the session is Parked, and its DM is freed. -/
  | sessionParked (id : Nat)
  /-- RESUME (R329). The firmware reads a parked session's pages and header back into DM. -/
  | resume (id : Nat)
  /-- RESUME_COMPLETE (R329). Every line counted and the header checked, the session becomes resident or the resume fails. -/
  | resumeComplete (id : Nat)
  /-- SNAPSHOT_BUDGET (R476). At 50 ms from the first SNAP_REQ collection ends, silent tiles are marked, and the sample is written. -/
  | snapshotBudget
  /-- UNSTABLE (R347). A bundle's errors beyond the threshold within one second set its UNSTABLE flag. -/
  | unstable (l : LinkId) (b : Fin 64)
  /-- BUNDLE_CLOCK_FAILURE (R362). A bundle's last clock wire fails in service, and its flits are discarded or poisoned. -/
  | bundleClockFailure (l : LinkId) (b : Fin 64) (dir : Bool)
  /-- CELL (R369). A lockstep port sends one cell for each position, by its send table. -/
  | cell (n : PortId)
  /-- CELL_ARRIVAL (R376). A cell arrives at a lockstep port and is stored in the landing buffer or discarded. -/
  | cellArrival (n : PortId) (c : LockCell) (uncorrectable : Bool)
  /-- RELEASE (R375). In its release cycle the landing table and the cell found decide the flit released. -/
  | release (n : PortId)
  /-- TICK (R371). A TICK control block carries group time, and the receiver measures SKEW. -/
  | tick (n : PortId) (b : BitVec 257)
  /-- ALIGN_REQ (R381). An alignment request block. -/
  | alignReq (n : PortId) (b : BitVec 257)
  /-- ALIGN_RSP (R381). An alignment response block, from which D and Δ are computed. -/
  | alignRsp (n : PortId) (b : BitVec 257)
  /-- LINK_ID (R381). A LINK_ID block is checked against the expected group, member and port. -/
  | linkId (n : PortId) (b : BitVec 257)
  /-- FREQ (R380). A FREQ block names a point and epoch and is forwarded on the other ports. -/
  | freq (n : PortId) (b : BitVec 257)
  /-- CREDIT (R388). A CREDIT block returns hop-pool credits. -/
  | credit (n : PortId) (b : BitVec 257)
  /-- FILL (R371). A FILL control block carries nothing. -/
  | fill (n : PortId) (b : BitVec 257)
  /-- ALIGNMENT_SLIP_DONE (R381). The child's slip completes, OFFSET is set, and measurement repeats until aligned. -/
  | alignmentSlipDone (n : PortId)
  /-- PARENT_LOST (R379). The parent port goes down; holdover starts, and any lockstep job is killed. -/
  | parentLost
  /-- HOLDOVER_END (R379). After 1 s of holdover the module runs from its own reference. -/
  | holdoverEnd
  /-- PEER_LOST (R387). 64 positions without the job's tag kill the lockstep job on this module. -/
  | peerLost (n : PortId)
  /-- LINK_DOWN (R365). A port leaves state 3 or 4 because a lane is down. -/
  | linkDown (n : PortId) (lane : Fin 4)
  /-- LOCKSTEP_LAUNCH (R386). A lockstep launch names start tick T0 and a JOB_TAG on every member. -/
  | lockstepLaunch (p : PartId) (t0 : Nat) (tag : BitVec 16) (img : Image)
  /-- WINDOW_CELL (R388). Window-bound mover bytes are cut into window cells and queued on the routed port. -/
  | windowCell (n : PortId) (c : LockCell)
  /-- WANTED_POINT (R448). The root receives a member's wanted point as a window cell. -/
  | wantedPoint (c : LockCell)
  /-- FRAME (R392). A service port receives a frame and checks it in order, discarding failures. -/
  | frame (n : PortId) (bytes : List Byte) (pcsError : Bool) (us : Nat)
  /-- REQUEST (R414). A REQUEST opens or continues a session's request in the partition's intake. -/
  | request (m : InMsg)
  /-- CONTINUE (R414). A CONTINUE appends input to a request. -/
  | continueReq (m : InMsg)
  /-- CANCEL (R424). A CANCEL ends a request at the next step boundary. -/
  | cancel (m : InMsg)
  /-- PING (R394). A PING is answered with a PONG carrying the same body. -/
  | ping (m : InMsg)
  /-- INPUT_TIMEOUT (R416). A request missing CONTINUE input for 1 s ends with REJECT reason 7. -/
  | inputTimeout (p : PartId) (reqId : Nat)
  /-- CREATE (R403). Partition command CREATE builds a partition from its definition. -/
  | create (p : PartId)
  /-- DELETE (R404). Partition command DELETE ends requests, kills, parks, withdraws and frees a partition. -/
  | delete (p : PartId)
  /-- RESET (R404). Partition command RESET ends requests, kills the job and writes back L1 lines. -/
  | reset (p : PartId)
  /-- SESSION_EXTENT (R406). A write of 0x3011 names the session extent, and its image headers are scanned. -/
  | sessionExtent (p : PartId) (ext : BitVec 16)
  /-- SESSION_SELECT (R435). A write of a session ID to 0x3095 selects a record for reading. -/
  | sessionSelect (r : Requester) (p : PartId) (v : List Byte)
  /-- QP_CTRL (R410). A write of QP_CTRL enables or configures a queue pair. -/
  | qpCtrl (p : PartId) (q : QpId) (v : BitVec 32)
  /-- QP_SQ_TAIL (R410). A write of the submission tail rings the doorbell. -/
  | qpSqTail (p : PartId) (q : QpId) (v : BitVec 32)
  /-- QP_RQ_HEAD (R410). A write of the response head frees ring space for held responses. -/
  | qpRqHead (p : PartId) (q : QpId) (v : BitVec 32)
  /-- SUBMISSION_ENTRY (R411). The module reads one submission entry and its message from the host. -/
  | submissionEntry (p : PartId) (q : QpId) (entry : List Byte) (msg : Option (List Byte)) (us : Nat)
  /-- STEP_BOUNDARY (R427). The scheduler builds, admits and writes the next step record. -/
  | stepBoundary (p : PartId) (us : Nat)
  /-- STEP_OUTPUT (R422). The job reports a step's output, and the firmware updates sessions and sends results. -/
  | stepOutput (p : PartId) (us : Nat)
  /-- SESSION_COMMAND (R426). A member applies a session command or step record from the entry member via window 63. -/
  | sessionCommand (p : PartId) (cmd : SessCmd)
  /-- RESUME_CONFIRMATION_TIMEOUT (R426). Missing resume confirmations after 10 ms reject the request with reason 6. -/
  | resumeConfirmationTimeout (p : PartId) (id : Nat)
  /-- ESTIMATION_INTERVAL (R436). Every 4,096 cycles the governor estimates energy and reads every sensor. -/
  | estimationInterval (x : Interval)
  /-- EPOCH_BOUNDARY (R446). At an epoch boundary the point changes, gains calibrate, and headroom is divided. -/
  | epochBoundary (x : EpochMeasure)
  /-- POINT_DECISION (R446). In cycle 2^19 of an epoch the governor decides the next point and sends FREQ or its wanted point. -/
  | pointDecision
  /-- DROOP_DETECTION (R450). A region's droop detector starts a stretch event. -/
  | droopDetection (region : Fin 36)
  /-- STRETCH_EVENT (R451). A stretch event passes every second pulse for 256 ideal periods. -/
  | stretchEvent
  /-- STRETCH_EVENT_END (R451). A stretch event ends 256 periods after its last trigger. -/
  | stretchEventEnd
  /-- STEP_WATCHDOG (R464). A step unreported beyond the watchdog limit kills the job. -/
  | stepWatchdog (p : PartId)
  /-- HUB_WATCHDOG (R464). A Twig hub silent for 10 ms starts a device reset. -/
  | hubWatchdog (d : DieId)
  /-- APPLICATION_CORE_WATCHDOG (R464). No kick for 250 ms starts a device reset and reboots the application cores. -/
  | applicationCoreWatchdog
  /-- MANAGEMENT_WATCHDOG (R464). No kick for 1 s starts a module reset. -/
  | managementWatchdog
  /-- ESCALATION (R468). A reset that misses its bound is replaced by a reset of the next domain. -/
  | escalation (p : Option PartId)
  /-- DEVICE_RESET (R471). A device reset stops intake, takes a snapshot, holds the dies and reruns the start. -/
  | deviceReset (cause : BitVec 8)
  /-- MODULE_RESET (R468). A module reset resets everything, the Husk included. -/
  | moduleReset (cause : BitVec 8)
  /-- CLEAR_WITHDRAWN (R474). A write of 0 to 0x9031 clears Withdrawn and starts an uncounted device reset. -/
  | clearWithdrawn
  /-- ENTER_WITHDRAWN (R474). A write of 1 to 0x9031 enters Withdrawn. -/
  | enterWithdrawn
  /-- JOB_KILL_COMMAND (R483). A write of 1 to 0x9051 kills the partition's job. -/
  | jobKillCommand (p : PartId)
  /-- HOLD_FLAG_CLEAR (R469). A write of 0 to 0x9021 clears the partition's hold flag. -/
  | holdFlagClear (p : PartId)
  /-- COUNTER_SWEEP (R502). A read of 0x8050 runs a counter snapshot of the partition and returns sums. -/
  | counterSweep (r : Requester) (p : PartId)
  /-- AC_VALUE_LO (R39). A read of AC_VALUE_LO latches the counter's high bits into AC_VALUE_HI. -/
  | acValueLo (f : Fn) (t : TileId)
  /-- CNT_LO (R493). A read of CNT_LO latches CNT_HI, CNT_TAG and CNT_SEQ. -/
  | cntLo (f : Fn) (t : TileId)
  /-- ESP_CYCLE_LO (R201). A read of ESP_CYCLE_LO latches the cycle counter's high bits. -/
  | espCycleLo
  /-- HS_POISON_LO (R268). A read of HS_POISON_LO latches HS_POISON_HI. -/
  | hsPoisonLo (h : SliceId)
  /-- STK_LAST_LO (R305). A read of STK_LAST_LO latches STK_LAST_HI. -/
  | stkLastLo (k : StackId)
  /-- READ (R513). Hedgerow READ returns an entry's value. -/
  | read (r : Requester) (f : HFrame)
  /-- WRITE (R509). Hedgerow WRITE sets an entry's value, storing persisted entries in NOR. -/
  | write (r : Requester) (f : HFrame) (stored : Bool)
  /-- READ_SEG (R514). Hedgerow READ_SEG returns a segment of a snapshot of a long value. -/
  | readSeg (r : Requester) (f : HFrame)
  /-- DICTIONARY_CLEAR (R507). Hedgerow CLEAR sets an entry to empty. -/
  | dictionaryClear (r : Requester) (f : HFrame) (stored : Bool)
  /-- OPEN (R513). Hedgerow OPEN starts a UDP session and returns a nonce. -/
  | openSession (r : Requester) (f : HFrame) (src : List Byte)
  /-- AUTH (R516). Hedgerow AUTH checks the session's proof. -/
  | auth (r : Requester) (f : HFrame)
  /-- CLOSE (R513). Hedgerow CLOSE ends a session. -/
  | close (r : Requester) (f : HFrame)
  /-- SEGMENT_SNAPSHOT_EXPIRY (R514). A READ_SEG snapshot is dropped 1 s after the requester's last READ_SEG. -/
  | segmentSnapshotExpiry (r : Requester)
  /-- SESSION_IDLE_TIMEOUT (R516). A UDP session closes after 60 s without a request. -/
  | sessionIdleTimeout (n : Nat)
  /-- MBX_DOORBELL (R517). Writing GO submits the mailbox frame. -/
  | mbxDoorbell (f : Fn) (v : BitVec 32)
  /-- SWEEP (R525). A seal sweep reads every sealed word, computes a CRC and compares it. -/
  | sweep
  /-- COMMIT (R526). A write of COMMIT makes the next sweep the seal reference. -/
  | commit (v : BitVec 32)
  /-- SEAL_REF (R526). A write of SEAL_REF sets the reference and arms the seal. -/
  | sealRef (v : BitVec 32)
  /-- ALIAS_WRITE (R528). A write to a bit alias changes one bit of a register word indivisibly. -/
  | aliasWrite (addr : Nat) (v : BitVec 32)
  /-- REGISTER_WRITE (R523). A write to a register without its own row reaches the register in the next cycle. -/
  | registerWrite (f : Fn) (addr : Nat) (v : BitVec 32)
  /-- BOOT (R532). The boot ROM loads and checks a firmware image and starts the cores. -/
  | boot
  /-- CHUNK (R534). A firmware chunk is written into the inactive slot. -/
  | chunk (data : List Byte)
  /-- ERASE_INACTIVE_SLOT (R534). Command 1 erases the inactive firmware slot. -/
  | eraseInactiveSlot (ok : Bool)
  /-- CHECK_AND_ACTIVATE (R534). Command 2 checks the inactive slot and makes it active at the next module reset. -/
  | checkAndActivate
  /-- RAISE_MINIMUM (R534). Command 3 raises the fused minimum security version. -/
  | raiseMinimum
  /-- MAIN_ADMISSION (R536). Main power is admitted once its conditions hold, and the input capacitance charges. -/
  | mainAdmission
  /-- MAIN_POWER_LOST (R536). Main input outside range for 1 ms acts as a module reset of all but the management domain. -/
  | mainPowerLost
  /-- START_SEQUENCE (R537). The Hazel dies power on, and Graft, stacks, wipe and FIFO training proceed. -/
  | startSequence (x : StartResults)
  /-- DEVICE_READY (R535). Bits 3–7 set, device ready rises, and partitions are recreated. -/
  | deviceReady
  /-- PCIE_LINK_UP (R539). The PCIe link reaches DL_Active, and the PCIe ready bit rises. -/
  | pcieLinkUp
  /-- TRANSITION (R543). A life-cycle transition destroys keys, resets metadata and entries, and resets the device. -/
  | transition (r : Requester) (c : List Byte)
  /-- MOD_RESET_N (R553). MOD_RESET_N held low for at least 10 µs starts a module reset at its rising edge. -/
  | modResetN (lowNs : Nat) (taken : Bool)
  /-- PERST_N (R554). PERST_N low holds the PCIe controller in fundamental reset. -/
  | perstN (level : Bool)
  /-- REFCLK_LOST (R560). REFCLK stops or drifts; synthesisers hold over, and PCIe goes down. -/
  | refclkLost
  /-- REFCLK_RETURN (R560). REFCLK returns, and the synthesisers relock. -/
  | refclkReturn
  /-- REFCLK_HOLDOVER_EXPIRY (R560). REFCLK absent for 1 s kills every job and requests a device reset. -/
  | refclkHoldoverExpiry
  /-- STANDBY_LOST (R557). Loss of standby turns main off and acts as loss of all power. -/
  | standbyLost
  /-- TRST_N (R566). TRST_N low resets the TAP asynchronously. -/
  | trstN
  /-- BYPASS (R566). TAP instruction BYPASS. -/
  | bypass (code : BitVec 8)
  /-- IDCODE (R566). TAP instruction IDCODE. -/
  | idcode
  /-- SAMPLE_PRELOAD (R566). TAP instruction SAMPLE/PRELOAD observes pins without disturbing them. -/
  | samplePreload
  /-- EXTEST (R568). TAP instruction EXTEST takes the pins, stopping intake, killing jobs and holding the dies. -/
  | extest
  /-- CLAMP (R568). TAP instruction CLAMP, taking the pins from the functions. -/
  | clamp
  /-- HIGHZ (R568). TAP instruction HIGHZ, taking the pins from the functions. -/
  | highz
  /-- EXTEST_PULSE (R568). TAP instruction EXTEST_PULSE on AC-coupled pairs. -/
  | extestPulse
  /-- EXTEST_TRAIN (R568). TAP instruction EXTEST_TRAIN on AC-coupled pairs. -/
  | extestTrain
  /-- VENDOR_INSTRUCTION (R566). A vendor TAP instruction, enabled only in Manufacturing or Recovery. -/
  | vendorInstruction (code : BitVec 8)
  /-- BOUNDARY_SCAN_END (R568). The TAP returning to a non-driving instruction runs a module reset with cause 0x0E. -/
  | boundaryScanEnd
  /-- LANES_LOCK (R381). The four lanes of a Coppice port lock and the FEC aligns, so the port comes up and alignment can begin. -/
  | lanesLock (n : PortId)
  /-- PCIE_LINK_DOWN (R535). The PCIe link leaves DL_Active, and bit 9 of 0x1010 falls. -/
  | pcieLinkDown
  /-- TRIP_CLEAR (R453). Every tripped sensor falls below its clear temperature, and the held device or module restarts. -/
  | tripClear
  /-- REFCLK_RETURNED_10_MS (R560). REFCLK has been back for 10 ms after a loss longer than 1 s, and the Hazel dies leave reset so that the start runs. -/
  | refclkReturned10Ms
  /-- STACK_RETRAINING (R302). A stack link error in service is cleared by retraining the stack's interface. -/
  | stackRetraining (k : StackId) (cleared : Bool)
  /-- ROUTER_FAILURE (R49). A tile's router, neighbour lane or Twig node fails in service, ROUTER_OK or TWIG_OK goes to 0, and the tile is set to RouterFault. -/
  | routerFailure (t : TileId) (twig : Bool)
  /-- MCTP_CONTROL_MESSAGE (R516). An MCTP control message (Set or Get Endpoint ID, Get MCTP Version Support, Get Message Type Support) arrives over I3C and is answered. -/
  | mctpControlMessage (cmd : McmpCmd)
  /-- ENTDAA (R516). The I3C controller assigns the module's dynamic address by ENTDAA. -/
  | entdaa (addr : BitVec 7)
  /-- PAUSE (R90). A bundle with every slot disabled issues and spends 1 + IDLE cycles doing nothing else. -/
  | pause (t : TileId) (idle : BitVec 4)
  deriving DecidableEq, Repr

end Sys2Proof
end

