-- ==== Sys2Proof/WellFormed.lean ====
section
/-!
DEFINITION. Operands that the wires or the words of a command can carry. `exec` gives every command its effect, well-formed
or not; these checks say which operands a sender can send.
-/

namespace Sys2Proof

/-- The header word of MW and MACK (R213). -/
def hdrOk (h : MwHdr) : Bool :=
  decide (h.dst < 2112) && decide (h.off < 2 ^ 23) && decide (h.len8 ≤ 16) && decide (h.ac < 64) &&
  decide (h.srcTile < 2 ^ 13) && decide (h.mover < 4) && decide (h.status < 4)

/-- A coherence message (R243, R244). -/
def msgOk (m : CMsg) : Bool :=
  decide (m.part < 32) && decide (m.line < 2 ^ 34) && decide (m.data.length ≤ 128) && decide (m.ac < 64) &&
  decide (m.cntTile < 2 ^ 13) && decide (m.off < 128)

/-- A flit, or a neighbour-lane unit (R169, R170). -/
def flitOk (lane : Bool) (f : Flit) : Bool := decide (f.data.length = (if lane then 128 else 64))

/-- A lockstep cell (R370). -/
def cellOk (c : LockCell) : Bool := decide (c.data.length = 64)

/-- A word of BAR0, 64 MiB (R520, R528). -/
def addrOk (a : Nat) : Bool := decide (a < 0x4000000) && a % 4 = 0

/-- A UDP session has a number from 1 to 8 (R516). -/
def requesterOk (r : Requester) : Bool :=
  match r with
  | .udp k => decide (1 ≤ k ∧ k ≤ 8)
  | _ => true

/-- A Hedgerow frame's numbers fit their fields (R512). -/
def frameFits (f : HFrame) : Bool :=
  decide (f.session < 2 ^ 32) && decide (f.seq < 2 ^ 32) && decide (f.index < 2 ^ 16) && decide (f.sub < 2 ^ 8) &&
  decide (f.offset < 2 ^ 32) && decide (f.length < 2 ^ 16)

/-- A message at a door (R393, R409, R412). -/
def inMsgOk (m : InMsg) : Bool :=
  decide (m.part < 32) && decide (m.queue ≤ 16) && decide (m.port < 8) && decide (m.type < 256)

/-- The tiles of an image (R571). -/
def imageOk (img : Image) : Bool := img.tiles.all (fun x => decide (x.tile < 2112))

/-- The checks of each command's operands. -/
def Instr.wf (i : Instr) : Bool :=
  match i with
  | .launch _ img => imageOk img
  | .firstBundle _ => true
  | .tilePrune _ _ _ => true
  | .prune _ => true
  | .pruneFrameF _ => true
  | .pruneWritebackDone _ => true
  | .pruneWritebackTimeout _ => true
  | .bankWaitLimit _ _ _ => true
  | .mma _ _ _ => true
  | .mmaSa _ _ _ => true
  | .mmaSb _ _ _ => true
  | .clear _ _ _ => true
  | .accumulationComplete _ => true
  | .rampHoldEnd _ => true
  | .add _ => true
  | .sub _ => true
  | .mul _ => true
  | .fma _ => true
  | .min _ => true
  | .max _ => true
  | .abs _ => true
  | .neg _ => true
  | .cvt _ => true
  | .cmpeq _ => true
  | .cmplt _ => true
  | .cmple _ => true
  | .sel _ => true
  | .rcp _ => true
  | .rsqrt _ => true
  | .exp2 _ => true
  | .log2 _ => true
  | .sqrt _ => true
  | .andV _ => true
  | .orV _ => true
  | .xorV _ => true
  | .shl _ => true
  | .shr _ => true
  | .sra _ => true
  | .mulhi _ => true
  | .clz _ => true
  | .popc _ => true
  | .floor _ => true
  | .rint _ => true
  | .readout _ _ _ => true
  | .importRaw _ _ _ => true
  | .shellStart _ _ _ => true
  | .stateCopy _ _ _ => true
  | .send _ _ _ => true
  | .recv _ _ _ => true
  | .nsend _ _ _ => true
  | .nrecv _ _ _ => true
  | .move _ _ _ => true
  | .loop _ _ _ => true
  | .brc _ _ _ => true
  | .wait _ _ _ => true
  | .waitTimeout _ _ => true
  | .sequencerStallTimeout _ => true
  | .grant _ _ _ => true
  | .grantEnd _ => true
  | .mark _ _ _ => true
  | .epoch _ _ _ => true
  | .addi _ _ _ => true
  | .setl _ _ _ => true
  | .env _ _ _ => true
  | .scope _ _ _ => true
  | .phase _ _ _ => true
  | .phaseReload _ => true
  | .endStream _ _ _ => true
  | .jobClose _ => true
  | .slotTableEntry _ _ _ => true
  | .flitLanding _ lane f => flitOk lane.isSome f
  | .dynamicCycle _ _ _ => true
  | .swap _ _ => true
  | .swapFrame _ => true
  | .tableWr x words => decide (1 ≤ words.length ∧ words.length ≤ 7 ∧ words.length = (x.header.toNat >>> 5) % 8)
  | .heartbeat _ => true
  | .heartbeatMiss _ => true
  | .heartbeatProbeTimeout _ => true
  | .fence _ => true
  | .fenceDone _ => true
  | .kill _ => true
  | .start _ _ => true
  | .regRd _ off => decide (off < 256)
  | .regWr _ off _ => decide (off < 256)
  | .regData _ _ => true
  | .event _ _ => true
  | .launchRec _ _ => true
  | .snapReq _ _ _ => true
  | .snapData _ words => decide (1 ≤ words.length ∧ words.length ≤ 7)
  | .counterSnapshot _ => true
  | .groupResident _ => true
  | .promotion _ => true
  | .nop _ _ _ => true
  | .movi _ _ _ => true
  | .rdspec _ _ _ => true
  | .setp _ _ _ => true
  | .plog _ _ _ => true
  | .vote _ _ _ => true
  | .shfl _ _ _ => true
  | .lfold _ _ _ => true
  | .ld _ _ _ => true
  | .st _ _ _ => true
  | .atom _ _ _ => true
  | .atomn _ _ _ => true
  | .ladd _ _ _ => true
  | .bar _ _ _ => true
  | .waitac _ _ _ => true
  | .rdac _ _ _ => true
  | .moveg _ _ _ => true
  | .spawn _ _ _ => true
  | .br _ _ _ => true
  | .exit _ _ _ => true
  | .gmma _ _ _ => true
  | .gmmaStart _ _ => true
  | .gread _ _ _ => true
  | .greadStart _ _ => true
  | .forwardProgressTimeout _ _ => true
  | .jobKill _ _ => true
  | .descriptorStart _ _ => true
  | .copy _ _ => true
  | .acSub _ _ => true
  | .descriptorRetire _ _ => true
  | .mw x => hdrOk x.hdr && decide (x.data.length = 8 * x.hdr.len8)
  | .mack x => hdrOk x
  | .rangeLookup _ _ => true
  | .gets _ m => msgOk m
  | .getm _ m => msgOk m
  | .rdu _ m => msgOk m
  | .wru _ m => msgOk m
  | .atomic _ m => msgOk m
  | .addToLine _ m => msgOk m
  | .lineAddition _ => true
  | .discard _ m => msgOk m
  | .mrd _ m => msgOk m
  | .dmw _ m => msgOk m
  | .wb _ m => msgOk m
  | .cnt _ m => msgOk m
  | .fwdS _ m => msgOk m
  | .fwdM _ m => msgOk m
  | .inv _ m => msgOk m
  | .recall _ m => msgOk m
  | .ringInv _ _ m => msgOk m
  | .data _ m => msgOk m
  | .ack _ _ m => msgOk m
  | .fwdAck _ m => msgOk m
  | .invAck _ m => msgOk m
  | .notPresent _ m => msgOk m
  | .wbInFlight _ m => msgOk m
  | .atomr _ m => msgOk m
  | .ringAck _ _ m => msgOk m
  | .homeTimeout _ line => decide (line < 2 ^ 34)
  | .xlAdd _ _ => true
  | .xlWithdraw _ _ => true
  | .xlRead _ _ => true
  | .winAdd _ _ => true
  | .winWithdraw _ _ => true
  | .winCfg _ _ => true
  | .winRead _ _ => true
  | .withdrawEffect _ => true
  | .drainReport _ _ => true
  | .drainAbandoned _ => true
  | .windowWrite _ c => cellOk c
  | .dlogCtrl _ _ => true
  | .dlogClear _ _ => true
  | .temperatureReadout _ _ => true
  | .refresh _ => true
  | .rfm _ => true
  | .patrol _ => true
  | .stackFailed _ _ => true
  | .stackTemperatureWait _ => true
  | .pageRead ext page _ => decide (ext < 4096 ∧ page < 2 ^ 34)
  | .pageWrite ext page _ => decide (ext < 4096 ∧ page < 2 ^ 34)
  | .extentCreate _ => true
  | .extentDelete _ => true
  | .attach _ => true
  | .readDisturbRefresh b => decide (b < 32 * 131072)
  | .retentionRefresh b => decide (b < 32 * 131072)
  | .staticWearLevelling _ => true
  | .dieFailure _ _ => true
  | .fold _ => true
  | .garbageCollection _ => true
  | .retentionScan blocks => blocks.all (fun b => decide (b < 32 * 131072))
  | .channelTraining _ _ => true
  | .seedbankReady => true
  | .park _ => true
  | .sessionParked _ => true
  | .resume _ => true
  | .resumeComplete _ => true
  | .snapshotBudget => true
  | .unstable _ _ => true
  | .bundleClockFailure _ _ _ => true
  | .cell _ => true
  | .cellArrival _ c _ => cellOk c
  | .release _ => true
  | .tick _ _ => true
  | .alignReq _ _ => true
  | .alignRsp _ _ => true
  | .linkId _ _ => true
  | .freq _ _ => true
  | .credit _ _ => true
  | .fill _ _ => true
  | .alignmentSlipDone _ => true
  | .parentLost => true
  | .holdoverEnd => true
  | .peerLost _ => true
  | .linkDown _ _ => true
  | .lockstepLaunch _ t0 _ img => decide (t0 < 2 ^ 64) && imageOk img
  | .windowCell _ c => cellOk c
  | .wantedPoint c => cellOk c
  | .frame _ _ _ _ => true
  | .request m => inMsgOk m
  | .continueReq m => inMsgOk m
  | .cancel m => inMsgOk m
  | .ping m => inMsgOk m
  | .inputTimeout _ _ => true
  | .create _ => true
  | .delete _ => true
  | .reset _ => true
  | .sessionExtent _ _ => true
  | .sessionSelect r _ _ => requesterOk r
  | .qpCtrl _ _ _ => true
  | .qpSqTail _ _ _ => true
  | .qpRqHead _ _ _ => true
  | .submissionEntry _ _ entry _ _ => decide (entry.length = 32)
  | .stepBoundary _ _ => true
  | .stepOutput _ _ => true
  | .sessionCommand _ _ => true
  | .resumeConfirmationTimeout _ _ => true
  | .estimationInterval _ => true
  | .epochBoundary _ => true
  | .pointDecision => true
  | .droopDetection _ => true
  | .stretchEvent => true
  | .stretchEventEnd => true
  | .stepWatchdog _ => true
  | .hubWatchdog _ => true
  | .applicationCoreWatchdog => true
  | .managementWatchdog => true
  | .escalation _ => true
  | .deviceReset _ => true
  | .moduleReset _ => true
  | .clearWithdrawn => true
  | .enterWithdrawn => true
  | .jobKillCommand _ => true
  | .holdFlagClear _ => true
  | .counterSweep r _ => requesterOk r
  | .acValueLo _ _ => true
  | .cntLo _ _ => true
  | .espCycleLo => true
  | .hsPoisonLo _ => true
  | .stkLastLo _ => true
  | .read r f => requesterOk r && frameFits f
  | .write r f _ => requesterOk r && frameFits f
  | .readSeg r f => requesterOk r && frameFits f
  | .dictionaryClear r f _ => requesterOk r && frameFits f
  | .openSession r f _ => requesterOk r && frameFits f
  | .auth r f => requesterOk r && frameFits f
  | .close r f => requesterOk r && frameFits f
  | .segmentSnapshotExpiry r => requesterOk r
  | .sessionIdleTimeout n => decide (1 ≤ n ∧ n ≤ 8)
  | .mbxDoorbell _ _ => true
  | .sweep => true
  | .commit _ => true
  | .sealRef _ => true
  | .aliasWrite addr _ => addrOk addr
  | .registerWrite _ addr _ => addrOk addr
  | .boot => true
  | .chunk _ => true
  | .eraseInactiveSlot _ => true
  | .checkAndActivate => true
  | .raiseMinimum => true
  | .mainAdmission => true
  | .mainPowerLost => true
  | .startSequence _ => true
  | .deviceReady => true
  | .pcieLinkUp => true
  | .transition r _ => requesterOk r
  | .modResetN _ _ => true
  | .perstN _ => true
  | .refclkLost => true
  | .refclkReturn => true
  | .refclkHoldoverExpiry => true
  | .standbyLost => true
  | .trstN => true
  | .bypass code => !decide (1 ≤ code.toNat ∧ code.toNat ≤ 7)
  | .idcode => true
  | .samplePreload => true
  | .extest => true
  | .clamp => true
  | .highz => true
  | .extestPulse => true
  | .extestTrain => true
  | .vendorInstruction code => decide (0x80 ≤ code.toNat ∧ code.toNat ≤ 0xFE)
  | .boundaryScanEnd => true
  | .lanesLock _ => true
  | .pcieLinkDown => true
  | .tripClear => true
  | .refclkReturned10Ms => true
  | .stackRetraining _ _ => true
  | .routerFailure _ _ => true
  | .mctpControlMessage _ => true
  | .entdaa _ => true
  | .pause _ _ => true

end Sys2Proof
end

