-- ==== Sys2Proof/Machine/Maps.lean ====
section
/-!
DEFINITION. Sparse maps: a list of (key, value) pairs, keys strictly rising, no entry equal to what an unlisted key
reads as. Registers that come in numbers, lines of a cache, and the addressed stores are all held so; a store's cells
are `Host.Cell` pairs and an unlisted byte reads as 0, the wiped value (R31, R546).
-/

namespace Sys2Proof.Machine

/-- A sparse map from numbers. -/
abbrev FMap (α : Type) := List (Nat × α)

/-- The value at key `k`; `d` where none is listed. -/
def fmGet {α : Type} (d : α) : FMap α → Nat → α
  | [], _ => d
  | (k', v) :: m, k => if k' = k then v else fmGet d m k

/-- The map without key `k`. -/
def fmDel {α : Type} : FMap α → Nat → FMap α
  | [], _ => []
  | (k', v) :: m, k => if k' = k then fmDel m k else (k', v) :: fmDel m k

/-- The map with `(k, v)` put before the first larger key. -/
def fmIns {α : Type} (k : Nat) (v : α) : FMap α → FMap α
  | [] => [(k, v)]
  | (k', v') :: m => if k < k' then (k, v) :: (k', v') :: m else (k', v') :: fmIns k v m

/-- The map with `v` at `k`; the entry goes when `v` is what an unlisted key reads as. -/
def fmSet {α : Type} [DecidableEq α] (d : α) (m : FMap α) (k : Nat) (v : α) : FMap α :=
  if v = d then fmDel m k else fmIns k v (fmDel m k)

/-- The map with the value at `k` changed by `f`. -/
def fmUpd {α : Type} [DecidableEq α] (d : α) (m : FMap α) (k : Nat) (f : α → α) : FMap α :=
  fmSet d m k (f (fmGet d m k))

/-- Every listed key is above `b`, keys rise strictly, and no listed value is `d`. -/
def fmWfFrom {α : Type} [DecidableEq α] (d : α) : Option Nat → FMap α → Bool
  | _, [] => true
  | b, (k, v) :: m => (match b with | none => true | some x => decide (x < k)) && decide (v ≠ d) && fmWfFrom d (some k) m

/-- The canonical form. -/
def fmWf {α : Type} [DecidableEq α] (d : α) (m : FMap α) : Bool := fmWfFrom d none m

/-- The bytes of an addressed store: cells of (address, byte). -/
abbrev Memory := List Host.Cell

/-- A byte of memory that nothing has written reads as 0, as the start-up wipe and the launch zeroing leave it. -/
def memByte (m : Memory) (a : Nat) : Byte := fmGet 0 m a

/-- One byte written. -/
def memSet (m : Memory) (a : Nat) (v : Byte) : Memory := fmSet 0 m a v

/-- `n` bytes from `a` upward. -/
def memRead (m : Memory) (a n : Nat) : List Byte :=
  let near := m.filter (fun c => decide (a ≤ c.1) && decide (c.1 < a + n))
  (List.range n).map (fun i => memByte near (a + i))

/-- The cells of bytes from `a` upward. -/
def cellsOf (a : Nat) : List Byte → Memory
  | [] => []
  | v :: vs => if v = 0 then cellsOf (a + 1) vs else (a, v) :: cellsOf (a + 1) vs

/-- The bytes written from `a` upward. -/
def memWrite (m : Memory) (a : Nat) (bs : List Byte) : Memory :=
  m.filter (fun c => decide (c.1 < a)) ++ cellsOf a bs ++ m.filter (fun c => decide (a + bs.length ≤ c.1))

/-- The bytes written from `a` upward where their mask bit, counted from bit `i`, is 1. -/
def memWriteMask (m : Memory) (a : Nat) (mask : Nat) (i : Nat) : List Byte → Memory
  | [] => m
  | v :: vs => memWriteMask (if mask.testBit i then memSet m a v else m) (a + 1) mask (i + 1) vs

/-- The canonical form of a memory. -/
def Memory.wf (m : Memory) : Bool := fmWf 0 m

end Sys2Proof.Machine
end

