-- ==== Sys2Proof/Machine/Bits.lean ====
section
/-!
DEFINITION. Bit fields, sign extension, byte order and the check sums the manual names (R5, R82, R370, R394).
-/

namespace Sys2Proof.Machine

/-- Bits [hi:lo] of `w`. -/
def field (w hi lo : Nat) : Nat := (w >>> lo) % 2 ^ (hi + 1 - lo)

/-- `x` read as a two's complement number of `n` bits. -/
def toSigned (n x : Nat) : Int := if x % 2 ^ n < 2 ^ (n - 1) then (x % 2 ^ n : Nat) else ((x % 2 ^ n : Nat) : Int) - 2 ^ n

/-- The low `n` bits of `x`, as two's complement. -/
def ofSigned (n : Nat) (x : Int) : Nat := (x % 2 ^ n).toNat

/-- Little-endian bytes as a number (R5). -/
def leNat : List Byte → Nat
  | [] => 0
  | b :: bs => b.toNat + 256 * leNat bs

/-- A number as `n` little-endian bytes (R5). -/
def natLe : Nat → Nat → List Byte
  | 0, _ => []
  | n + 1, x => BitVec.ofNat 8 x :: natLe n (x / 256)

/-- Bytes `[lo, lo + n)` of a list as a little-endian number; bytes past the end read as 0. -/
def leAt (bs : List Byte) (lo n : Nat) : Nat := leNat ((bs.drop lo).take n)

/-- A list cut or filled up with `d` to length `n`. -/
def fit {α : Type} (d : α) : Nat → List α → List α
  | 0, _ => []
  | n + 1, [] => d :: fit d n []
  | n + 1, x :: xs => x :: fit d n xs

/-- `n` zero bytes. -/
def zeros (n : Nat) : List Byte := List.replicate n 0

/-- The list with element `i` changed by `f`; unchanged where there is none. -/
def modAt {α : Type} (f : α → α) : Nat → List α → List α
  | _, [] => []
  | 0, x :: xs => f x :: xs
  | n + 1, x :: xs => x :: modAt f n xs

/-- The list with element `i` replaced. -/
def setAt {α : Type} (i : Nat) (v : α) (xs : List α) : List α := modAt (fun _ => v) i xs

/-- Consecutive parts of length `n`; `fuel` bounds the number of parts. -/
def chunks {α : Type} (n : Nat) : Nat → List α → List (List α)
  | 0, _ => []
  | _ + 1, [] => []
  | fuel + 1, x :: xs => (x :: xs).take n :: chunks n fuel ((x :: xs).drop n)

/-- Round up `a / b`. -/
def ceilDiv (a b : Nat) : Nat := (a + b - 1) / b

/-- One bit of a reflected CRC with polynomial `poly`. -/
def crcBit (poly c : Nat) : Nat := if c % 2 = 1 then (c / 2) ^^^ poly else c / 2

/-- Eight bits of a reflected CRC. -/
def crcByte (poly c : Nat) (b : Byte) : Nat :=
  let c := c ^^^ b.toNat
  crcBit poly (crcBit poly (crcBit poly (crcBit poly (crcBit poly (crcBit poly (crcBit poly (crcBit poly c)))))))

/-- A reflected CRC over bytes. -/
def crcReflected (poly init : Nat) (bs : List Byte) : Nat := bs.foldl (crcByte poly) init

/-- CRC-32C with the parameters of R82: Castagnoli polynomial 0x1EDC_6F41 (reflected 0x82F6_3B78), initial value and
final XOR all ones. -/
def crc32c (bs : List Byte) : Nat := crcReflected 0x82F63B78 0xFFFFFFFF bs ^^^ 0xFFFFFFFF

/-- XOR of the bits of `x`, over `n` bits. -/
def parity : Nat → Nat → Bool
  | 0, _ => false
  | n + 1, x => (x % 2 = 1) != parity n (x / 2)

/-- floor(log2 |num / 2^e|) of a nonzero numerator with the exponent held apart: num · 2^e. -/
def ilog2Scaled (num : Nat) (e : Int) : Int := (Nat.log2 num : Int) + e

/-- Bits [hi:lo] of `w` replaced by `v`. -/
def putField (w hi lo v : Nat) : Nat :=
  w - (field w hi lo <<< lo) + ((v % 2 ^ (hi + 1 - lo)) <<< lo)

/-- 1 for true. -/
def bnat (b : Bool) : Nat := if b then 1 else 0

/-- A number limited to at most `hi`. -/
def capAt (hi x : Nat) : Nat := if x ≤ hi then x else hi

/-- An integer limited to [lo, hi]. -/
def clampInt (lo hi x : Int) : Int := if x < lo then lo else if hi < x then hi else x

/-- Saturating increment by `n`. -/
def satAdd (hi x n : Nat) : Nat := capAt hi (x + n)

/-- The greatest number, at or above `r` and below `r + 2 ^ b`, whose `k`-th power is at most `n`: a bit a turn, from the top. -/
def rootFrom (k n : Nat) : Nat → Nat → Nat
  | 0, r => r
  | b + 1, r => rootFrom k n b (if (r + 2 ^ b) ^ k ≤ n then r + 2 ^ b else r)

end Sys2Proof.Machine
end

