-- ==== Sys2Proof/Machine/Crypto.lean ====
section
/-!
DEFINITION. SHA-256 and HMAC-SHA-256, the operator's proof of R516, as FIPS 180-4 and FIPS 198-1 define them.
-/

namespace Sys2Proof.Machine

/-- A 32-bit word rotated right. -/
def rotr32 (x n : Nat) : Nat := (x >>> n) ||| ((x <<< (32 - n)) % 2 ^ 32)

/-- The first 32 bits of the fraction of the `k`-th root of `p`, a number below 2 ^ 12. -/
def rootFraction (k p : Nat) : Nat := rootFrom k (p * 2 ^ (32 * k)) 38 0 % 2 ^ 32

/-- The primes in rising order, the first 64 of them. -/
def firstPrimes : List Nat := (List.range 312).filter (fun n => 2 ≤ n && (List.range n).all (fun d => d < 2 || n % d ≠ 0))

/-- The round constants: cube roots of the primes. -/
def shaK : List Nat := firstPrimes.map (rootFraction 3)

/-- The hash value at the start: square roots of the first eight. -/
def shaInit : List Nat := (firstPrimes.take 8).map (rootFraction 2)

/-- The message schedule: 16 words of the block, the newest first, extended by `n` more. -/
def shaExtend : Nat → List Nat → List Nat
  | 0, ws => ws
  | n + 1, ws =>
    let w (i : Nat) : Nat := ws.getD (i - 1) 0
    let s0 := rotr32 (w 15) 7 ^^^ rotr32 (w 15) 18 ^^^ (w 15 >>> 3)
    let s1 := rotr32 (w 2) 17 ^^^ rotr32 (w 2) 19 ^^^ (w 2 >>> 10)
    shaExtend n ((w 16 + s0 + w 7 + s1) % 2 ^ 32 :: ws)

/-- A round over the eight working words. -/
def shaRound (v : List Nat) (kw : Nat × Nat) : List Nat :=
  match v with
  | [a, b, c, d, e, f, g, h] =>
    let t1 := h + (rotr32 e 6 ^^^ rotr32 e 11 ^^^ rotr32 e 25) + ((e &&& f) ^^^ ((2 ^ 32 - 1 - e) &&& g)) + kw.1 + kw.2
    let t2 := (rotr32 a 2 ^^^ rotr32 a 13 ^^^ rotr32 a 22) + ((a &&& b) ^^^ (a &&& c) ^^^ (b &&& c))
    [(t1 + t2) % 2 ^ 32, a, b, c, (d + t1) % 2 ^ 32, e, f, g]
  | v => v

/-- A block of 64 bytes taken into the hash value. -/
def shaBlock (h : List Nat) (block : List Byte) : List Nat :=
  let ws := ((chunks 4 16 block).map (fun c => leNat c.reverse)).reverse
  let v := (shaK.zip (shaExtend 48 ws).reverse).foldl shaRound h
  (h.zip v).map (fun x => (x.1 + x.2) % 2 ^ 32)

/-- SHA-256. -/
def sha256 (m : List Byte) : List Byte :=
  let padded := m ++ [0x80] ++ zeros ((119 - m.length % 64) % 64) ++ (natLe 8 (8 * m.length)).reverse
  ((chunks 64 (padded.length / 64) padded).foldl shaBlock shaInit).flatMap (fun w => (natLe 4 w).reverse)

/-- HMAC-SHA-256 with a key of at most 64 bytes. -/
def hmacSha256 (key m : List Byte) : List Byte :=
  let pad (x : Byte) : List Byte := (fit 0 64 key).map (· ^^^ x)
  sha256 (pad 0x5C ++ sha256 (pad 0x36 ++ m))

end Sys2Proof.Machine
end

