-- ==== Sys2Proof/Config.lean ====
section
/-!
DEFINITION. What the manual leaves to a part or to chance: constants without a body, so that no proof can know their
values. A free value of a run is drawn at the number that `State.fresh` holds, which each draw advances.
-/

namespace Sys2Proof.Config

/-- A 32-bit value the manual does not state (log entry 10). -/
opaque freeWord : Nat → BitVec 32

/-- A choice among outcomes the manual lists (log entry 10). -/
opaque freeNat : Nat → Nat

/-- A byte the manual does not state (log entry 10). -/
opaque freeByte : Nat → BitVec 8

/-- A choice made at a tile, by tile and number: what other tiles do has no part in it (R18; log entry 10). -/
opaque tileNat : Nat → Nat → Nat

/-- A job image as its bytes in device memory spell it: the image's own layout is not in the manual (log entry 10). -/
opaque parseImage : List (BitVec 8) → Option Image

/-- The serial number of 0x1001:03, as bytes (log entry 10). -/
opaque serial : List (BitVec 8)

/-- Other fused values, by number (log entry 10): 0 board revision, 1 PCI vendor ID, 2 IDCODE of the TAP, 3 REV of the
capability records, 4 the security version that the ROM loader reports, 5 the version bytes of the MCTP control messages; 100 + 8·p + i the i-th
fused 16-bit value of operating point p. -/
opaque fused : Nat → Nat

/-- The vendor's ECDSA P-384 signature over a firmware image, given as the cells of its NOR slot, verifies (log entry 10). -/
opaque imageSigned : List (Nat × BitVec 8) → Bool

/-- Security version and version string that a firmware image carries: its layout is not in the manual (log entry 10). -/
opaque imageVersion : List (Nat × BitVec 8) → Nat
opaque imageName : List (Nat × BitVec 8) → List (BitVec 8)

/-- The fused weight of an event kind at the voltage of point 0, in pJ; the fused leakage of a unit at a voltage (mV) and a temperature
(m°C), in mW; the regulators' efficiency at a load in W, in parts of 65,536 (R436, log entry 105). -/
opaque weight : Nat → Nat
opaque leakage : Nat → Nat → Int → Nat
opaque efficiency : Nat → Nat

/-- A vendor's ECDSA P-384 proof over bytes verifies against the fused key (log entry 10). -/
opaque vendorProof : List (BitVec 8) → List (BitVec 8) → Bool

/-- The fused MAC address of service port n, or of the management port for n = 8 (R518): 48 bits, first octet lowest (log entry 10). -/
opaque mac : Nat → Nat

end Sys2Proof.Config
end

