-- ==== Sys2Proof/Machine/Formats.lean ====
section
/-!
DEFINITION. Element formats, exact values, rounding and the vector functions of the arithmetic class (R56–R63,
R79–R81, R140, R141).
-/

namespace Sys2Proof.Machine

/-- How a format spells infinities and NaNs (R56). -/
inductive Specials where
  | none
  | e4m3
  | ieee
  deriving DecidableEq, Repr

/-- A floating-point format of R56: exponent bits, mantissa bits, bias, specials. -/
structure FloatFmt where
  eb : Nat
  mb : Nat
  bias : Int
  sp : Specials
  deriving DecidableEq, Repr

def fmtE2M1 : FloatFmt := ⟨2, 1, 1, .none⟩
def fmtE2M3 : FloatFmt := ⟨2, 3, 1, .none⟩
def fmtE3M2 : FloatFmt := ⟨3, 2, 3, .none⟩
def fmtE4M3 : FloatFmt := ⟨4, 3, 7, .e4m3⟩
def fmtE5M2 : FloatFmt := ⟨5, 2, 15, .ieee⟩
def fmtFP16 : FloatFmt := ⟨5, 10, 15, .ieee⟩
def fmtBF16 : FloatFmt := ⟨8, 7, 127, .ieee⟩
def fmtFP32 : FloatFmt := ⟨8, 23, 127, .ieee⟩

/-- Bits of an element. -/
def fmtWidth (f : FloatFmt) : Nat := 1 + f.eb + f.mb

/-- The code of the largest finite magnitude (R56). -/
def maxCode (f : FloatFmt) : Nat :=
  match f.sp with
  | .none => 2 ^ (f.eb + f.mb) - 1
  | .e4m3 => 2 ^ (f.eb + f.mb) - 2
  | .ieee => (2 ^ f.eb - 1) * 2 ^ f.mb - 1

/-- An exact value: a NaN, a signed infinity, or (−1)^neg · m · 2^e. -/
inductive FVal where
  | nan
  | inf (neg : Bool)
  | fin (neg : Bool) (m : Nat) (e : Int)
  deriving DecidableEq, Repr

/-- The value of an encoding (R57). -/
def decodeFloat (f : FloatFmt) (bits : Nat) : FVal :=
  let neg := bits.testBit (f.eb + f.mb)
  let code := bits % 2 ^ (f.eb + f.mb)
  let ef := code / 2 ^ f.mb
  let mf := code % 2 ^ f.mb
  let value : FVal :=
    if ef = 0 then .fin neg mf (1 - f.bias - f.mb) else .fin neg (2 ^ f.mb + mf) ((ef : Int) - f.bias - f.mb)
  match f.sp with
  | .none => value
  | .e4m3 => if code = 2 ^ (f.eb + f.mb) - 1 then .nan else value
  | .ieee => if ef = 2 ^ f.eb - 1 then (if mf = 0 then .inf neg else .nan) else value

/-- `m / 2^s` to the nearest integer, ties to even. -/
def shiftRound (m s : Nat) : Nat :=
  let q := m / 2 ^ s
  let r := m % 2 ^ s
  if s = 0 then m
  else if 2 ^ (s - 1) < r then q + 1
  else if r < 2 ^ (s - 1) then q
  else q + q % 2

/-- `m · 2^e` to the nearest integer, ties to even. -/
def roundInt (m : Nat) (e : Int) : Nat := if 0 ≤ e then m * 2 ^ e.toNat else shiftRound m (-e).toNat

/-- The magnitude code of `m · 2^e` rounded to the format, ties to even, with no upper limit (R79): a code above
`maxCode` is an overflow. -/
def roundCode (f : FloatFmt) (m : Nat) (e : Int) : Nat :=
  if m = 0 then 0 else
    let qmin : Int := 1 - f.bias - f.mb
    let q : Int := max ((Nat.log2 m : Int) + e - f.mb) qmin
    roundInt m (e - q) + (q - qmin).toNat * 2 ^ f.mb

/-- The sign bit of a format, set or not. -/
def signBit (f : FloatFmt) (neg : Bool) : Nat := if neg then 2 ^ (f.eb + f.mb) else 0

/-- The canonical NaN of an IEEE format (R79): quiet, positive. -/
def canonNan (f : FloatFmt) : Nat := maxCode f + 1 + 2 ^ (f.mb - 1)

/-- An exact value rounded once to an IEEE format: overflow gives infinity, a NaN the canonical NaN (R79). -/
def roundIeee (f : FloatFmt) : FVal → Nat
  | .nan => canonNan f
  | .inf neg => signBit f neg + (maxCode f + 1)
  | .fin neg m e => signBit f neg + min (roundCode f m e) (maxCode f + 1)

/-- A conversion to a format by R80, with 1 where a NaN is written as zero (counted in FC5). `nanNeg` is the sign of a
NaN source, which the FP8 formats keep. -/
def convertFloat (f : FloatFmt) (v : FVal) (nanNeg : Bool := false) : Nat × Nat :=
  match f.sp with
  | .ieee =>
    if f.mb = 2 then
      match v with
      | .nan => (signBit f nanNeg + 0x7E, 0)
      | .inf neg => (signBit f neg + maxCode f, 0)
      | .fin neg m e => (signBit f neg + min (roundCode f m e) (maxCode f), 0)
    else (roundIeee f v, 0)
  | .e4m3 =>
    match v with
    | .nan => (signBit f nanNeg + 0x7F, 0)
    | .inf neg => (signBit f neg + maxCode f, 0)
    | .fin neg m e => (signBit f neg + min (roundCode f m e) (maxCode f), 0)
  | .none =>
    match v with
    | .nan => (0, 1)
    | .inf neg => (signBit f neg + maxCode f, 0)
    | .fin neg m e => (signBit f neg + min (roundCode f m e) (maxCode f), 0)

/-- A conversion to a two's complement integer of `n` bits by R80, with 1 where a NaN is written as 0. -/
def convertInt (n : Nat) : FVal → Nat × Nat
  | .nan => (0, 1)
  | .inf neg => (if neg then 2 ^ (n - 1) else 2 ^ (n - 1) - 1, 0)
  | .fin neg m e =>
    let q : Int := roundInt m e
    (ofSigned n (clampInt (-(2 ^ (n - 1))) (2 ^ (n - 1) - 1) (if neg then -q else q)), 0)

/-- An integer as an exact value. -/
def ofInt (x : Int) : FVal := .fin (decide (x < 0)) x.natAbs 0

/-! ### Exact arithmetic on values -/

/-- Sign flipped. -/
def fNeg : FVal → FVal
  | .nan => .nan
  | .inf n => .inf (!n)
  | .fin n m e => .fin (!n) m e

/-- The signed numerator of a finite value over 2^e0, for an e0 at most its exponent. -/
def signedAt (neg : Bool) (m : Nat) (e e0 : Int) : Int :=
  let x : Int := m * 2 ^ (e - e0).toNat
  if neg then -x else x

/-- Exact sum; an exact zero from nonzero operands of opposite sign is +0, as IEEE 754 rounds to nearest (R79). -/
def fAdd : FVal → FVal → FVal
  | .nan, _ => .nan
  | _, .nan => .nan
  | .inf a, .inf b => if a = b then .inf a else .nan
  | .inf a, .fin .. => .inf a
  | .fin .., .inf b => .inf b
  | .fin na ma ea, .fin nb mb eb =>
    let e0 := min ea eb
    let x := signedAt na ma ea e0 + signedAt nb mb eb e0
    if x = 0 then .fin (na && nb) 0 0 else .fin (decide (x < 0)) x.natAbs e0

/-- Exact product; infinity times zero is invalid. -/
def fMul : FVal → FVal → FVal
  | .nan, _ => .nan
  | _, .nan => .nan
  | .inf a, .inf b => .inf (a != b)
  | .inf a, .fin nb mb _ => if mb = 0 then .nan else .inf (a != nb)
  | .fin na ma _, .inf b => if ma = 0 then .nan else .inf (na != b)
  | .fin na ma ea, .fin nb mb eb => .fin (na != nb) (ma * mb) (ea + eb)

/-- a < b on numbers; false where one is a NaN. -/
def fLt : FVal → FVal → Bool
  | .nan, _ => false
  | _, .nan => false
  | .inf a, .inf b => a && !b
  | .inf a, .fin .. => a
  | .fin .., .inf b => !b
  | .fin na ma ea, .fin nb mb eb =>
    decide (signedAt na ma ea (min ea eb) < signedAt nb mb eb (min ea eb))

/-- a = b on numbers: both zeros are equal; false where one is a NaN. -/
def fEq : FVal → FVal → Bool
  | .nan, _ => false
  | _, .nan => false
  | .inf a, .inf b => a == b
  | .inf _, .fin .. => false
  | .fin .., .inf _ => false
  | .fin na ma ea, .fin nb mb eb =>
    decide (signedAt na ma ea (min ea eb) = signedAt nb mb eb (min ea eb))

/-- The sign of a value. -/
def fSign : FVal → Bool
  | .nan => false
  | .inf n => n
  | .fin n _ _ => n

/-- a before b in the order of MIN and MAX, in which −0 counts below +0 (R140). -/
def fBelow (a b : FVal) : Bool := fLt a b || (fEq a b && fSign a && !fSign b)

/-- The integer square root: greatest r with r² ≤ n, by bits `b − 1` down to 0 of r. -/
def isqrtFrom (n : Nat) : Nat → Nat → Nat
  | 0, r => r
  | b + 1, r => if (r + 2 ^ b) * (r + 2 ^ b) ≤ n then isqrtFrom n b (r + 2 ^ b) else isqrtFrom n b r

/-- The integer square root of `n`. -/
def isqrt (n : Nat) : Nat := isqrtFrom n (Nat.log2 n / 2 + 1) 0

/-- A value slightly above `x · 2^e` unless `exact`: one more bit, set where something was cut off. -/
def sticky (neg : Bool) (x : Nat) (e : Int) (exact : Bool) : FVal := .fin neg (2 * x + bnat !exact) (e - 1)

/-- 1/x to at least 40 significant bits and a sticky bit (R140, R141). -/
def fRcp : FVal → FVal
  | .nan => .nan
  | .inf n => .fin n 0 0
  | .fin n 0 _ => .inf n
  | .fin n m e =>
    let k := Nat.log2 m + 40
    sticky n (2 ^ k / m) (-e - k) (decide (2 ^ k % m = 0))

/-- √x to at least 40 significant bits and a sticky bit; √−0 is −0, of another negative number invalid. -/
def fSqrt : FVal → FVal
  | .nan => .nan
  | .inf n => if n then .nan else .inf false
  | .fin n 0 _ => .fin n 0 0
  | .fin true _ _ => .nan
  | .fin false m e =>
    let m1 := if e % 2 = 0 then m else 2 * m
    let e1 := if e % 2 = 0 then e else e - 1
    let x := m1 * 4 ^ 40
    let r := isqrt x
    sticky false r (e1 / 2 - 40) (decide (r * r = x))

/-- 1/√x to at least 40 significant bits and a sticky bit; of ±0 an infinity of that sign (IEEE 754-2019). -/
def fRsqrt : FVal → FVal
  | .nan => .nan
  | .inf n => if n then .nan else .fin false 0 0
  | .fin n 0 _ => .inf n
  | .fin true _ _ => .nan
  | .fin false m e =>
    let m1 := if e % 2 = 0 then m else 2 * m
    let e1 := if e % 2 = 0 then e else e - 1
    let k := Nat.log2 m1 + 40
    let r := isqrt (4 ^ k / m1)
    sticky false r (-(e1 / 2) - k) (decide (r * r * m1 = 4 ^ k))

/-- Fraction bits of the fixed-point numbers of `fExp2` and `fLog2`; wide enough that one rounding of the result to
24 bits or fewer is the rounding of the exact value (DEDUCED: R141 asks for correct rounding). -/
def exp2Prec : Nat := 192

/-- The product of 2^(2^−i) over the set bits i of the fraction `f / 2^j`, at `exp2Prec` bits: `c` is 2^(2^−i) of the
bit before, `acc` the product so far, `n` the bits left. -/
def exp2Bits (f j : Nat) : Nat → Nat → Nat → Nat → Nat
  | 0, _, _, acc => acc
  | n + 1, i, c, acc =>
    let c' := isqrt (c * 2 ^ exp2Prec)
    exp2Bits f j n (i + 1) c' (if i + 1 ≤ j && f.testBit (j - (i + 1)) then acc * c' / 2 ^ exp2Prec else acc)

/-- 2^x (R141). -/
def fExp2 : FVal → FVal
  | .nan => .nan
  | .inf n => if n then .fin false 0 0 else .inf false
  | .fin n m e =>
    if m = 0 then .fin false 1 0
    else if 10 < (Nat.log2 m : Int) + e then (if n then .fin false 1 (-2048) else .inf false)
    else
      let j := (-e).toNat
      let x : Int := if 0 ≤ e then m * 2 ^ e.toNat * 2 ^ j else m
      let x := if n then -x else x
      let k := x / 2 ^ j
      let f := (x % 2 ^ j).toNat
      if f = 0 then .fin false 1 k
      else
        let r := exp2Bits f j (min j exp2Prec) 0 (2 ^ (exp2Prec + 1)) (2 ^ exp2Prec)
        sticky false r (k - exp2Prec) false

/-- `n` further bits of log2 of `y / 2^exp2Prec`, a number in [1, 2), below the bits `acc`. -/
def log2Bits : Nat → Nat → Nat → Nat
  | 0, _, acc => acc
  | n + 1, y, acc =>
    let z := y * y / 2 ^ exp2Prec
    if 2 ^ (exp2Prec + 1) ≤ z then log2Bits n (z / 2) (2 * acc + 1) else log2Bits n z (2 * acc)

/-- log2 x (R141). -/
def fLog2 : FVal → FVal
  | .nan => .nan
  | .inf n => if n then .nan else .inf false
  | .fin _ 0 _ => .inf true
  | .fin true _ _ => .nan
  | .fin false m e =>
    let l := Nat.log2 m
    let k : Int := l + e
    if m = 2 ^ l then ofInt k
    else
      let fr := log2Bits 96 (m * 2 ^ exp2Prec / 2 ^ l) 0
      let x : Int := k * 2 ^ 96 + fr
      if 0 ≤ x then .fin false (2 * x.toNat + 1) (-97) else .fin true (2 * (-x).toNat - 1) (-97)

/-- Largest integral value at most x; a zero and an infinity stay as they are. -/
def fFloor : FVal → FVal
  | .fin n m e =>
    if m = 0 || decide (0 ≤ e) then .fin n m e
    else
      let q := m / 2 ^ (-e).toNat
      .fin n (if n && m % 2 ^ (-e).toNat != 0 then q + 1 else q) 0
  | v => v

/-- The integral value nearest x, ties to even, keeping the sign. -/
def fRint : FVal → FVal
  | .fin n m e => if 0 ≤ e then .fin n m e else .fin n (roundInt m e) 0
  | v => v

/-! ### Vector functions (R140) -/

/-- Width in bits of an element of a vector format (R102: 0 FP32, 1 BF16, 2 FP16, 3 INT32, 4 INT8). -/
def vfmtWidth (vf : Nat) : Nat := if vf = 0 || vf = 3 then 32 else if vf = 4 then 8 else 16

/-- The floating-point format of a VFMT code, if it is one. -/
def vfmtFloat (vf : Nat) : Option FloatFmt :=
  if vf = 0 then some fmtFP32 else if vf = 1 then some fmtBF16 else if vf = 2 then some fmtFP16 else none

/-- The exact value of an element of a vector format. -/
def vecValue (vf x : Nat) : FVal :=
  match vfmtFloat vf with
  | some f => decodeFloat f x
  | none => ofInt (toSigned (vfmtWidth vf) x)

/-- A conversion to a vector format by R80. -/
def vecConvert (dfmt : Nat) (v : FVal) : Nat × Nat :=
  match vfmtFloat dfmt with
  | some f => convertFloat f v
  | none => convertInt (vfmtWidth dfmt) v

/-- The formats a function's row allows (R140). -/
def vecFmtOk (n vf : Nat) : Bool :=
  if n = 4 || (14 ≤ n && n ≤ 18) || n = 28 || n = 29 then vf ≤ 2
  else if 19 ≤ n && n ≤ 21 then vf = 3 || vf = 4
  else if 22 ≤ n && n ≤ 27 then vf = 3
  else vf ≤ 4

/-- The functions with one source (R141). -/
def vecOneSource (n : Nat) : Bool := (7 ≤ n && n ≤ 9) || (14 ≤ n && n ≤ 18) || (26 ≤ n && n ≤ 29)

/-- The functions that read a third source (R141). -/
def vecThirdSource (n : Nat) : Bool := n = 4 || n = 13

/-- Leading zeros of a 32-bit number. -/
def clz32 (x : Nat) : Nat := if x % 2 ^ 32 = 0 then 32 else 31 - Nat.log2 (x % 2 ^ 32)

/-- Set bits among the low `n`. -/
def popCount : Nat → Nat → Nat
  | 0, _ => 0
  | n + 1, x => x % 2 + popCount n (x / 2)

/-- An integer result in `n` bits: INT8 arithmetic saturates, INT32 wraps (R79). -/
def intResult (vf : Nat) (x : Int) : Nat :=
  if vf = 4 then ofSigned 8 (clampInt (-128) 127 x) else ofSigned 32 x

/-- Functions 1 to 29 in an integer format, but CVT and SEL. -/
def vecInt (n vf s1 s2 : Nat) : Nat :=
  let w := vfmtWidth vf
  let a := toSigned w s1
  let b := toSigned w s2
  let ua := s1 % 2 ^ w
  let ub := s2 % 2 ^ w
  if n = 1 then intResult vf (a + b)
  else if n = 2 then intResult vf (a - b)
  else if n = 3 then intResult vf (a * b)
  else if n = 5 then ofSigned w (min a b)
  else if n = 6 then ofSigned w (max a b)
  else if n = 7 then intResult vf (if a < 0 then -a else a)
  else if n = 8 then intResult vf (-a)
  else if n = 10 then bnat (decide (a = b))
  else if n = 11 then bnat (decide (a < b))
  else if n = 12 then bnat (decide (a ≤ b))
  else if n = 19 then ua &&& ub
  else if n = 20 then ua ||| ub
  else if n = 21 then ua ^^^ ub
  else if n = 22 then (ua <<< (ub % 32)) % 2 ^ 32
  else if n = 23 then ua >>> (ub % 32)
  else if n = 24 then ofSigned 32 (a / 2 ^ (ub % 32))
  else if n = 25 then ofSigned 32 (a * b / 2 ^ 32)
  else if n = 26 then clz32 ua
  else popCount 32 ua

/-- MIN (or MAX for `hi`) of two elements: a NaN gives the other operand, two NaNs the canonical NaN (R79, R140). -/
def vecMinMax (f : FloatFmt) (hi : Bool) (s1 s2 : Nat) : Nat :=
  let a := decodeFloat f s1
  let b := decodeFloat f s2
  let w := fmtWidth f
  if a = .nan then (if b = .nan then canonNan f else s2 % 2 ^ w)
  else if b = .nan then s1 % 2 ^ w
  else if (if hi then fBelow a b else fBelow b a) then s2 % 2 ^ w else s1 % 2 ^ w

/-- |x| of a value. -/
def fAbs : FVal → FVal
  | .nan => .nan
  | .inf _ => .inf false
  | .fin _ m e => .fin false m e

/-- Functions 1 to 29 in a floating-point format, but CVT and SEL. -/
def vecFloat (n : Nat) (f : FloatFmt) (s1 s2 s3 : Nat) : Nat :=
  let a := decodeFloat f s1
  let b := decodeFloat f s2
  let c := decodeFloat f s3
  if n = 1 then roundIeee f (fAdd a b)
  else if n = 2 then roundIeee f (fAdd a (fNeg b))
  else if n = 3 then roundIeee f (fMul a b)
  else if n = 4 then roundIeee f (fAdd (fMul a b) c)
  else if n = 5 then vecMinMax f false s1 s2
  else if n = 6 then vecMinMax f true s1 s2
  else if n = 7 then roundIeee f (fAbs a)
  else if n = 8 then roundIeee f (fNeg a)
  else if n = 10 then bnat (fEq a b)
  else if n = 11 then bnat (fLt a b)
  else if n = 12 then bnat (fLt a b || fEq a b)
  else if n = 14 then roundIeee f (fRcp a)
  else if n = 15 then roundIeee f (fRsqrt a)
  else if n = 16 then roundIeee f (fExp2 a)
  else if n = 17 then roundIeee f (fLog2 a)
  else if n = 18 then roundIeee f (fSqrt a)
  else if n = 28 then roundIeee f (fFloor a)
  else roundIeee f (fRint a)

/-- Vector function `n` on one element (R140, R141), with the NaN elements written as zero (FC5). The result is in the
width of `vf`, for CVT in that of `dfmt`. -/
def vecFn (n vf dfmt s1 s2 s3 : Nat) : Nat × Nat :=
  if n = 9 then vecConvert dfmt (vecValue vf s1)
  else if n = 13 then ((if s3 % 2 ^ vfmtWidth vf = 0 then s2 else s1) % 2 ^ vfmtWidth vf, 0)
  else match vfmtFloat vf with
    | some f => (vecFloat n f s1 s2 s3, 0)
    | none => (vecInt n vf s1 s2, 0)

/-- SETP's comparisons (R142): 0 EQ, 1 NE, 2 LT, 3 LE, 4 GT, 5 GE. -/
def vecCompare (cmp vf s1 s2 : Nat) : Bool :=
  let a := vecValue vf s1
  let b := vecValue vf s2
  if cmp = 0 then fEq a b
  else if cmp = 1 then !fEq a b
  else if cmp = 2 then fLt a b
  else if cmp = 3 then fLt a b || fEq a b
  else if cmp = 4 then fLt b a
  else fLt b a || fEq a b

/-! ### Operand formats of the matrix array (R62) -/

/-- The element format of a matrix code; INT8 has none. -/
def matFloat (c : Nat) : Option FloatFmt :=
  match c with
  | 0 => some fmtE2M1
  | 1 => some fmtE2M3
  | 2 => some fmtE3M2
  | 3 => some fmtE4M3
  | 4 => some fmtE5M2
  | 6 => some fmtBF16
  | 7 => some fmtFP16
  | _ => none

/-- Bits of an element of a matrix format. -/
def matWidth (c : Nat) : Nat := if c = 0 then 4 else if c ≤ 2 then 6 else if c ≤ 5 then 8 else 16

/-- The depth class of a matrix format (R62). -/
def matDepth (c : Nat) : Nat := if c ≤ 2 then 16 else if c ≤ 5 then 8 else 4

/-- The value of a matrix element. -/
def matValue (c x : Nat) : FVal :=
  match matFloat c with
  | some f => decodeFloat f x
  | none => ofInt (toSigned 8 x)

/-- The value of a block scale: E8M0 (R59), or the INT8 scale m · 2^k (R60). -/
def scaleValue (c x : Nat) : FVal :=
  if c = 5 then .fin false (field x 7 0) (toSigned 8 (field x 15 8))
  else if x = 0xFF then .nan else .fin false 1 ((x : Int) - 127)

/-- An element with its block's scale (R59, R60, R61): a NaN scale makes every element a NaN operand; an INT8 block
whose multiplier is 0 is a zero factor. -/
def scaledElem (c x : Nat) (scale : Option Nat) : FVal :=
  match scale with
  | none => matValue c x
  | some s => fMul (matValue c x) (scaleValue c s)

/-! ### Block-scaled conversion from FP32 (R81) -/

/-- e_max of R81 for the matrix formats 0 to 4. -/
def blockEmax (c : Nat) : Int := if c ≤ 1 then 2 else if c = 2 then 4 else if c = 3 then 8 else 15

/-- One block: the E8M0 scale, the elements, and the NaN elements written as +0 (R81). -/
def blockConvert (c : Nat) (xs : List Nat) : Nat × List Nat × Nat :=
  let vs := xs.map (decodeFloat fmtFP32)
  let f := (matFloat c).getD fmtE2M1
  let nans := (vs.filter (· = FVal.nan)).length
  if vs.any (fun v => match v with | .fin .. => false | _ => true) then (0xFF, vs.map (fun _ => 0), nans)
  else if vs.all (fun v => match v with | .fin _ m _ => m == 0 | _ => false) then
    (0, vs.map (fun v => signBit f (fSign v)), 0)
  else
    let top := vs.foldl (fun acc v => match v with
      | .fin _ m e => if m = 0 then acc else max acc (ilog2Scaled m e)
      | _ => acc) (-1000)
    let code := clampInt 0 254 (top - blockEmax c + 127)
    (code.toNat, vs.map (fun v => match v with
      | .fin n m e => (convertFloat f (.fin n m (e - (code - 127)))).1
      | _ => 0), 0)

end Sys2Proof.Machine
end

