-- ==== Sys2Proof/Machine/State.lean ====
section
/-!
DEFINITION. The state of the module as plain data: every register, buffer, queue, counter and table the manual names,
the queue of waiting commands, and the state right after reset. Large uniform parts (tiles, slices, tables) are sparse
maps over a common value for every index that is not listed.
-/

namespace Sys2Proof.Machine

/-! ### Accumulators and the units of a tile (R65, R84, R97–R107) -/

/-- One accumulator (R65). -/
structure Acc where
  a : BitVec 136
  inv : Bool
  pos : Bool
  neg : Bool
  deriving DecidableEq, Repr

/-- A cleared accumulator. -/
def accZero : Acc := ⟨0, false, false, false⟩

/-- A bank: W, the window advice (none: empty, read as −512), and its 256 accumulators (R65, R71). -/
structure Bank where
  w : Int
  eMax : Option Int
  cells : FMap Acc
  deriving DecidableEq, Repr

/-- A bank as launch leaves it. -/
def bankZero : Bank := ⟨0, none, []⟩

/-- What issued an operation of a tile, as a fault record names it (R165): engine, LS offset of the bundle or GX instruction,
active lanes, group slot. -/
structure Origin where
  engine : Nat
  pc : Nat
  mask : Nat
  slot : Nat
  deriving DecidableEq, Repr

/-- An MMA or GMMA in the array (R95–R99, R160, R161). Operand bases are LS offsets; `feed` names the Sheller-fed
operand (0 none, 1 A, 2 B); `m` cycles go to one step; `s`, `i` are the step and the cycle within it that come next, in
cycle `at`; `got*` the operand and scale bytes read so far. `w` is none for a GMMA, whose slot `ge` gives. -/
structure MmaJob where
  bank : Nat
  w : Option Int
  fa : Nat
  fb : Nat
  sa : Bool
  sb : Bool
  baseA : Nat
  baseB : Nat
  baseSa : Nat
  baseSb : Nat
  k : Nat
  feed : Nat
  m : Nat
  s : Nat
  i : Nat
  at_ : Nat
  gotA : List Byte
  gotB : List Byte
  gotSa : List Byte
  gotSb : List Byte
  ge : Option Nat
  by_ : Origin
  deriving DecidableEq, Repr

/-- An IMPORT in progress: bank, first byte, next beat, its cycle, bytes read (R105). -/
structure ImportJob where
  bank : Nat
  base : Nat
  beat : Nat
  at_ : Nat
  got : List Byte
  by_ : Origin
  deriving DecidableEq, Repr

/-- A READOUT or GREAD: `t` its issue cycle, `wNew` the W of its clear (none: keep W), `beats` the beats that still
have to be written, from cycle `nextAt` (R104, R162). -/
structure ReadJob where
  bank : Nat
  mode : Nat
  clr : Bool
  wNew : Option Int
  dst : Nat
  t : Nat
  beats : List (List Byte)
  nextAt : Nat
  ge : Option Nat
  by_ : Origin
  deriving DecidableEq, Repr

/-- A V-slot vector operation: sources are read in t + 1, the result written in t + 4 (R102). -/
structure VecJob where
  t : Nat
  n : Nat
  vf : Nat
  df : Nat
  dst : Nat
  s1 : Nat
  s2 : Nat
  res : List Byte
  nans : Nat
  by_ : Origin
  deriving DecidableEq, Repr

/-- A STATE_COPY: the beat held at the start of t + 1 is written in t + 2 (R107). -/
structure CopyJob where
  t : Nat
  dst : Nat
  beat : List Byte
  by_ : Origin
  deriving DecidableEq, Repr

/-- A bank clear due in a cycle (R100). -/
structure ClearJob where
  bank : Nat
  w : Int
  due : Nat
  deriving DecidableEq, Repr

/-- A Sheller stream (R86, R106): destination (0 LS, 1 operand A, 2 operand B), offset of the current block, output
offset, blocks left, first cycle of the current block, its bytes read so far, its output beats decoded so far, the output
beats decoded and due with the earliest cycle of each, and what the beats of the current block that have left replaced in
LS (offset, bytes, Poison mark). -/
structure ShellJob where
  dest : Nat
  inp : Nat
  out : Nat
  left : Nat
  start : Nat
  got : List Byte
  sent : Nat
  due : List (Nat × List Byte)
  undo : List (Nat × List Byte × Bool)
  by_ : Origin
  deriving DecidableEq, Repr

/-- The matrix array, readout path, Sheller and scheduled writes of a tile. `path` holds decoded bytes waiting for the
array (operand A, operand B); `p1Banks` and `lowBanks` the banks that priority-1 accesses, and those of priority 2 to 5, have
named in cycle `p1Cycle`; `boosts` the requesters of priority 2 to 5 that R29 serves next at a bank (requester in the order of R27, bank); `pipeLost` the losses in a row of the load/store pipe. -/
structure Units where
  banks : FMap Bank
  mmas : List MmaJob
  adds : List (Nat × MmaJob)
  imports : List ImportJob
  impAdds : List (Nat × Nat × List Byte)
  reads : List ReadJob
  vecs : List VecJob
  copies : List CopyJob
  clears : List ClearJob
  shell : Option ShellJob
  pathA : List Byte
  pathB : List Byte
  p1Cycle : Nat
  p1Banks : List Nat
  lowBanks : List Nat
  boosts : List (Nat × Nat)
  pipeLost : Nat
  deriving DecidableEq, Repr

/-! ### The sequencer (R88–R128) -/

/-- The four slots of a bundle (R90). -/
inductive SlotKind where
  | m
  | v
  | x
  | c
  deriving DecidableEq, Repr

/-- An enabled slot that waits for the rest of its bundle. -/
structure Slot where
  kind : SlotKind
  word : Nat
  deriving DecidableEq, Repr

/-- What holds a bundle (R120, R38, R110, R112). -/
inductive Hold where
  | none
  | counter (ac : Nat) (threshold : Nat)
  | mover
  | sendQueue
  | posts
  deriving DecidableEq, Repr

/-- The stream of a tile: before its first bundle, issuing, ended by PHASE or END (with the report still owed, or
made), or stopped by a fault or a prune. -/
inductive Stream where
  | idle
  | armed (frame : Nat)
  | issuing
  | phaseEnd (reported : Bool)
  | ended (reported : Bool)
  | halted
  deriving DecidableEq, Repr

/-- A running loop (R116): its counter, the first bundle of its body, the closing bundle, the body's length, and whether the
body has begun to repeat. -/
structure LoopRun where
  l : Nat
  first : Nat
  last : Nat
  body : Nat
  again : Bool
  deriving DecidableEq, Repr

/-- The registers of the sequencer and the state of its issue. `slots` are those of the bundle that is coming in, `queue` the
whole bundles that have not issued, the next one first, and `beat` 1 + the LS beat fetched last (R26); `nextIssue` is the earliest
cycle of the next bundle, which after EPOCH also waits for the first cycle of an epoch (`epochWait`); `holdUs` and `stallUs` the µs in which a hold, or an underrun
of the Sheller, began;
`grant` the open cycles first to last and the lent bank; `ramp*` the tick and the busy cycles in it and in the one
before; `lanes` 1 + the cycle in which a V-slot vector operation last took the lanes; `exact` false from the first
stall. -/
structure Seq where
  a : FMap Nat
  l : FMap Nat
  pc : Nat
  scope : BitVec 2
  env : Nat
  stream : Stream
  nextIssue : Nat
  slots : List Slot
  queue : List (BitVec 256)
  beat : Nat
  epochWait : Bool
  loops : List LoopRun
  hold : Hold
  holdUs : Nat
  stallUs : Option Nat
  holdAt : Nat
  exact : Bool
  layer : Nat
  opid : Nat
  grant : Option (Nat × Nat × Nat)
  arrayBusy : Nat
  readBusy : Nat
  rampTick : Nat
  rampB : Nat
  rampP : Nat
  lanes : Nat
  deriving DecidableEq, Repr

/-- An entry of a send queue: source beat or unit and the cycle in which it is placed (R110). -/
structure SendEnt where
  addr : Nat
  at_ : Nat
  deriving DecidableEq, Repr

/-- A landing post: address, counter if CNT is 1, and the cycle in which it is posted (R112). -/
structure Post where
  addr : Nat
  ac : Option Nat
  at_ : Nat
  deriving DecidableEq, Repr

/-- A flit or unit in a landing ring. -/
structure RingEnt where
  data : List Byte
  poison : Bool
  nul : Bool
  deriving DecidableEq, Repr

/-- The queues of the local port or of one neighbour lane (R110–R113). -/
structure PortQ where
  sendq : List SendEnt
  posts : List Post
  ring : List RingEnt
  deriving DecidableEq, Repr

/-! ### Movers and counters (R207–R218) -/

/-- A descriptor held by a mover (R212): its LS offset and the cycle in which it is read, the encoded 64 bytes once
read, the group slot that issued it (none: the sequencer), whether the mover has started it, how many of its bytes have
been requested or sent, whether all have, the replies outstanding (each as the unit it answers for), the ranges that
its translation found, slot and entry (R282), where it was issued, and the scope of the release that its issue is (R220). -/
structure Desc where
  addr : Nat
  readAt : Nat
  raw : Option Nat
  ge : Option Nat
  started : Bool
  pos : Nat
  sent : Bool
  replies : List Nat
  ents : List (Nat × Nat)
  by_ : Origin
  scope : BitVec 2
  deriving DecidableEq, Repr

/-- A mover: its descriptors in issue order, the cycle of its last retirement, whose place opens a cycle later (R227),
and whether a refused descriptor or a kill has stopped it (R209, R218). -/
structure Mover where
  queue : List Desc
  freed : Nat
  stopped : Bool
  deriving DecidableEq, Repr

/-- The arrival counters (R214–R216): the values now, and those at the start of the cycle `stamp`, which a wait of that
cycle sees (R120); what an AC_SUB of that cycle has taken from each, its mover and amount, and the source bytes that count in
a later cycle (cycle, counter, bytes; R212). -/
structure Counters48 where
  now : FMap Nat
  start : FMap Nat
  stamp : Nat
  subs : List (Nat × Nat × Nat)
  due : List (Nat × Nat × Nat)
  deriving DecidableEq, Repr

/-! ### The group engine (R129–R166) -/

/-- A divergence-stack entry (R154): the lanes that wait and where they go on, the reconvergence point, and the lanes
that have reached it. -/
structure DivEntry where
  mask : BitVec 32
  pc : Nat
  rpc : Nat
  done : Option (BitVec 32)
  deriving DecidableEq, Repr

/-- What a group waits for (R136). -/
inductive Pend where
  | none
  | released
  | regs (rs : List Nat)
  | barrier (b : Nat)
  | counter (ac : Nat) (threshold : Nat)
  | spawn
  | mover (m : Nat)
  | gmma (w : Nat)
  | gread (w : Nat)
  deriving DecidableEq, Repr

/-- A resident group (R133–R137, R154). Register r of lane i is `regs` at 32·r + i; `ready` the cycle in which a
register (or predicate 256 + p, or, at 264, the group's acquires) becomes available; `holding` says that its next
instruction stands at its issue and is held (R146, R232, R233). -/
structure Group where
  num : Nat
  cohort : Nat
  rpt : Nat
  glBase : Nat
  glSize : Nat
  regs : FMap Nat
  preds : FMap Nat
  active : BitVec 32
  exited : BitVec 32
  stack : List DivEntry
  pc : Nat
  ready : FMap Nat
  pend : Pend
  since : Nat
  waitUs : Nat
  issueUs : Nat
  holding : Bool
  stopped : Bool
  deriving DecidableEq, Repr

/-- A cohort: its record, the next group to start, groups that have not exited, and the slots arrived at each barrier
(R131, R157). -/
structure Cohort where
  id : Nat
  record : BitVec 64
  next : Nat
  live : Nat
  bars : FMap (List Nat)
  deriving DecidableEq, Repr

/-- An LD or ST of LS or group-local memory in the load/store pipe (R148, R149): its group's slot (64: the group has ended), the
lanes with their LS offsets and the bytes that a store puts there, the sectors still to be served in order; for a load the
destination register and the size; pointer and lanes of the instruction, and whether it is an acquire. -/
structure PipeOp where
  g : Nat
  load : Bool
  lanes : List (Nat × Nat × List Byte)
  sectors : List Nat
  reg : Nat
  size : Nat
  pc : Nat
  act : Nat
  acq : Bool
  deriving DecidableEq, Repr

/-- The group engine: launch queue, cohorts in service, resident groups by slot, the active set (slots 0 to 3, with the
cycle from which each may issue), the slot that issued last, the next issue cycle; the operations in the load/store pipe, the
first cycle in which an access that is in no bank may take it, and the group slot whose held instruction holds it (64: none); 1 + the cycle
in which a group-wide matrix instruction last started; free values drawn. -/
structure Ge where
  launchQ : List (BitVec 64)
  cohorts : List Cohort
  nextCohort : Nat
  groups : FMap (Option Group)
  activeSet : FMap (Option (Nat × Nat))
  lastSlot : Nat
  nextIssue : Nat
  pipe : List PipeOp
  pipeFree : Nat
  pipeHeld : Nat
  lentAt : Nat
  draws : Nat
  stopped : Bool
  refused : Nat
  deriving DecidableEq, Repr

/-! ### The L1 (R229–R235, R241) -/

/-- The states of an L1 line (R241). -/
inductive L1State where
  | i
  | s
  | e
  | o
  | m
  deriving DecidableEq, Repr

/-- An L1 line: state, sector masks, way and data; the 64-bit words of it (0 to 15) with a single-bit and a double-bit error
(R30). -/
structure L1Line where
  st : L1State
  valid : BitVec 4
  dirty : BitVec 4
  way : Nat
  data : List Byte
  sbe : List Nat
  dbe : List Nat
  deriving DecidableEq, Repr

/-- A lane of a load that waits for a line: group slot (64: the group has ended), lane, destination register, bytes, offset in the
line; pointer and lanes of the instruction, and whether it is an acquire (R146). -/
structure LaneLoad where
  g : Nat
  lane : Nat
  reg : Nat
  size : Nat
  off : Nat
  pc : Nat
  lanes : Nat
  acq : Bool
  deriving DecidableEq, Repr

/-- A miss entry (R232): line, sectors asked for and not yet come, loads that joined it, whether an INV has arrived (R252), whether it
was an RDU (R234), whether the line is to be discarded after it (R262). -/
structure MissEntry where
  line : Nat
  smask : BitVec 4
  loads : List LaneLoad
  invd : Bool
  unc : Bool
  discard : Bool
  deriving DecidableEq, Repr

/-- A write-buffer entry (R233): line, bytes and byte mask, the group slots that stored, and pointer and lanes of the
first of the stores. -/
structure WbufEntry where
  line : Nat
  data : List Byte
  mask : Nat
  gs : List Nat
  discard : Bool
  pc : Nat
  lanes : Nat
  deriving DecidableEq, Repr

/-- A write-back entry (R235). -/
structure WbEntry where
  line : Nat
  smask : BitVec 4
  deriving DecidableEq, Repr

/-- An atomic, LADD, WRU or DISCARD whose reply is awaited: line, group slot, and for a fetch the lanes with the
destination register and size; pointer and lanes of the instruction, and whether it is an acquire (R146). A group slot of 64 is a
group that has ended. -/
structure Await where
  line : Nat
  g : Nat
  fetch : Bool
  lanes : List Nat
  reg : Nat
  size : Nat
  pc : Nat
  act : Nat
  acq : Bool
  deriving DecidableEq, Repr

/-- The L1 of a tile: lines, the pseudo-LRU tree bits of each set, miss entries, write buffer, write-back entries, held
forwards (message and kind), and requests outside the miss entries. -/
structure L1 where
  lines : FMap L1Line
  plru : FMap Nat
  miss : List MissEntry
  wbuf : List WbufEntry
  wbs : List WbEntry
  held : List (Nat × CMsg)
  awaits : List Await
  deriving DecidableEq, Repr

/-! ### The router (R167–R184) -/

/-- The Espalier router: active and shadow slot tables (output · 512 + slot), dynamic buffers (input · 4 + VC; inputs
0–3 mesh, 4–7 lanes, 8 local port, 9 memory port; behind the 8 flits that the local and the memory port's buffers hold stand those that wait
for a credit at the tile or the memory attach, R179), the input and VC whose packet is in progress at each output for each owner (output ·
32 + partition), the last winner at each output, the cycle plus 1 in which each output last sent, the misroute counter, and whether a FENCE is in force. -/
structure Router where
  active : FMap (BitVec 8)
  shadow : FMap (BitVec 8)
  dyn : FMap (List Flit)
  prog : FMap (Option Nat)
  lastWin : FMap Nat
  served : FMap Nat
  misroute : Nat
  fence : Bool
  deriving DecidableEq, Repr

/-! ### Counters and traces of a tile (R486–R500) -/

/-- A completed counter bank with its tag: values, the events counted, LAYER, OPID, SEQ (R487–R491). -/
structure CntBank where
  vals : FMap Nat
  codes : FMap Nat
  layer : Nat
  opid : Nat
  seq : Nat
  deriving DecidableEq, Repr

/-- The counters of a tile: live banks, the events of the present cycle by code (they count in the bank that holds at its end, R487), completed banks, the current SEQ, event selections and those in use, the fixed
counters FC0–FC8, CNT_SEL, the latches, the stop of a hang snapshot; the stream of R497 (on, cycle of the last record, records made, commands skipped, records
not yet sent) and the trace of R499 (traced, trace slots, entries waiting, dropped). -/
structure Counters where
  live : FMap Nat
  tick : FMap Nat
  done : CntBank
  seq : Nat
  sel : FMap Nat
  selUse : FMap Nat
  fc : FMap Nat
  cntSel : Nat
  hi : Nat
  tag : Nat
  seqLatch : Nat
  stopped : Bool
  lastStream : Nat
  recNo : Nat
  skipped : Nat
  stream : Bool
  recs : List (List Byte)
  traced : Bool
  traceSlots : List Nat
  trace : List (List Byte)
  dropped : Nat
  deriving DecidableEq, Repr

/-! ### A tile (R21–R55) -/

/-- TILE_STATUS.STATE (R53). -/
inductive TileState where
  | off
  | wiping
  | idle
  | loading
  | running
  | pruning
  | pruned
  | routerFault
  deriving DecidableEq, Repr

/-- The stored fields of the tile registers (R53). -/
structure TileRegs where
  part : BitVec 5
  partValid : Bool
  splitNext : BitVec 2
  splitCur : BitVec 2
  twigOk : Bool
  routerOk : Bool
  state : TileState
  glCur : BitVec 8
  glNext : BitVec 8
  acSel : BitVec 6
  acHi : BitVec 16
  mflags : BitVec 12
  faultOp : BitVec 16
  faultCode : BitVec 8
  moverErr : BitVec 4
  deriving DecidableEq, Repr

/-- A fault as a tile reports it (R165): cycle, tile, engine, code, address, LS offset, lanes, OPID, LAYER, group slot. -/
structure FaultRec where
  cycle : Nat
  tile : Nat
  engine : Nat
  code : Nat
  addr : Nat
  ioff : Nat
  mask : Nat
  opid : Nat
  layer : Nat
  gslot : Nat
  deriving DecidableEq, Repr

/-- What a tile has to report over Twig (R197). -/
inductive Report where
  | endDone
  | phaseEnd
  | cohort (tag : BitVec 24)
  | fault (f : FaultRec)
  | regData (tag : BitVec 5) (v : BitVec 32)
  | snap (words : List (BitVec 32))
  | fenceDone
  | heartbeat (state : Nat) (cycle pc : BitVec 32)
  deriving DecidableEq, Repr

/-- A tile. `marks` are the beats marked Poison, `sbe` and `dbe` the 64-bit words with a single-bit and a double-bit error
(R30); `nbr` the lanes that lead to a tile of the partition (R170), as launch found them; `tables` the
Sheller tables (R84); `kernOff`, `kernN` the kernel table (R129); `moverGe` the movers of the group engine (R159);
`prune` the cycle F of a prune under way and whether it has passed;
`nullOut` null outputs in force (R45); `tolerant` the job's prune-tolerant flag; `frozen` the compute sub-domain stopped
by a hang snapshot (R475) and the record captured then; `look` the slots in the range lookaside, most recently used first (R273); `reports` the
Twig messages owed. -/
structure Tile where
  regs : TileRegs
  ls : Memory
  marks : List Nat
  sbe : List Nat
  dbe : List Nat
  nbr : BitVec 4
  seq : Seq
  units : Units
  ports : FMap PortQ
  movers : FMap Mover
  acs : Counters48
  ge : Ge
  l1 : L1
  router : Router
  cnt : Counters
  tables : FMap (List Byte)
  kernOff : Nat
  kernN : Nat
  moverGe : BitVec 4
  prune : Option (Nat × Bool)
  nullOut : Bool
  tolerant : Bool
  frozen : Bool
  captured : List Byte
  look : List Nat
  reports : List Report
  deriving DecidableEq, Repr

def seqReset : Seq :=
  { a := [], l := [], pc := 0, scope := 2, env := 64, stream := .idle, nextIssue := 0, slots := [], queue := [], beat := 0,
    epochWait := false, loops := [],
    hold := .none, holdUs := 0, stallUs := none, holdAt := 0, exact := true, layer := 0, opid := 0, grant := none, arrayBusy := 0, readBusy := 0,
    rampTick := 0, rampB := 0, rampP := 0, lanes := 0 }

def unitsReset : Units :=
  { banks := [], mmas := [], adds := [], imports := [], impAdds := [], reads := [], vecs := [], copies := [],
    clears := [], shell := none, pathA := [], pathB := [], p1Cycle := 0, p1Banks := [], lowBanks := [], boosts := [], pipeLost := 0 }

def portReset : PortQ := ⟨[], [], []⟩
def moverReset : Mover := ⟨[], 0, false⟩
def acsReset : Counters48 := ⟨[], [], 0, [], []⟩

def geReset : Ge :=
  { launchQ := [], cohorts := [], nextCohort := 0, groups := [], activeSet := [], lastSlot := 3, nextIssue := 0, pipe := [],
    pipeFree := 0, pipeHeld := 64, lentAt := 0, draws := 0, stopped := false, refused := 0 }

def l1LineReset : L1Line := ⟨.i, 0, 0, 0, [], [], []⟩
def l1Reset : L1 := ⟨[], [], [], [], [], [], []⟩
def routerReset : Router := ⟨[], [], [], [], [], [], 0, false⟩

def countersReset : Counters :=
  { live := [], tick := [], done := ⟨[], [], 0, 0, 0⟩, seq := 0, sel := [], selUse := [], fc := [], cntSel := 0, hi := 0, tag := 0,
    seqLatch := 0, stopped := false, lastStream := 0, recNo := 0, skipped := 0, stream := false,
    recs := [], traced := false, traceSlots := [], trace := [], dropped := 0 }

/-- The tile registers at the reset values of R53. -/
def tileRegsReset : TileRegs :=
  { part := 0, partValid := false, splitNext := 0, splitCur := 0, twigOk := true, routerOk := true, state := .off,
    glCur := 0, glNext := 0, acSel := 0, acHi := 0, mflags := 0, faultOp := 0, faultCode := 0, moverErr := 0 }

/-- A tile after reset. -/
def tileReset : Tile :=
  { regs := tileRegsReset, ls := [], marks := [], sbe := [], dbe := [], nbr := 0, seq := seqReset, units := unitsReset, ports := [],
    movers := [], acs := acsReset, ge := geReset, l1 := l1Reset, router := routerReset, cnt := countersReset,
    tables := [], kernOff := 0, kernN := 0, moverGe := 0, prune := none, nullOut := false,
    tolerant := false, frozen := false, captured := [], look := [], reports := [] }

/-! ### Home slices (R236–R268) -/

/-- The states of a directory entry (R242). -/
inductive DirState where
  | i
  | s
  | em
  | o
  | p
  deriving DecidableEq, Repr

/-- A directory entry: owner, exact sharer pointers, presence vector once in vector mode, allocation order (R245). -/
structure DirEntry where
  st : DirState
  owner : Option Nat
  sharers : List Nat
  vec : Option (BitVec 4)
  alloc : Nat
  deriving DecidableEq, Repr

/-- A line of a slice's data array (R236, R242). -/
structure HLine where
  data : List Byte
  dirty : Bool
  discarded : Bool
  deriving DecidableEq, Repr

/-- An open transaction (R250, R251): the request's type code of R244 (0xFF: the eviction of a directory entry) and
message; the tiles, or ring agents 0x1FF0 + d, whose replies it awaits; whether WB_IN_FLIGHT has announced a WB, and
whether the WB has come; the owner's new state as its FWD_ACK reported it; the data an owner sent to the home; whether
the line waits for the adder; and when it opened. -/
structure Txn where
  typ : Nat
  msg : CMsg
  awaits : List Nat
  wbWait : Bool
  gotWb : Bool
  gave : Option Nat
  data : Option (List Byte)
  adding : Bool
  opened : Nat
  deriving DecidableEq, Repr

/-- A home slice. `inbox` holds the messages that have arrived and not been served (R249): cycle of arrival, type, message;
`queue` waiting requests in service order, `adds` LADDs waiting for the adder. -/
structure Slice where
  part : BitVec 5
  valid : Bool
  ready : Bool
  timeout : Bool
  poisonFill : Bool
  late : Bool
  poisonLine : Nat
  poisonHi : Nat
  misroute : Nat
  lines : FMap (Option HLine)
  dir : FMap DirEntry
  allocNo : Nat
  txns : List Txn
  inbox : List (Nat × Nat × CMsg)
  queue : List (Nat × CMsg)
  adds : List CMsg
  addFree : Nat
  deriving DecidableEq, Repr

def dirReset : DirEntry := ⟨.i, none, [], none, 0⟩

/-- A slice after reset (R268). -/
def sliceReset : Slice :=
  { part := 0, valid := false, ready := false, timeout := false, poisonFill := false, late := false, poisonLine := 0,
    poisonHi := 0, misroute := 0, lines := [], dir := [], allocNo := 0, txns := [], inbox := [], queue := [], adds := [],
    addFree := 0 }

/-- A ring agent's invalidation (R246): line, home slice, tiles awaited, copies dropped so far. -/
structure RingJob where
  line : Nat
  home : Nat
  part : Nat
  req : Nat
  awaits : List Nat
  dropped : Nat
  rest : List Nat
  deriving DecidableEq, Repr

/-- A flit on a link: the router input it reaches (10: the memory attach behind an edge router) and the cycle in which it
arrives (R168, R170, R374). -/
structure Wire where
  tile : Nat
  input : Nat
  at_ : Nat
  flit : Flit
  deriving DecidableEq, Repr

/-- Where a packet goes: a tile, a home slice, a ring agent, a Coppice port, or the Seedbank engine. -/
inductive NetDst where
  | tile (t : Nat)
  | home (h : Nat)
  | ring (d : Nat)
  deriving DecidableEq, Repr

/-- A packet in flight on Espalier or Graft: the type code of R213 or R244, the source tile (none: the memory attach), for an MW the
die of the memory attach it comes from (4: the Husk; none: it comes from its tile), and its contents. -/
inductive NetMsg where
  | coh (dst : NetDst) (src : Option Nat) (typ : Nat) (m : CMsg)
  | mw (x : MwPacket) (attach : Option Nat)
  | mack (h : MwHdr)
  deriving DecidableEq, Repr

/-! ### Translation (R269–R288) -/

/-- A receive window's configuration (R281). -/
structure WinCfg where
  enable : Bool
  any : Bool
  src : BitVec 10
  deriving DecidableEq, Repr

/-- A withdrawal under way (R282): the slots leaving (window · 16 + slot for windows), whether they are a window's, the
effect cycle w, whether w has passed, and at which µs, the entries that left, and the tiles that have not reported drain (2112 stands for the window table
store). -/
structure Withdrawal where
  slots : List Nat
  gone : List Nat
  window : Bool
  w : Nat
  done : Bool
  us : Nat
  waiting : List Nat
  abandoned : Bool
  deriving DecidableEq, Repr

/-- The translation block of a partition (R269–R288): staged entry, an accepted command with the cycle of its start, status, range table (256-bit entries, 0 empty),
window configurations and tables (window · 16 + slot), die range caches (slots in use order, one list per die), dirty
log. -/
structure Xl where
  entry : Nat
  start : Option (Nat × Nat)
  busy : Bool
  done : Bool
  overrun : Bool
  result : Nat
  table : FMap Nat
  withdrawal : Option Withdrawal
  refused : Nat
  wins : FMap WinCfg
  winTab : FMap Nat
  dieCache : FMap (List Nat)
  dlogEnable : Bool
  dlogOverflow : Bool
  dlogRing2 : Nat
  dlogBitmap : Nat
  dlogRing : Nat
  dlogProd : Nat
  dlogCons : Nat
  deriving DecidableEq, Repr

def winReset : WinCfg := ⟨false, false, 0⟩

def xlReset : Xl :=
  { entry := 0, start := none, busy := false, done := false, overrun := false, result := 0, table := [], withdrawal := none,
    refused := 0, wins := [], winTab := [], dieCache := [], dlogEnable := false, dlogOverflow := false, dlogRing2 := 0,
    dlogBitmap := 0, dlogRing := 0, dlogProd := 0, dlogCons := 0 }

/-! ### Stacks (R289–R307) -/

/-- STK_STATUS.STATE (R305). -/
inductive StackState where
  | off
  | training
  | wiping
  | active
  | selfRefresh
  | excluded
  | shutDown
  deriving DecidableEq, Repr

/-- A stack: state, refresh code (R305), last temperature in °C, counts, last uncorrectable codeword and its latch,
run of failed readouts, times in µs of the uncorrectable codewords of the last hour, shut down for temperature in this service, answer of
0x4010, training record, refreshes and RFMs served. -/
structure Stack where
  state : StackState
  ref : BitVec 2
  temp : Nat
  seen : Bool
  ce : Nat
  ue : Nat
  last : Nat
  lastHi : Nat
  badReads : Nat
  ueTimes : List Nat
  hot : Bool
  reason : Nat
  record : List Byte
  refreshes : Nat
  rfms : Nat
  retrainings : Nat
  deriving DecidableEq, Repr

/-- A stack after reset (R304, R305). -/
def stackReset : Stack :=
  { state := .off, ref := 3, temp := 0, seen := false, ce := 0, ue := 0, last := 0, lastHi := 0, badReads := 0,
    ueTimes := [], hot := false, reason := 4, record := [], refreshes := 0, rfms := 0, retrainings := 0 }

/-- Device memory: the bytes last written by physical address, the 64-byte codewords that hold the poison pattern, the
symbols in error of a codeword, the active-stack list, and the failed marks (R290–R303). -/
structure Dm where
  mem : Memory
  poison : List Nat
  errs : FMap Nat
  active : List Nat
  failed : FMap Bool
  deriving DecidableEq, Repr

def dmReset : Dm := ⟨[], [], [], [], []⟩

/-! ### Espalier as a whole, Twig, dynamic grants (R175–R201) -/

/-- A trained FIFO (R190–R192): receiving tile, input, status (0 trained, 1 unused, 2 failed), latency, worst margin over the points, and the depth
at each of the 8 points. -/
structure Fifo where
  tile : Nat
  input : Nat
  status : Nat
  latency : Nat
  margin : Nat
  depths : List Nat
  deriving DecidableEq, Repr

/-- Espalier's module-wide state: the ESP registers, each die's answering hub, seam classes (seam · 32 + crossing),
FIFOs by die with those of the start before, changed depths, the frame a SWAP named for each partition, transit grants (tile · 16 + output to a
64-bit mask of slot groups) by partition, missed heartbeats, the cycle of the last heartbeat and probe orders by tile (1 the normal, 2 the opposite order)
with the cycle of the probe, prunes asked for and not yet delivered, the words of the last counter snapshot of each tile,
Twig messages discarded, the words of each tile's last heartbeat (R197), and for each die's hub the words of classes 0 to 2 that it has
taken while one of class 3 waited (R198). -/
structure Esp where
  misroute : Nat
  cycleHi : BitVec 32
  hubOk : BitVec 4
  trained : Bool
  seams : FMap Nat
  fifo : FMap (List Fifo)
  fifoOld : FMap (List Fifo)
  fifoChanged : Nat
  swaps : FMap (Option Nat)
  grants : FMap (FMap Nat)
  missed : FMap Nat
  beatAt : FMap Nat
  probes : FMap Nat
  probeAt : FMap Nat
  pruneAsked : List Nat
  cntSnap : FMap (List (BitVec 32))
  twigDropped : Nat
  beats : FMap (List (BitVec 32))
  twigRun : FMap Nat
  deriving DecidableEq, Repr

def espReset : Esp :=
  { misroute := 0, cycleHi := 0, hubOk := 0, trained := false, seams := [], fifo := [], fifoOld := [], fifoChanged := 0,
    swaps := [], grants := [], missed := [], beatAt := [], probes := [], probeAt := [], pruneAsked := [], cntSnap := [], twigDropped := 0,
    beats := [], twigRun := [] }

/-! ### Seedbank (R308–R335) -/

/-- An extent (R312–R316): owner (0–31 a partition, 0xFE detached, 0xFF the device), size in GiB, the number at which its
key was drawn, lifetime bytes written. -/
structure Extent where
  owner : Nat
  size : Nat
  key : Nat
  written : Nat
  deriving DecidableEq, Repr

/-- What a block is used for: free, holding data, or retired. -/
inductive BlockUse where
  | free
  | data
  | retired
  deriving DecidableEq, Repr

/-- A NAND block (R322, R324): erase count, page reads since the erase, the equivalent age of its channel's package when it was last erased, its use, pages written,
whether a refresh is queued, and the erase count at its last error refresh (plus 1). -/
structure Block where
  erases : Nat
  reads : Nat
  born : Nat
  use_ : BlockUse
  pages : Nat
  queued : Bool
  retire : Bool
  errAt : Nat
  deriving DecidableEq, Repr

def blockReset : Block :=
  { erases := 0, reads := 0, born := 0, use_ := .free, pages := 0, queued := false, retire := false, errAt := 0 }

/-- Where bytes read for a mover go: LS of a tile, DM, the Seedbank, or a window; with counter and its tile. -/
inductive CopyDst where
  | ls (tile off : Nat)
  | dm (pa : Nat)
  | seed (ext page off : Nat)
  | win (pb : Nat)
  deriving DecidableEq, Repr

/-- A mover's request that waits for a page read (R317): tile, mover, partition, extent and page, bytes, destination,
counter and its tile, and 1 + the source counter, or 0. -/
structure SeedRead where
  tile : Nat
  mover : Nat
  part : Nat
  ext : Nat
  page : Nat
  off : Nat
  len : Nat
  dst : CopyDst
  ac : Nat
  cntTile : Nat
  sac : Nat
  deriving DecidableEq, Repr

/-- A page write on its way (R319): writer (tile and mover), page, its bytes as far as they have come,
lines that came Poison, bytes still to come, counter and its tile. -/
structure SeedWrite where
  by_ : Nat × Nat
  part : Nat
  ext : Nat
  page : Nat
  data : List (Nat × List Byte)
  poison : List Nat
  left : Nat
  ac : Nat
  cntTile : Nat
  deriving DecidableEq, Repr

/-- A park or resume under way (R328, R329): session, partition, image offset of the data, pages, whether the header is
written or read, poison. -/
structure Moving where
  id : Nat
  part : Nat
  off : Nat
  pages : Nat
  header : List Byte
  park : Bool
  deriving DecidableEq, Repr

/-- The Seedbank. Bytes stand at extent · 2^48 + offset; `poison` by line (address / 128), `lost` by page (address /
16384); `loc` gives a page's TLC block plus 1 (0: in staging, or unwritten); `staged` the pages in staging, oldest
first; `open_` the block being filled on each channel; `counts` entry 0x5015; `aged` the equivalent age of each channel's package since it was made, in
2^-32 µs, grown up to the µs `agedUs` (R324). -/
structure Seed where
  status : Nat
  channels : FMap Nat
  deadDies : List Nat
  extents : FMap (Option Extent)
  mem : Memory
  poison : FMap Bool
  lost : FMap Bool
  loc : FMap Nat
  staged : List Nat
  blocks : FMap Block
  open_ : FMap Nat
  stripe : Nat
  reads : List SeedRead
  writes : List SeedWrite
  written : Nat
  programmed : Nat
  counts : FMap Nat
  lastPoison : List Byte
  result : Nat
  nextSlot : Nat
  moving : List Moving
  trainedAt : FMap Nat
  aged : FMap Nat
  agedUs : Nat
  deriving DecidableEq, Repr

/-- The Seedbank of a part that has never run: extent 0 alone, 4 GiB (R312, R330), status scanning. -/
def seedReset : Seed :=
  { status := 0, channels := [], deadDies := [], extents := [(0, some ⟨0xFF, 4, 0, 0⟩)], mem := [],
    poison := [], lost := [], loc := [], staged := [], blocks := [], open_ := [], stripe := 0, reads := [], writes := [],
    written := 0, programmed := 0, counts := [], lastPoison := [], result := 0,
    nextSlot := 0, moving := [], trainedAt := [], aged := [], agedUs := 0 }

/-! ### Graft (R336–R362) -/

/-- A bundle (R346–R349, R361): the fields of its record, failed checks of the present second by direction, and whether
a direction's clock has failed in service. -/
structure Bundle where
  role : Nat
  spares : Bool
  marginal : Bool
  unstable : Bool
  spareClk : Bool
  cause : Nat
  cross : Nat
  class_ : Nat
  repl0 : List Nat
  badsp0 : Nat
  marg0 : Nat
  repl1 : List Nat
  badsp1 : Nat
  marg1 : Nat
  err0 : Nat
  err1 : Nat
  sec0 : Nat
  sec1 : Nat
  dead0 : Bool
  dead1 : Bool
  deriving DecidableEq, Repr

def bundleReset : Bundle :=
  { role := 4, spares := false, marginal := false, unstable := false, spareClk := false, cause := 0, cross := 0xFF,
    class_ := 0, repl0 := [], badsp0 := 0, marg0 := 0, repl1 := [], badsp1 := 0, marg1 := 0, err0 := 0, err1 := 0,
    sec0 := 0, sec1 := 0, dead0 := false, dead1 := false }

/-- Graft: bundles (link · 64 + bundle), profiles in force, capability records, the test and field records as positions
(link, bundle, direction, position), the positions that failed at the last start, unusable dies, whether a start has
written bundle records, and the start of the present error second. -/
structure Graft where
  bundles : FMap Bundle
  profile : FMap Nat
  caps : FMap (List Byte)
  testRec : List (Nat × Nat × Nat × Nat)
  fieldRec : List (Nat × Nat × Nat × Nat)
  lastFail : List (Nat × Nat × Nat × Nat)
  unusable : BitVec 4
  tested : Bool
  second : Nat
  event : Bool
  deriving DecidableEq, Repr

def graftReset : Graft :=
  { bundles := [], profile := [], caps := [], testRec := [], fieldRec := [], lastFail := [], unusable := 0,
    tested := false, second := 0, event := false }

/-! ### Coppice (R364–R397) -/

/-- A port: role (0 off, 1 lockstep, 2 service, 3 mirror), state (R395), lanes up, F_MIN, SKEW with its valid bit,
CP_EVENT, the counts of 0x6040 and 0x6041, its partition, tables (positions 0–255), landing buffer, window queue, credits to
send into each pool of the far end (16 unlisted), credits to return, window cells held with their pool, one-way delay D,
alignment samples (D, Δ), the cycle of the first of 64 requests, positions without the job's tag, LINK_ID accepted, cells
discarded up to the next control block, the far end's REALIGN and DEPTH, declared F, blocks and cells sent, the cycle from
which the next cell goes out, media in force, the cycle from which the next position is released, frames repeated (mirror). -/
structure Port where
  role : Nat
  state : Nat
  lanes : BitVec 4
  fMin : Nat
  skew : Int
  skewValid : Bool
  event : BitVec 6
  counts : FMap Nat
  discards : FMap Nat
  part : Option Nat
  sendA : FMap (BitVec 16)
  sendS : FMap (BitVec 16)
  landA : FMap (BitVec 16)
  landS : FMap (BitVec 16)
  buf : List LockCell
  winQ : List LockCell
  credits : FMap Nat
  owed : FMap Nat
  held : List (Nat × LockCell)
  delay : Int
  measured : Bool
  samples : List (Int × Int)
  reqAt : Nat
  lost : Nat
  linked : Bool
  skip : Bool
  realign : Option Nat
  depth : Nat
  declF : Nat
  outBlocks : List (Nat × Nat)
  outCells : List LockCell
  media : Nat
  outFrames : List (List Byte)
  deriving DecidableEq, Repr

def portUnset : Port :=
  { role := 0, state := 0, lanes := 0, fMin := 0, skew := 0, skewValid := false, event := 0, counts := [], discards := [],
    part := none, sendA := [], sendS := [], landA := [], landS := [], buf := [], winQ := [], credits := [],
    owed := [], held := [], delay := 0, measured := false, samples := [], reqAt := 0, lost := 0, linked := false,
    skip := false, realign := none, depth := 0, declF := 0, outBlocks := [], outCells := [], media := 0,
    outFrames := [] }

/-- Time across the group (R378–R385): alignment, OFFSET, the slip in progress (Δ + k, and the cycle it ends in), whether a
slip has set OFFSET since the alignment began, whether the alignment is a realignment; holdover since (µs), own reference;
REALIGN, DEPTH, LAG, frequency changes named (epoch, point), the last epoch named, routes in force (empty: 0xFF everywhere),
window cells cut and waiting for a port (tile 2112: the firmware's), profile in force. -/
structure GroupTime where
  aligned : Bool
  offset : Nat
  slip : Option (Int × Nat)
  slipped : Bool
  redo : Bool
  holdover : Option Nat
  own : Bool
  realign : Nat
  depth : Nat
  lag : Int
  freq : List (Nat × Nat)
  freqSeen : List Nat
  routes : List Byte
  cut : List (Nat × Nat × LockCell)
  profile : Nat
  deriving DecidableEq, Repr

def gtReset : GroupTime :=
  { aligned := false, offset := 0, slip := none, slipped := false, redo := false, holdover := none, own := false, realign := 0, depth := 0, lag := 0,
    freq := [], freqSeen := [], routes := [], cut := [], profile := 0 }

/-! ### Partitions, sessions, service (R399–R435) -/

/-- A queue pair (R410, R411): its registers and the response messages that wait for ring space. -/
structure Qp where
  ctrl : BitVec 32
  sqLo : BitVec 32
  sqHi : BitVec 32
  rqLo : BitVec 32
  rqHi : BitVec 32
  tail : Nat
  head : Nat
  rqTail : Nat
  rqHead : Nat
  badEntry : Bool
  dmaErr : Bool
  held : List (List Byte)
  deriving DecidableEq, Repr

def qpReset : Qp :=
  { ctrl := 0, sqLo := 0, sqHi := 0, rqLo := 0, rqHi := 0, tail := 0, head := 0, rqTail := 0, rqHead := 0,
    badEntry := false, dmaErr := false, held := [] }

/-- A session's state (R417). -/
inductive SessState where
  | free
  | resident
  | active
  | parked
  | parking
  | resuming
  deriving DecidableEq, Repr

/-- A session record (R417), with its token log (R419); LAG_TOKENS is the log's length less TOKENS. -/
structure Session where
  st : SessState
  part : Nat
  pin : Bool
  modelTag : Nat
  tokens : Nat
  generation : Nat
  kvVa : Nat
  kvBytes : Nat
  slot : Nat
  fallback : Option Nat
  seed : Nat
  lastUse : Nat
  requestId : Nat
  imageOff : Nat
  log : List Nat
  deriving DecidableEq, Repr

def sessReset : Session :=
  { st := .free, part := 0xFF, pin := false, modelTag := 0, tokens := 0, generation := 0, kvVa := 0, kvBytes := 0,
    slot := 0xFFFFFFFF, fallback := none, seed := 0, lastUse := 0, requestId := 0, imageOff := 2 ^ 64 - 1, log := [] }

/-- A request (R414, R427): where and when it arrived, its session and fields; the input not yet given to a step (tokens or
bytes, the session's lag first), CONTINUE bodies received out of order, the next SEQ it takes and sends, the µs of its last
input; accepted, holding a slot, given to a step before, cancelled; the µs from which it waits for its model; tokens
generated, times of the first and last token, misses; rerouted with its primary partition and session; resumed; engine
time. -/
structure Req where
  stamp : Nat
  queue : Nat
  port : Nat
  src : List Byte
  sport : Nat
  linkLocal : Bool
  vlan : Nat
  session : Nat
  reqId : Nat
  firstUs : Nat
  tokenUs : Nat
  maxTokens : Nat
  mode : Nat
  flags : Nat
  model : Nat
  topK : Nat
  temp : Nat
  topP : Nat
  replayFrom : Nat
  seed : Nat
  stop : List Nat
  input : List Nat
  nextSeq : Nat
  early : List (Nat × List Byte)
  lastIn : Nat
  sendSeq : Nat
  accepted : Bool
  inFlight : Bool
  started : Bool
  cancel : Bool
  waitFrom : Nat
  generated : Nat
  firstAt : Option Nat
  lastAt : Nat
  misses : Nat
  home : Option (Nat × Nat)
  resumed : Bool
  engine : Nat
  deriving DecidableEq, Repr

/-- A slot of a step under way: the request (session, request ID), its kind, its input units, how far it moves the session's
position, whether it yields a token or result, its intake queue. -/
structure StepSlot where
  session : Nat
  reqId : Nat
  kind : Nat
  units : List Nat
  adv : Nat
  gives : Bool
  queue : Nat
  deriving DecidableEq, Repr

/-- A step whose output is awaited: its number, its start in µs, the partition's energy account then, its estimate in µJ, its
slots. -/
structure OpenStep where
  no : Nat
  startUs : Nat
  startE : Nat
  est : Nat
  slots : List StepSlot
  deriving DecidableEq, Repr

/-- A running job (R386, R464, R501): launch settings in force and its steps: number of the next record, steps whose
output is awaited; the phase that runs, the cycle in which the launch wipe is over, and
whether the first bundle has issued. -/
structure Job where
  lockstep : Bool
  tag : Nat
  t0 : Nat
  waitUs : Nat
  forwardUs : Nat
  watchdogMs : Nat
  stream : Option (Nat × Nat)
  trace : Option (Nat × Nat × Bool)
  traced : Bool
  step : Nat
  open_ : List OpenStep
  phase : Nat
  readyAt : Nat
  started : Bool
  deriving DecidableEq, Repr

/-- The fault record of a partition (R164, R165): the faults of the first cycle in rank order, faults not recorded, and
the cause of the kill. -/
structure FaultLog where
  faults : List FaultRec
  later : Nat
  cause : Nat
  deriving DecidableEq, Repr

def faultLogReset : FaultLog := ⟨[], 0, 0⟩

/-- A partition. `state` by 0x3002; the definition's fields (R400); dynamic fractions and 0x3060 in force; its image, job
and fault record; the model table entry that runs. Virtual times of the queues (in 1/65,536), accounts: engine time by queue
(17: the switch account), counts 1 to 5 of 0x3090, energy by queue (17 switch, 18 total). τ in 1/65,536 µs, ρ in 1/65,536;
energies in µJ. The µs and energy at which a model switch began, the next input offset, the queues ready at the last
boundary, resumes that other members have not confirmed with the µs that each was sent in, step outputs that the job has reported and the
firmware has not read, the balance at the last step boundary. -/
structure Part where
  state : Nat
  blocks : List Nat
  dmBase : Nat
  dmSize : Nat
  lockPorts : BitVec 8
  svcWeight : Nat
  share : Nat
  energyShare : Nat
  sessBase : Nat
  sessCount : Nat
  dynE : Nat
  dynD : Nat
  discPoison : Bool
  image : Option Image
  job : Option Job
  model : Option Nat
  faults : FaultLog
  kills : List Nat
  hold : Bool
  reqs : List Req
  qps : FMap Qp
  vtime : FMap Nat
  account : FMap Nat
  counts : FMap Nat
  energy : FMap Nat
  tauP : Nat
  tauD : Nat
  rho : Nat
  balance : Int
  drawn : Nat
  stepEnergy : List Nat
  switchFrom : Option (Nat × Nat)
  traceHalf : List Byte
  traceOff : Nat
  traceBytes : Nat
  inputOff : Nat
  readyQ : List Nat
  resumes : List (Nat × Nat × List Nat)
  outputs : Nat
  balanceAt : Int
  deriving DecidableEq, Repr

/-- A partition that does not exist. -/
def partReset : Part :=
  { state := 0, blocks := [], dmBase := 0, dmSize := 0, lockPorts := 0, svcWeight := 0, share := 0, energyShare := 0,
    sessBase := 0, sessCount := 0, dynE := 0, dynD := 0, discPoison := false, image := none, job := none, model := none,
    faults := faultLogReset, kills := [], hold := false, reqs := [], qps := [], vtime := [], account := [], counts := [],
    energy := [], tauP := 0, tauD := 0, rho := 65536, balance := 0, drawn := 0, stepEnergy := [],
    switchFrom := none, traceHalf := [], traceOff := 0, traceBytes := 0, inputOff := 0, readyQ := [], resumes := [], outputs := 0, balanceAt := 0 }

/-- A home timeout reported to the Husk firmware (R253). -/
structure HomeReport where
  slice : Nat
  line : Nat
  tiles : List Nat
  deriving DecidableEq, Repr

/-! ### Power (R436–R461) -/

/-- The governor. Gains in 1/65,536 by domain (0–19 stacks, 20 the rest; unlisted 1.00); energies in µJ; frozen domains and
epochs in a row with a ratio out of range; this epoch's sums, the ns it has lasted and the ns in which its last interval closed; the epochs in the window as (end in standby µs, length in µs, energy),
the µs of the module reset; the epoch clock counted last (0 device, 1 group); headroom, pool, the pool at the boundary; the
device's charge in this epoch and the one before, its account; the interval closed last, the epoch, its second half; the point
chosen next; epochs good in a row, the last one overrun, a sensor above 95 °C in this one; estimate, average (W); hottest sensor
(°C), THERMAL, GROUP, PWR_EVENT; the ideal periods left of a stretch event; stretch events, fast-limit events,
overrun epochs; ns in a row above P_CEIL; wanted points; sensors in m°C (0–3 Hazel, 4 Husk, 5 regulators, 8 + c NAND); last
epoch's measured input and stacks and its estimate in mW; trips and throttles in force; coolant, supplies; seconds with the inlet
out of range, 1 + the last of them; C, W and P_CEIL in force. -/
structure Gov where
  gains : FMap Nat
  frozen : FMap Bool
  badRun : FMap Nat
  raw : FMap Nat
  meas : FMap Nat
  epochE : Nat
  epochNs : Nat
  markNs : Nat
  hist : List (Nat × Nat × Nat)
  from_ : Nat
  clock : Nat
  headroom : Nat
  pool : Nat
  poolInit : Nat
  devCharge : Nat
  devLast : Nat
  devAccount : Nat
  interval : Nat
  epoch : Nat
  halfDone : Bool
  next : Nat
  goodRun : Nat
  overrunLast : Bool
  hot : Bool
  est : Nat
  avg : Nat
  hottest : Nat
  thermal : Bool
  group : Bool
  event : BitVec 5
  stretchLeft : Nat
  stretches : Nat
  fastEvents : Nat
  overruns : Nat
  overNs : Nat
  wanted : FMap (Option Nat)
  sensors : FMap Int
  measIn : Nat
  measStk : FMap Nat
  lastEst : Nat
  clockStopped : Bool
  huskTrip : Bool
  regTrip : Bool
  nandThrottle : BitVec 32
  nandStop : BitVec 32
  huskThrottle : Bool
  regThrottle : Bool
  coolIn : Int
  coolOut : Int
  mainMv : Nat
  stbyMv : Nat
  inletSecs : Nat
  inletUs : Nat
  capNow : Nat
  winNow : Nat
  ceilNow : Nat
  deriving DecidableEq, Repr

def govReset : Gov :=
  { gains := [], frozen := [], badRun := [], raw := [], meas := [], epochE := 0, epochNs := 0, markNs := 0, hist := [], from_ := 0, clock := 0,
    headroom := 0, pool := 0, poolInit := 0, devCharge := 0, devLast := 0, devAccount := 0, interval := 0, epoch := 0,
    halfDone := false, next := 7, goodRun := 0, overrunLast := false, hot := false, est := 0, avg := 6000, hottest := 0,
    thermal := false, group := false, event := 0, stretchLeft := 0, stretches := 0, fastEvents := 0, overruns := 0,
    overNs := 0, wanted := [], sensors := [], measIn := 0, measStk := [], lastEst := 0, clockStopped := false,
    huskTrip := false, regTrip := false, nandThrottle := 0, nandStop := 0, huskThrottle := false, regThrottle := false,
    coolIn := 0, coolOut := 0, mainMv := 0, stbyMv := 0, inletSecs := 0, inletUs := 0, capNow := 6000, winNow := 5,
    ceilNow := 6600 }

/-! ### Recovery (R464–R484) -/

/-- A hang snapshot under way (R475–R478): domain, cause, partitions, first SNAP_REQ (cycle, standby µs), tiles asked,
words received from each, the reset that follows. -/
structure Snap where
  domain : Nat
  cause : Nat
  parts : Nat
  cycle : Nat
  us : Nat
  tiles : List Nat
  got : FMap (List (BitVec 32))
  stoppedClock : Bool
  deriving DecidableEq, Repr

/-- Recovery: 0x9001's resetting flag, Withdrawn, the history (16-byte entries, newest first), counted resets (µs),
the snapshot, samples since manufacture, what follows the snapshot (domain, cause, partition), a reset asked for and not
yet begun (domain, cause), resets seen, the µs in which the present one began. -/
structure Rcv where
  resetting : Bool
  withdrawn : Bool
  history : List (List Byte)
  times : List Nat
  snap : Option Snap
  samples : Nat
  after : Option (Nat × Nat × Option Nat)
  asked : Option (Nat × Nat)
  starts : Nat
  began : Nat
  deriving DecidableEq, Repr

def rcvReset : Rcv :=
  { resetting := false, withdrawn := false, history := [], times := [], snap := none, samples := 0, after := none, asked := none,
    starts := 0, began := 0 }

/-! ### Control plane (R505–R528) -/

/-- A requester's record (R510, R514–R516): last SEQ accepted (0xFFFFFFFF before the first request, which carries SEQ 0), stored response, segment snapshot with the time of its last
READ_SEG, selections, and for UDP sessions role, source, nonce, authentication. -/
structure Client where
  open_ : Bool
  seq : Nat
  resp : List Byte
  snap : Option (Nat × List Byte)
  snapAt : Nat
  selExtent : Nat
  selSession : FMap (Option Nat)
  vendor : Bool
  authed : Bool
  nonce : List Byte
  src : List Byte
  lastUs : Nat
  deriving DecidableEq, Repr

def clientReset : Client :=
  { open_ := false, seq := 0xFFFFFFFF, resp := [], snap := none, snapAt := 0, selExtent := 0, selSession := [], vendor := false,
    authed := false, nonce := [], src := [], lastUs := 0 }

/-- A mailbox (R517). -/
structure Mbx where
  overrun : Bool
  done : Bool
  busy : Bool
  buf : Memory
  deriving DecidableEq, Repr

def mbxReset : Mbx := ⟨false, false, false, []⟩

/-- The control plane: stored values by index · 256 + subindex (none: the default), requesters (0 I3C, 1 PF mailbox,
2 + n VF mailbox of Pn, 64 + k UDP session k), mailboxes (0 PF, 1 + n VF n), words of the MSI-X tables, vectors pending (32 · function + vector),
the result of the last partition command, I3C address and endpoint ID, what was written to 0x1031 less the standby time then. -/
structure Ctl where
  vals : FMap (Option (List Byte))
  clients : FMap Client
  mbx : FMap Mbx
  msix : FMap Nat
  pend : FMap Bool
  cmdResult : Nat
  i3cAddr : BitVec 7
  eid : BitVec 8
  clock : Nat
  deriving DecidableEq, Repr

def ctlReset : Ctl :=
  { vals := [], clients := [], mbx := [], msix := [], pend := [], cmdResult := 0, i3cAddr := 0, eid := 0,
    clock := 0 }

/-- The device block (R526, R527): with whether a commit waits for a sweep, whether the sweep under way is the reference,
whether a sealed field was written during it, whether a reference waits for the next sweep's start. -/
structure Dev where
  event : BitVec 5
  enable : Bool
  mismatch : Bool
  stale : Bool
  armed : Bool
  ref : BitVec 32
  last : BitVec 32
  sweeps : Nat
  commit : Bool
  refSweep : Bool
  refWait : Bool
  touched : Bool
  deriving DecidableEq, Repr

def devReset : Dev :=
  { event := 0, enable := false, mismatch := false, stale := true, armed := false, ref := 0, last := 0, sweeps := 0,
    commit := false, refSweep := false, refWait := false, touched := false }

/-! ### Boot, life cycle, connections (R531–R569) -/

/-- Boot and life cycle: the two firmware slots, the active one, what runs (none, the loader, a slot), the fused minimum,
the last update command's result and whether it makes the inactive slot active at the next module reset, ready bits, main
admitted, the µs at which bit 0 rose, life-cycle state and result, the transition record, the seed's number, the µs at which the device last
became ready. -/
structure Boot where
  slotA : Memory
  slotB : Memory
  active : Bool
  running : Option (Option Bool)
  fusedMin : Nat
  fwResult : Nat
  activate : Bool
  ready : BitVec 32
  admitted : Bool
  upUs : Nat
  life : Nat
  lifeResult : Nat
  record : Option (Nat × Nat)
  seed : Nat
  onUs : Nat
  readyUs : Nat
  deriving DecidableEq, Repr

def bootReset : Boot :=
  { slotA := [], slotB := [], active := false, running := none, fusedMin := 0, fwResult := 0, activate := false,
    ready := 0, admitted := false, upUs := 0, life := 0, lifeResult := 0, record := none, seed := 0, onUs := 0, readyUs := 0 }

/-- The pins and the TAP: levels, REFCLK present and the time of its loss, losses counted, dies held waiting for it, TAP
instruction, whether it has taken the pins, vendor instructions enabled, the
boundary cells that control pins (R567), and, of the model itself, what the outside drives and shifts in at the scans to come, first in, first out. -/
structure Pins where
  perst : Bool
  standby : Bool
  refclk : Bool
  refLost : Option Nat
  refLosses : Nat
  refHold : Bool
  tap : BitVec 8
  taken : Bool
  vendorTap : Bool
  cells : PinCells
  scans : List (PinLevels × PinCells)
  deriving DecidableEq, Repr

/-- Standby up, PERST_N low (its pull-down, R551), REFCLK running; TAP on IDCODE. -/
def pinsReset : Pins :=
  { perst := false, standby := true, refclk := true, refLost := none, refLosses := 0, refHold := false,
    tap := 1, taken := false, vendorTap := false, cells := ⟨true, true, 0⟩, scans := [] }

/-- What the module has given to the outside: a datagram (port, destination address and UDP port, VLAN, payload), a write
to host memory, an MSI-X vector of a function (0 PF, 1 + n VF n), a dictionary response (requester code), a response to
an MCTP control message, a session command for the Husk firmware of another member, an ICMPv6 message, a value read from a
register, what boundary scan captured: PERST_N, MOD_RESET_N, ALERT_N, SCL, SDA, REFCLK running, the receive pairs. -/
inductive Output where
  | datagram (port : Nat) (dst : List Byte) (sport vlan : Nat) (linkLocal : Bool) (payload : List Byte)
  | hostWrite (fn : Nat) (addr : Nat) (data : List Byte)
  | msix (fn vector : Nat)
  | response (client : Nat) (frame : List Byte)
  | mctp (data : List Byte)
  | member (dst part : Nat) (cmd : SessCmd)
  | icmp (port : Nat) (dst payload : List Byte)
  | regValue (v : BitVec 32)
  | captured (perst modReset alert scl sda refclk : Bool) (rx : BitVec 48)
  deriving DecidableEq, Repr

/-! ### The state, faults, refusals -/

/-- The model has no fault: a command the module cannot carry out leaves it as the manual says, and every stop of a job is
a state of its tiles. The one constructor names an access outside the addressed stores; no meaning answers it. Safe. -/
inductive Fault where
  /-- An access outside every addressed store; raised by no command. Safe. -/
  | outside
  deriving DecidableEq, Repr

/-- Refusals. -/
inductive Refusal where
  /-- A command that has no meaning yet, by its mnemonic; raised by the arm of `exec` alone. Safe. -/
  | notModelled (mnemonic : String)
  deriving DecidableEq, Repr

/-- The module. `fresh` numbers the free values drawn; `cycle` is the device cycle counter, `us` and `fs` the standby time
in µs and the femtoseconds beyond; `point` the operating point in force; `tile0`, `slice0` what an unlisted tile or slice
is. -/
structure State where
  pending : List Instr
  fresh : Nat
  cycle : Nat
  us : Nat
  fs : Nat
  point : Nat
  tile0 : Tile
  tiles : FMap Tile
  slice0 : Slice
  slices : FMap Slice
  rings : FMap (List RingJob)
  net : List NetMsg
  wires : List Wire
  esp : Esp
  xl : FMap Xl
  stk : FMap Stack
  dm : Dm
  seed : Seed
  graft : Graft
  coppice : FMap Port
  gt : GroupTime
  parts : FMap Part
  sessions : FMap Session
  homeReports : List HomeReport
  pcount : FMap (FMap Nat)
  devCount : FMap Nat
  sliceLists : FMap (List Nat)
  gov : Gov
  rcv : Rcv
  ctl : Ctl
  dev : Dev
  boot : Boot
  pins : Pins
  out : List Output
  deriving DecidableEq, Repr

/-- The module right after standby power has come up, before its boot ROM has run. -/
def State.reset : State :=
  { pending := [], fresh := 0, cycle := 0, us := 0, fs := 0, point := 7, tile0 := tileReset, tiles := [],
    slice0 := sliceReset, slices := [], rings := [], net := [], wires := [], esp := espReset, xl := [], stk := [],
    dm := dmReset, seed := seedReset, graft := graftReset, coppice := [], gt := gtReset, parts := [], sessions := [],
    homeReports := [], pcount := [], devCount := [], sliceLists := [], gov := govReset, rcv := rcvReset, ctl := ctlReset,
    dev := devReset, boot := bootReset, pins := pinsReset, out := [] }

end Sys2Proof.Machine
end

