-- ==== Sys2Proof/Machine/Flags.lean ====
section
/-!
DEFINITION. Flag computations: MATRIX_FLAGS (R53, R66, R72, R78), the window advice (R71) and the sticky counters'
saturation (R486).
-/

namespace Sys2Proof.Machine

/-- What an operation sets in a bank's three flags. -/
structure FlagSet where
  invalid : Bool
  dropped : Bool
  overflow : Bool
  deriving DecidableEq, Repr

def noFlags : FlagSet := ⟨false, false, false⟩

/-- The three flag bits of a bank in the order of R53: INVALID, DROPPED, OVERFLOW from bit 2 down. -/
def flagBits (f : FlagSet) : Nat := 4 * bnat f.invalid + 2 * bnat f.dropped + bnat f.overflow

/-- MATRIX_FLAGS with a bank's flags set where `f` sets them (R78). -/
def orFlags (mf : BitVec 12) (bank : Nat) (f : FlagSet) : BitVec 12 := mf ||| BitVec.ofNat 12 (flagBits f <<< (3 * bank))

/-- A bank's three bits of MATRIX_FLAGS. -/
def bankFlags (mf : BitVec 12) (bank : Nat) : Nat := field mf.toNat (3 * bank + 2) (3 * bank)

/-- A write of 1 clears (W1C). -/
def w1c {n : Nat} (old w : BitVec n) : BitVec n := old &&& ~~~w

/-- The window advice with one more exponent (R66 step 3, R71). -/
def maxAdvice (e : Option Int) (x : Int) : Option Int :=
  match e with
  | none => some x
  | some y => some (max y x)

/-- E_MAX as the 16-bit value that READOUT and STATE_COPY deliver; empty reads −512 (R71, R104). -/
def adviceBytes (e : Option Int) : List Byte := natLe 2 (ofSigned 16 (e.getD (-512)))

/-- A 48-bit counter holds 2^48 − 1 (R486, R216). -/
def top48 : Nat := 2 ^ 48 - 1

end Sys2Proof.Machine
end

