-- ==== Sys2Proof/Machine/Accum.lean ====
section
/-!
DEFINITION. The exact-window accumulator (R65–R78, R95, R96): terms, completion of a matrix operation, readout, raw
export and import, and the clear.
-/

namespace Sys2Proof.Machine

/-- An accumulator, the bank's advice and the flags as terms arrive. -/
structure AccSt where
  acc : Acc
  eMax : Option Int
  fl : FlagSet
  deriving DecidableEq, Repr

/-- A signed integer added modulo 2^136 (R66 step 6). -/
def accAdd (a : Acc) (q : Int) : Acc := { a with a := a.a + BitVec.ofInt 136 q }

/-- One product of two factors enters an accumulator of a bank with window `w` (R66). -/
def addProduct (w : Int) (st : AccSt) (x y : FVal) : AccSt :=
  match x, y with
  | .fin nx mx ex, .fin ny my ey =>
    let m := mx * my
    if m = 0 then st
    else
      let e : Int := ex + ey - (w - 96)
      let q := roundInt m e
      let exact := decide (0 ≤ e) || m % 2 ^ (-e).toNat == 0
      let neg := nx != ny
      let fl : FlagSet := { st.fl with dropped := st.fl.dropped || !exact }
      let eMax := maxAdvice st.eMax (ilog2Scaled m (ex + ey))
      if 2 ^ 127 ≤ q then
        { acc := if neg then { st.acc with neg := true } else { st.acc with pos := true }, eMax := eMax, fl := fl }
      else { acc := accAdd st.acc (if neg then -(q : Int) else q), eMax := eMax, fl := fl }
  | _, _ => { st with acc := { st.acc with inv := true }, fl := { st.fl with invalid := true } }

/-- The depth of an operand pair (R63). -/
def pairDepth (fa fb : Nat) : Nat := min (matDepth fa) (matDepth fb)

/-- Bytes of one step of an operand: 2 · d · b (R96). -/
def stepBytes (d f : Nat) : Nat := 2 * d * matWidth f

/-- Bytes of the 16 scales of one block (R96). -/
def scaleBytes (f : Nat) : Nat := if f = 5 then 32 else 16

/-- Element `line` (row of A, column of B), reduction index `s`, of an operand whose steps' bytes are `big` (R96). -/
def operandElem (f d : Nat) (scaled : Bool) (big scales line s : Nat) : FVal :=
  let b := matWidth f
  let raw := (big >>> (((s / d) * 16 * d + line * d + s % d) * b)) % 2 ^ b
  let sw := if f = 5 then 16 else 8
  scaledElem f raw (if scaled then some ((scales >>> (((s / 32) * 16 + line) * sw)) % 2 ^ sw) else none)

/-- The bank after all terms of a matrix operation are added, with the flags set (R95). Operand and scale bytes are
given as little-endian numbers. -/
def mmaComplete (b : Bank) (fa fb : Nat) (sa sb : Bool) (k bigA bigB scA scB : Nat) : Bank × FlagSet :=
  let d := pairDepth fa fb
  (List.range 256).foldl (fun (p : Bank × FlagSet) c =>
    let st0 : AccSt := ⟨fmGet accZero p.1.cells c, p.1.eMax, p.2⟩
    let st := (List.range (d * k)).foldl (fun st s =>
      addProduct b.w st (operandElem fa d sa bigA scA (c / 16) s) (operandElem fb d sb bigB scB (c % 16) s)) st0
    ({ p.1 with eMax := st.eMax, cells := fmSet accZero p.1.cells c st.acc }, st.fl)) (b, noFlags)

/-- A cleared bank with a new W (R74). -/
def bankClear (w : Int) : Bank := { w := w, eMax := none, cells := [] }

/-- The largest and smallest codes of raw export: ±(2^127 − 1), and the invalid code −2^127 (R75). -/
def rawTop : Int := 2 ^ 127 - 1
def rawInvalid : Int := -(2 ^ 127)

/-- Raw export of one accumulator, and whether it overflows (R72, R75). -/
def rawExport (c : Acc) : Int × Bool :=
  if c.inv then (rawInvalid, false)
  else if c.pos && c.neg then (rawInvalid, true)
  else if c.pos then (rawTop, true)
  else if c.neg then (-rawTop, true)
  else
    let x := c.a.toInt
    if rawTop ≤ x then (rawTop, true) else if x ≤ -rawTop then (-rawTop, true) else (x, false)

/-- FP32 or BF16 readout of one accumulator, and whether it overflows (R72, R73). -/
def floatReadout (f : FloatFmt) (w : Int) (c : Acc) : Nat × Bool :=
  if c.inv then (canonNan f, false)
  else if c.pos && c.neg then (canonNan f, true)
  else if c.pos then (maxCode f, true)
  else if c.neg then (signBit f true + maxCode f, true)
  else
    let x := c.a.toInt
    let code := roundCode f x.natAbs (w - 96)
    if maxCode f < code then (signBit f (decide (x < 0)) + maxCode f, true)
    else (signBit f (decide (x < 0)) + code, false)

/-- Value beats of a readout mode: 0 FP32, 1 BF16, 2 raw (R103). -/
def readBeats (mode : Nat) : Nat := if mode = 0 then 16 else if mode = 1 then 8 else 64

/-- The bytes of one accumulator in a readout mode, and whether it overflows. -/
def readoutCell (mode : Nat) (w : Int) (c : Acc) : List Byte × Bool :=
  if mode = 2 then let r := rawExport c; (natLe 16 (ofSigned 128 r.1), r.2)
  else if mode = 1 then let r := floatReadout fmtBF16 w c; (natLe 2 r.1, r.2)
  else let r := floatReadout fmtFP32 w c; (natLe 4 r.1, r.2)

/-- The value bytes of a whole bank in cell order, and whether any cell overflows (R75, R104). -/
def readoutBank (mode : Nat) (b : Bank) : List Byte × Bool :=
  (List.range 256).foldr (fun c acc =>
    let r := readoutCell mode b.w (fmGet accZero b.cells c)
    (r.1 ++ acc.1, r.2 || acc.2)) ([], false)

/-- One raw term enters an accumulator (R76). -/
def addRaw (w : Int) (st : AccSt) (t : Int) : AccSt :=
  if t = rawInvalid then { st with acc := { st.acc with inv := true }, fl := { st.fl with invalid := true } }
  else if t = rawTop then { st with acc := { st.acc with pos := true } }
  else if t = -rawTop then { st with acc := { st.acc with neg := true } }
  else if t = 0 then st
  else { st with acc := accAdd st.acc t, eMax := maxAdvice st.eMax (ilog2Scaled t.natAbs (w - 96)) }

/-- A raw import of 256 terms of 16 bytes (R76). -/
def importBank (b : Bank) (bytes : List Byte) : Bank × FlagSet :=
  let big := leNat bytes
  (List.range 256).foldl (fun (p : Bank × FlagSet) c =>
    let st := addRaw b.w ⟨fmGet accZero p.1.cells c, p.1.eMax, p.2⟩ (toSigned 128 (big >>> (128 * c)))
    ({ p.1 with eMax := st.eMax, cells := fmSet accZero p.1.cells c st.acc }, st.fl)) (b, noFlags)

end Sys2Proof.Machine
end

