-- ==== Sys2Proof/Machine/Sheller.lean ====
section
/-!
DEFINITION. The Sheller block code (R82–R86): header, canonical prefix code, and decoding of one block, which answers
none where the block is malformed.
-/

namespace Sys2Proof.Machine

/-- A block header (R82). -/
structure ShellHdr where
  compLen : Nat
  beats : Nat
  mode : Nat
  table : Nat
  reserved : Nat
  crc : Nat
  deriving DecidableEq, Repr

def shellHdr (w : Nat) : ShellHdr :=
  { compLen := field w 63 52, beats := field w 51 46, mode := field w 45 44, table := field w 43 40,
    reserved := field w 39 32, crc := field w 31 0 }

/-- The header conditions of R82 and R83. -/
def shellHdrOk (h : ShellHdr) : Bool :=
  8 ≤ h.compLen && h.compLen ≤ 2056 && 1 ≤ h.beats && h.beats ≤ 32 && h.mode ≤ 2 && h.reserved = 0 &&
  (h.mode = 1 || h.table = 0) &&
  (if h.mode = 0 then h.compLen = 8 + 64 * h.beats
   else if h.mode = 1 then 9 ≤ h.compLen && h.compLen ≤ 8 + 64 * h.beats else h.compLen = 8)

/-- The code length of a symbol in a 128-byte table (R84). -/
def codeLen (table : List Byte) (v : Nat) : Nat :=
  let b := (table.getD (v / 2) 0).toNat
  if v % 2 = 0 then b % 16 else b / 16

/-- The symbols of a code length in ascending order. -/
def symsOfLen (table : List Byte) (n : Nat) : List Nat := (List.range 256).filter (fun v => codeLen table v = n)

/-- The symbols by code length 1 to 15, shorter first: the canonical order of R84. -/
def codeRows (table : List Byte) : List (List Nat) := (List.range 15).map (fun i => symsOfLen table (i + 1))

/-- The Kraft sum of a table times 2^15 (R84). -/
def kraft (table : List Byte) : Nat :=
  (List.range 256).foldl (fun acc v => let n := codeLen table v; if n = 0 then acc else acc + 2 ^ (15 - n)) 0

/-- A table whose every length is 0 is absent (R84). -/
def tableAbsent (table : List Byte) : Bool := (List.range 256).all (fun v => codeLen table v = 0)

/-- One symbol from the bit stream, with the bits left: `code` and `first` are the code read so far and the first code
of the present length; rows are the symbols of the lengths still to come. -/
def nextSym : List (List Nat) → Nat → Nat → List Bool → Option (Nat × List Bool)
  | [], _, _, _ => none
  | _ :: _, _, _, [] => none
  | row :: rows, code, first, b :: bits =>
    let code := 2 * code + bnat b
    let first := 2 * first
    if first ≤ code ∧ code - first < row.length then (row[code - first]?).map (fun v => (v, bits))
    else nextSym rows code (first + row.length) bits

/-- `n` symbols from the bit stream; the remaining bits must be zero (R83, R85). -/
def decodeSyms (rows : List (List Nat)) : Nat → List Bool → Option (List Byte)
  | 0, bits => if bits.all (! ·) then some [] else none
  | n + 1, bits =>
    match nextSym rows 0 0 bits with
    | none => none
    | some (v, rest) => (decodeSyms rows n rest).map (BitVec.ofNat 8 v :: ·)

/-- The bits of bytes, bit 0 of each byte first (R83). -/
def bitsOf (bs : List Byte) : List Bool := bs.flatMap (fun b => (List.range 8).map b.getLsbD)

/-- A block of `compLen` bytes decoded with the tile's tables; none where it is malformed (R83, R85). -/
def shellDecode (tables : FMap (List Byte)) (block : List Byte) : Option (List Byte) :=
  let h := shellHdr (leAt block 0 8)
  if !shellHdrOk h || block.length < h.compLen then none
  else
    let payload := (block.take h.compLen).drop 8
    let out : Option (List Byte) :=
      if h.mode = 0 then some payload
      else if h.mode = 2 then some (zeros (64 * h.beats))
      else
        let table := fmGet [] tables h.table
        if tableAbsent table then none else decodeSyms (codeRows table) (64 * h.beats) (bitsOf payload)
    match out with
    | none => none
    | some bs => if crc32c bs = h.crc then some bs else none

/-- The symbols that a bit stream spells as far as it goes, at most `n`. -/
def prefixSyms (rows : List (List Nat)) : Nat → List Bool → List Byte
  | 0, _ => []
  | n + 1, bits =>
    match nextSym rows 0 0 bits with
    | none => []
    | some (v, rest) => BitVec.ofNat 8 v :: prefixSyms rows n rest

/-- The whole 64-byte beats that the first bytes of a block give, before the rest of it has been read (R86). -/
def shellPrefix (tables : FMap (List Byte)) (got : List Byte) : List Byte :=
  let h := shellHdr (leAt got 0 8)
  let payload := (got.take h.compLen).drop 8
  let out : List Byte :=
    if h.mode = 0 then payload
    else if h.mode = 2 then zeros (64 * h.beats)
    else prefixSyms (codeRows (fmGet [] tables h.table)) (64 * h.beats) (bitsOf payload)
  out.take (out.length / 64 * 64)

/-- Cycles in which a block's input is read (R86). -/
def shellIn (h : ShellHdr) : Nat := ceilDiv h.compLen 64

/-- Cycles a block occupies the Sheller (R86). -/
def shellSpan (h : ShellHdr) : Nat := max (shellIn h) h.beats

end Sys2Proof.Machine
end

