-- ==== Sys2Proof/Machine/Ops.lean ====
section
/-!
DEFINITION. The named operations over tiles, their stores, counters and queues, and over the state's sparse tables
(R23–R31, R53, R88, R110–R113, R163–R165, R214–R216, R486–R491).
-/

namespace Sys2Proof.Machine

/-! ### The state's tables -/

/-- The tile with number `t`. -/
def tileAt (s : State) (t : Nat) : Tile := fmGet s.tile0 s.tiles t

/-- The state with tile `t` replaced. -/
def setTile (s : State) (t : Nat) (x : Tile) : State := { s with tiles := fmSet s.tile0 s.tiles t x }

/-- The state with tile `t` changed. -/
def updTile (s : State) (t : Nat) (f : Tile → Tile) : State := setTile s t (f (tileAt s t))

/-- A sparse map with every value, listed or not, changed by `f`. -/
def fmMap {α : Type} [DecidableEq α] (d : α) (f : α → α) (m : FMap α) : FMap α :=
  (m.map (fun p => (p.1, f p.2))).filter (fun p => decide (p.2 ≠ f d))

/-- Every tile changed alike. -/
def mapTiles (s : State) (f : Tile → Tile) : State := { s with tile0 := f s.tile0, tiles := fmMap s.tile0 f s.tiles }

/-- Every tile of a list changed alike. -/
def updTiles (s : State) (ts : List Nat) (f : Tile → Tile) : State := ts.foldl (fun s t => updTile s t f) s

/-- The home slice with number `h`. -/
def sliceAt (s : State) (h : Nat) : Slice := fmGet s.slice0 s.slices h

/-- The state with a slice changed. -/
def updSlice (s : State) (h : Nat) (f : Slice → Slice) : State :=
  { s with slices := fmSet s.slice0 s.slices h (f (sliceAt s h)) }

/-- A stack. -/
def stackAt (s : State) (k : Nat) : Stack := fmGet stackReset s.stk k

/-- The state with a stack changed. -/
def updStack (s : State) (k : Nat) (f : Stack → Stack) : State :=
  { s with stk := fmUpd stackReset s.stk k f }

/-- A bundle of a Graft link. -/
def bundleAt (s : State) (l b : Nat) : Bundle := fmGet bundleReset s.graft.bundles (64 * l + b)

def updBundle (s : State) (l b : Nat) (f : Bundle → Bundle) : State :=
  { s with graft := { s.graft with bundles := fmUpd bundleReset s.graft.bundles (64 * l + b) f } }

/-- A partition's translation block. -/
def xlAt (s : State) (p : Nat) : Xl := fmGet xlReset s.xl p

/-- The state with a translation block changed. -/
def updXl (s : State) (p : Nat) (f : Xl → Xl) : State := { s with xl := fmUpd xlReset s.xl p f }

/-- Number of tiles, rows and columns (R4). -/
def nTiles : Nat := 2112
def nCols : Nat := 44
def nRows : Nat := 48

/-- Row, column and die of a tile (R4): H0 upper left, H1 upper right, H2 lower left, H3 lower right. -/
def rowOf (t : Nat) : Nat := t / nCols
def colOf (t : Nat) : Nat := t % nCols
def dieOf (t : Nat) : Nat := (if rowOf t < 24 then 0 else 2) + (if colOf t < 22 then 0 else 1)

/-- The block of a tile, and the tiles of a block (R15). -/
def blockOf (t : Nat) : Nat := rowOf t / 4 * 11 + colOf t / 4
def blockTiles (b : Nat) : List Nat :=
  (List.range 16).map (fun i => (4 * (b / 11) + i / 4) * nCols + 4 * (b % 11) + i % 4)

/-- The tile belongs to partition `p` (R53). -/
def inPart (s : State) (p t : Nat) : Bool :=
  let r := (tileAt s t).regs
  t < nTiles && r.partValid && r.part.toNat == p

/-- The tiles of a partition, ascending. -/
def partTiles (s : State) (p : Nat) : List Nat := (List.range nTiles).filter (inPart s p)

/-- A tile's partition. -/
def partOf (s : State) (t : Nat) : Nat := (tileAt s t).regs.part.toNat

/-! ### Sequencer registers (R88) -/

/-- An address register; a0 reads 0. -/
def getA (q : Seq) (i : Nat) : Nat := if i = 0 then 0 else fmGet 0 q.a i

/-- A write to an address register, modulo 2^48; writes to a0 are ignored. -/
def setA (q : Seq) (i v : Nat) : Seq := if i = 0 then q else { q with a := fmSet 0 q.a i (v % 2 ^ 48) }

/-- A loop counter. -/
def getL (q : Seq) (i : Nat) : Nat := fmGet 0 q.l i

/-- A write to a loop counter, 24 bits. -/
def setL (q : Seq) (i v : Nat) : Seq := { q with l := fmSet 0 q.l i (v % 2 ^ 24) }

/-! ### Counters (R486–R491) -/

/-- A fixed counter grows by `n`; FC0 to FC7 stop with the tile's counters (R488). -/
def fcAdd (i n : Nat) (t : Tile) : Tile :=
  if t.cnt.stopped || n = 0 then t
  else { t with cnt := { t.cnt with fc := fmUpd 0 t.cnt.fc i (fun v => satAdd top48 v n) } }

/-- An event of the present cycle, `n` times (R487, R490). -/
def countEv (code n : Nat) (t : Tile) : Tile :=
  if t.cnt.stopped || n = 0 then t
  else { t with cnt := { t.cnt with tick := fmUpd 0 t.cnt.tick code (· + n) } }

/-- Live banks with the events of the present cycle in them: each counts the event that its selection in use names. -/
def liveBanks (x : Counters) : FMap Nat :=
  x.selUse.foldl (fun m p => fmUpd 0 m p.1 (fun v => satAdd top48 v (fmGet 0 x.tick p.2))) x.live

/-- A cycle is over: its events are in the live banks. -/
def closeTick (t : Tile) : Tile :=
  if t.cnt.tick.isEmpty then t else { t with cnt := { t.cnt with live := liveBanks t.cnt, tick := [] } }

/-- A trace entry recorded (R500): a full buffer drops it; the next that finds space is preceded by a LOST entry. -/
def traceAdd (c typ engine arg : Nat) (t : Tile) : Tile :=
  if !t.cnt.traced then t
  else
    let entry (typ engine arg : Nat) : List Byte :=
      natLe 6 c ++ natLe 1 typ ++ natLe 1 engine ++ natLe 2 t.seq.layer ++ natLe 2 t.seq.opid ++ natLe 4 arg
    let n := t.cnt.trace.length
    if 64 ≤ n then { t with cnt := { t.cnt with dropped := satAdd (2 ^ 32 - 1) t.cnt.dropped 1 } }
    else if t.cnt.dropped = 0 then { t with cnt := { t.cnt with trace := t.cnt.trace ++ [entry typ engine arg] } }
    else if n = 63 then
      { t with cnt := { t.cnt with trace := t.cnt.trace ++ [entry 0x0A engine t.cnt.dropped], dropped := 1 } }
    else
      let two := [entry 0x0A engine t.cnt.dropped, entry typ engine arg]
      { t with cnt := { t.cnt with trace := t.cnt.trace ++ two, dropped := 0 } }

/-- A completed counter as a tenant may see it: 0 where it counted an event of other tenants' traffic (R496). -/
def openVal (b : CntBank) (i : Nat) : Nat := if 0x80 ≤ fmGet 0 b.codes i then 0 else fmGet 0 b.vals i

/-- The stream record of the completed bank, at a swap in cycle `c` (R497): within 320 cycles of the last one none is written, which an
empty entry says. -/
def streamRecord (c : Nat) (t : Tile) : Tile :=
  let x := t.cnt
  if !x.stream then t
  else if x.recNo ≠ 0 && c < x.lastStream + 320 then { t with cnt := { x with skipped := x.skipped + 1, recs := x.recs ++ [[]] } }
  else
    let vals := (List.range 16).flatMap (fun i => natLe 6 (openVal x.done i))
    let body := natLe 4 x.done.seq ++ natLe 8 c ++ natLe 2 x.done.layer ++ natLe 2 x.done.opid ++ natLe 4 x.skipped
    { t with cnt := { x with lastStream := c, recNo := x.recNo + 1, skipped := 0,
                             recs := x.recs ++ [body ++ zeros 8 ++ vals] } }

/-- The banks swap in cycle `c`: the live bank becomes the completed bank with the ending command's tag, the next
sequence number opens, and written selections come into use (R487, R490). Events of cycle `c` count in the new bank. -/
def swapBanks (c layer opid : Nat) (t : Tile) : Tile :=
  if t.cnt.stopped then t
  else
    let cnt := { t.cnt with done := ⟨t.cnt.live, t.cnt.selUse, t.seq.layer, t.seq.opid, t.cnt.seq⟩, live := [],
                            seq := (t.cnt.seq + 1) % 2 ^ 32, selUse := t.cnt.sel }
    streamRecord c { t with cnt := cnt, seq := { t.seq with layer := layer, opid := opid } }

/-! ### Faults at a tile (R53, R163–R165) -/

/-- Engine codes of R165. -/
def engSeq : Nat := 0
def engShell : Nat := 1
def engMover (m : Nat) : Nat := 2 + m
def engGroup : Nat := 6

/-- A fault recorded at a tile: TILE_FAULT is set and the fault is owed to the Husk firmware as an EVENT. A fault of
the sequencer or Sheller stops the sequencer's issue, one of a mover that mover, one of a group that group. -/
def raise (c engine code addr ioff mask gslot : Nat) (t : Tile) : Tile :=
  { t with
    regs := { t.regs with faultOp := BitVec.ofNat 16 t.seq.opid, faultCode := BitVec.ofNat 8 code },
    seq := if engine ≤ 1 then { t.seq with stream := .halted, slots := [], queue := [], hold := .none } else t.seq,
    ge := if engine = engGroup then { t.ge with groups := t.ge.groups.map (fun p => if p.1 = gslot then (p.1, p.2.map (fun x => { x with stopped := true })) else p) }
      else t.ge,
    movers := if 2 ≤ engine && engine ≤ 5 then fmUpd moverReset t.movers (engine - 2) (fun x => { x with stopped := true })
      else t.movers,
    reports := t.reports ++ [.fault ⟨c, 0, engine, code, addr, ioff, mask, t.seq.opid, t.seq.layer, gslot⟩] }

/-- A fault of the sequencer at its present bundle. -/
def raiseSeq (c code : Nat) (t : Tile) : Tile := raise c engSeq code 0 t.seq.pc 0 0xFF t

/-- A bundle of the sequencer at LS offset `pc` as the origin of an operation; a landing or a mover, which no bundle names. -/
def bySeq (pc : Nat) : Origin := ⟨engSeq, pc, 0, 0xFF⟩
def byNone : Origin := bySeq 0

/-- A fault of an operation under way. -/
def raiseBy (c : Nat) (o : Origin) (code : Nat) (t : Tile) : Tile := raise c o.engine code 0 o.pc o.mask o.slot t

/-! ### Interrupt vectors (R520, R521) -/

/-- Vector `v` of function `fn` (0 the PF, 1 + n VF n) raised: a message, or its pending bit where the table masks it. -/
def raiseMsix (fn v : Nat) (s : State) : State :=
  if fmGet 1 s.ctl.msix (4096 * fn + 16 * v + 12) % 2 = 1 then { s with ctl := { s.ctl with pend := fmSet false s.ctl.pend (32 * fn + v) true } }
  else { s with out := s.out ++ [.msix fn v] }

/-! ### The tile store (R23–R31) -/

/-- Bytes of L1 for a split code (R53), and of LS (R24). -/
def l1Size (split : BitVec 2) : Nat := if split = 0 then 0 else 2 ^ (19 + split.toNat)
def lsSizeOf (split : BitVec 2) : Nat := 2 ^ 23 - l1Size split
def lsSize (t : Tile) : Nat := lsSizeOf t.regs.splitCur

/-- The bytes [a, a + n) lie inside the LS in force. -/
def inLs (t : Tile) (a n : Nat) : Bool := a + n ≤ lsSize t

/-- The beats that [a, a + n) touches. -/
def beatsOf (a n : Nat) : List Nat := if n = 0 then [] else (List.range ((a + n - 1) / 64 - a / 64 + 1)).map (a / 64 + ·)

/-- The words of a list of 64-bit words that [a, a + n) touches. -/
def wordsIn (ws : List Nat) (a n : Nat) : List Nat := ws.filter (fun w => 8 * w < a + n && a < 8 * w + 8)

/-- A read of [a, a + n) meets Poison: a beat marked, or a double-bit error in a word read (R30). -/
def poisoned (t : Tile) (a n : Nat) : Bool := (beatsOf a n).any (fun b => t.marks.contains b) || !(wordsIn t.dbe a n).isEmpty

/-- A beat's Poison mark set or cleared. -/
def setMark (t : Tile) (b : Nat) (on : Bool) : Tile :=
  { t with marks := if on then (if t.marks.contains b then t.marks else t.marks ++ [b]) else t.marks.filter (· ≠ b) }

/-- Bytes written to LS: a full beat written clears its Poison mark, data that arrives with POISON sets it, and a word
written loses its errors (R30). -/
def lsWrite (a : Nat) (bs : List Byte) (poison : Bool) (t : Tile) : Tile :=
  let n := bs.length
  let t := (beatsOf a n).foldl (fun t b =>
    if poison then setMark t b true else if a ≤ 64 * b && 64 * b + 64 ≤ a + n then setMark t b false else t) t
  { t with ls := memWrite t.ls a bs, sbe := t.sbe.filter (fun w => 8 * w + 8 ≤ a || a + n ≤ 8 * w),
           dbe := t.dbe.filter (fun w => 8 * w + 8 ≤ a || a + n ≤ 8 * w) }

/-- A read of LS: each word with a single-bit error is corrected and counted in FC0 and keeps its error; a double-bit error
found marks its whole beat Poison (R30). -/
def lsRead (a n : Nat) (t : Tile) : List Byte × Tile :=
  let t' := (wordsIn t.dbe a n).foldl (fun t w => setMark t (w / 8) true) t
  (memRead t.ls a n, fcAdd 0 (wordsIn t.sbe a n).length t')

/-- The banks that [a, a + n) touches (R23). -/
def banksOf (a n : Nat) : List Nat := ((beatsOf a n).map (· % 32)).dedup

/-- The banks named so far in cycle `c`: those of another cycle no longer count. -/
def banksAt (c : Nat) (u : Units) : Units := if u.p1Cycle = c then u else { u with p1Cycle := c, p1Banks := [], lowBanks := [] }

/-- A priority-1 access of the tile in cycle `c`: two that name one bank in one cycle are an illegal-instruction fault
(R28, R92). -/
def touchBanks (c : Nat) (o : Origin) (a n : Nat) (t : Tile) : Tile :=
  let u := banksAt c t.units
  let new := banksOf a n
  let t' := { t with units := { u with p1Banks := u.p1Banks ++ new } }
  if new.any u.p1Banks.contains then raiseBy c o 0x04 t' else t'

/-- An access of requester `k` (in the order of R27: 2 dynamic landings, 3 to 6 the movers, 7 the group engine, 8 the L1) to banks
`bs` meets in cycle `c` a bank that the accesses before it have taken; where
R29 serves the requester next, only priority-1 accesses stand before it. -/
def bankTaken (c k : Nat) (bs : List Nat) (t : Tile) : Bool :=
  let u := banksAt c t.units
  bs.any (fun b => u.p1Banks.contains b || (u.lowBanks.contains b && !u.boosts.contains (k, b)))

/-- An access of requester `k` takes its banks in cycle `c`; the requester has no loss at them any more. -/
def takeBanks (c k : Nat) (bs : List Nat) (t : Tile) : Tile :=
  let u := banksAt c t.units
  { t with units := { u with lowBanks := u.lowBanks ++ bs, boosts := u.boosts.filter (fun x => !(x.1 = k && bs.contains x.2)) } }

/-- A scheduled read: bank named, errors corrected, a Poison beat consumed is a fault with code 0x02 (R30). -/
def p1Read (c : Nat) (o : Origin) (a n : Nat) (t : Tile) : List Byte × Tile :=
  let t := touchBanks c o a n t
  let t := if poisoned t a n then raiseBy c o 0x02 t else t
  lsRead a n t

/-- A scheduled write. -/
def p1Write (c : Nat) (o : Origin) (a : Nat) (bs : List Byte) (t : Tile) : Tile := lsWrite a bs false (touchBanks c o a bs.length t)

/-! ### Arrival counters (R214–R216) -/

/-- What the AC_SUBs of the counters' cycle take from counter `i`. -/
def acTaken (x : Counters48) (i : Nat) : Nat := ((x.subs.filter (fun y => y.1 = i)).map (fun y => y.2.2)).sum

/-- The value of counter `i` once its cycle is over: what it held and what has landed, less the amounts, floor 0 and at most
2^48 − 1 (R216). -/
def acValue (x : Counters48) (i : Nat) : Nat := capAt top48 (fmGet 0 x.now i - acTaken x i)

/-- The counters after their cycle. -/
def acsOver (x : Counters48) : FMap Nat := (x.now.map (fun p => (p.1, acValue x p.1))).filter (fun p => p.2 ≠ 0)

/-- The cycle of the tile's counters is over where `c` is a later one: a value above 2^48 − 1 is counted in FC6, an AC_SUB that
took it below 0 sets its mover's ERR (R216); source bytes due by cycle `c` count (R212). -/
def settleAcs (c : Nat) (t : Tile) : Tile :=
  let x := t.acs
  if x.stamp = c then t
  else
    let high := ((x.now.filter (fun p => top48 < p.2 - acTaken x p.1)).length)
    let low := (x.subs.filter (fun y => fmGet 0 x.now y.1 < acTaken x y.1)).map (fun y => y.2.1)
    let v := acsOver x
    let come := x.due.filter (fun d => d.1 ≤ c)
    let n := (come.map (fun d => d.2.2)).sum
    let t := { t with
      acs := { now := come.foldl (fun m d => fmUpd 0 m d.2.1 (· + d.2.2)) v, start := v, stamp := c, subs := [],
               due := x.due.filter (fun d => c < d.1) },
      regs := { t.regs with moverErr := low.foldl (fun e m => e ||| BitVec.ofNat 4 (1 <<< m)) t.regs.moverErr } }
    countEv 0x0E n (fcAdd 6 high t)

/-- A counter's value now. -/
def acNow (t : Tile) (i : Nat) : Nat := acValue t.acs i

/-- A counter's value at the start of cycle `c` (R120). -/
def acSeen (c : Nat) (t : Tile) (i : Nat) : Nat := fmGet 0 (settleAcs c t).acs.start i

/-- `n` landed bytes counted at counter `i` in cycle `c` (R215, R216). -/
def acAdd (c i n : Nat) (t : Tile) : Tile :=
  let t := settleAcs c t
  countEv 0x0E n { t with acs := { t.acs with now := fmUpd 0 t.acs.now i (· + n) } }

/-- `n` source bytes read in cycle `c` count at counter `i` in the next cycle (R212). -/
def acLater (c i n : Nat) (t : Tile) : Tile := { t with acs := { t.acs with due := t.acs.due ++ [(c + 1, i, n)] } }

/-- An AC_SUB of mover `m` applied to counter `i` in cycle `c`, beside every landing of that cycle (R216). -/
def acSub (c m i n : Nat) (t : Tile) : Tile :=
  let t := settleAcs c t
  { t with acs := { t.acs with subs := t.acs.subs ++ [(i, m, n)] } }

/-! ### Send queues and landings (R110–R113) -/

/-- Port 0 is the local mesh port, 1 to 4 the lanes north, east, south, west. -/
def portAt (t : Tile) (p : Nat) : PortQ := fmGet portReset t.ports p

def updPort (t : Tile) (p : Nat) (f : PortQ → PortQ) : Tile := { t with ports := fmUpd portReset t.ports p f }

/-- Bytes of a unit, and entries of a ring, of a port (R112, R113). -/
def unitBytes (p : Nat) : Nat := if p = 0 then 64 else 128
def ringSize (p : Nat) : Nat := if p = 0 then 64 else 32
def sendqSize (p : Nat) : Nat := if p = 0 then 256 else 32
def postsSize (p : Nat) : Nat := if p = 0 then 64 else 32

/-- A unit lands at a post: written, Poison kept, and counted where the post asks for it (R112, R169). -/
def landAt (c p : Nat) (post : Post) (r : RingEnt) (t : Tile) : Tile :=
  let data := if r.nul then zeros (unitBytes p) else r.data
  let t := lsWrite post.addr data (r.poison && !r.nul) (touchBanks c byNone post.addr data.length t)
  match post.ac with
  | none => t
  | some ac => acAdd c ac (unitBytes p) t

/-- A unit that arrives in cycle `c`: it lands at the oldest post posted before this cycle if the ring is empty, joins
the ring otherwise, and is discarded and counted in FC2 at a full ring (R112, R128). DESIGN CHOICE (log entry 93): where the
ring's last unit lands in the cycle of the arrival, the arriving unit finds the ring empty and may land in that cycle too. -/
def landUnit (c p : Nat) (r : RingEnt) (t : Tile) : Tile :=
  let q := portAt t p
  let t := if r.nul then fcAdd 1 1 t else t
  match q.ring, q.posts with
  | [], post :: rest =>
    if post.at_ < c then landAt c p post r (updPort t p (fun q => { q with posts := rest }))
    else updPort t p (fun q => { q with ring := [r] })
  | ring, _ => if ring.length < ringSize p then updPort t p (fun q => { q with ring := ring ++ [r] }) else fcAdd 2 1 t

/-- The ring's oldest unit lands at the oldest post, one unit a cycle (R112). -/
def drainRing (c p : Nat) (t : Tile) : Tile :=
  let q := portAt t p
  match q.ring, q.posts with
  | r :: ring, post :: rest =>
    if post.at_ < c then landAt c p post r (updPort t p (fun q => { q with ring := ring, posts := rest })) else t
  | _, _ => t

/-! ### Movers (R38, R212) -/

def moverAt (t : Tile) (m : Nat) : Mover := fmGet moverReset t.movers m

def updMover (t : Tile) (m : Nat) (f : Mover → Mover) : Tile := { t with movers := fmUpd moverReset t.movers m f }

/-- MOVER_STATUS.ERR of a mover set. -/
def setErr (m : Nat) (t : Tile) : Tile :=
  { t with regs := { t.regs with moverErr := t.regs.moverErr ||| BitVec.ofNat 4 (1 <<< m) } }

/-- Whether a mover is empty. -/
def moversEmpty (t : Tile) : Bool := (List.range 4).all (fun m => (moverAt t m).queue.isEmpty)

/-! ### What a tile reports (R53, R197) -/

/-- Code of TILE_STATUS.STATE (R53). -/
def stateCode (x : TileState) : Nat :=
  match x with
  | .off => 0
  | .wiping => 1
  | .idle => 2
  | .loading => 3
  | .running => 4
  | .pruning => 5
  | .pruned => 6
  | .routerFault => 7

/-- The report is a heartbeat. -/
def isBeat (r : Report) : Bool :=
  match r with
  | .heartbeat _ _ _ => true
  | _ => false

/-- The tile is between the prune command and frame F, or past it (R43). -/
def pruning (t : Tile) : Bool := t.prune.isSome

/-- A tile whose local port answers no dynamic access: Pruned, or past frame F of its prune (R43, R46). -/
def isPruned (t : Tile) : Bool := t.regs.state = .pruned || t.prune.any (·.2)

end Sys2Proof.Machine
end

