-- ==== Sys2Proof/Machine/Net.lean ====
section
/-!
DEFINITION. Packets on Espalier (R169, R178, R213, R243, R244): their flits, and how a packet is put on the network and
taken off it.
-/

namespace Sys2Proof.Machine

/-- Virtual channel of a message type (R244): 0 request, 1 forward, 2 response. -/
def vcOf (typ : Nat) : Nat := if typ ≤ 0x09 then 0 else if 0x10 ≤ typ && typ ≤ 0x14 then 1 else 2

/-- The header word of a coherence message (R243). -/
def cohHeader (typ : Nat) (m : CMsg) : Nat :=
  typ <<< 58 ||| (m.line % 2 ^ 34) <<< 24 ||| m.smask.toNat <<< 20 ||| m.tile.toNat <<< 7 ||| m.info.toNat <<< 4 ||| m.dmask.toNat

/-- The header word of an MW or MACK packet (R213). -/
def mwHeader (typ : Nat) (h : MwHdr) : Nat :=
  typ <<< 58 ||| (h.off % 2 ^ 23) <<< 35 ||| (h.len8 % 32) <<< 30 ||| (h.ac % 64) <<< 24 ||| (bnat h.cnt) <<< 23 |||
  (h.srcTile % 2 ^ 13) <<< 10 ||| (h.mover % 4) <<< 8 ||| h.status % 4

/-- Bytes 8 to 63 of the header flit of a coherence message (R244). -/
def cohFields (typ : Nat) (m : CMsg) : List Byte :=
  if typ = 0x04 then natLe 16 m.mask.toNat
  else if typ = 0x08 then natLe 8 (mwHeader 0x20 m.mw)
  else if typ = 0x09 then natLe 16 m.mask.toNat ++ natLe 1 m.ac ++ natLe 2 m.cntTile
  else if typ = 0x0B then natLe 1 m.ac ++ natLe 2 m.count
  else if typ = 0x14 then natLe 1 m.count
  else if typ = 0x1F then natLe 2 m.count
  else []

/-- The flits of a packet: header, then data flits, LAST on the final one (R169). -/
def packetFlits (vc part dest : Nat) (poison : Bool) (header : List Byte) (data : List Byte) : List Flit :=
  let parts := header :: chunks 64 2 data
  parts.zipIdx.map (fun p =>
    { kind := 2, poison := poison, vc := BitVec.ofNat 2 vc, last := decide (p.2 + 1 = parts.length),
      part := BitVec.ofNat 5 part, dest := BitVec.ofNat 13 dest, data := fit 0 64 p.1 })

/-- DEST of a packet's flits: a tile, or the memory attach (R169). -/
def flitDest (d : NetDst) : Nat :=
  match d with
  | .tile t => t
  | _ => 0x1FFF

/-- Sectors of a line carried in ascending order (R243): `data` holds the whole line. -/
def packSectors (data : List Byte) (mask : BitVec 4) : List Byte :=
  (List.range 4).flatMap (fun i => if mask.getLsbD i then (fit 0 128 data).drop (32 * i) |>.take 32 else [])

/-- The data bytes a coherence message carries in data flits; WRU and DMW carry the sectors of SMASK. -/
def cohData (typ : Nat) (m : CMsg) : List Byte := if typ = 0x04 || typ = 0x09 then packSectors m.data m.smask else m.data

/-- The packets of an ATOMIC (R244): operands from byte 16 of the header flit on, 176 bytes a packet, the further lanes in continuation
packets. DESIGN CHOICE (log entry 95): byte 10 holds ORD in bits [1:0] and SCOPE in [3:2]; byte 11 counts the lanes of the whole operation. -/
def atomicFlits (m : CMsg) : List Flit :=
  let lane (o : Nat × Nat) : List Byte := natLe m.size o.1 ++ (if m.aop = 10 then natLe m.size o.2 else [])
  let n := max 1 (176 / max 1 (m.size * (if m.aop = 10 then 2 else 1)))
  let k := (m.ops.length + n - 1) / n
  (List.range k).flatMap (fun i =>
    let bytes := ((m.ops.drop (n * i)).take n).flatMap lane
    let header := natLe 8 (cohHeader 0x05 { m with info := if i + 1 < k then 1 else 0 }) ++ natLe 1 m.aop ++
      natLe 1 (if m.size = 8 then 3 else 2) ++ natLe 1 m.ord ++ natLe 1 m.ops.length ++ natLe 2 m.off ++ natLe 1 (n * i) ++ natLe 1 0 ++
      bytes.take 48
    packetFlits 0 m.part 0x1FFF m.poison header (bytes.drop 48))

/-- The packets of an ATOMR (R244). DESIGN CHOICE (log entry 95): values beyond two data flits travel in further packets. -/
def atomrFlits (dest : Nat) (m : CMsg) : List Flit :=
  let bytes := m.vals.flatMap (natLe m.size)
  (chunks 128 (max 1 ((bytes.length + 127) / 128)) bytes).flatMap (packetFlits 2 m.part dest m.poison (natLe 8 (cohHeader 0x1E m)))

/-- The flits of an MW (R213): POISON on those that are not clean. -/
def mwFlits (part : Nat) (x : MwPacket) : List Flit :=
  let bad (i : Nat) : Bool := x.poison && (if i = 0 then x.clean = 0 else !x.clean.getLsbD (i - 1))
  (packetFlits 2 part x.hdr.dst false (natLe 8 (mwHeader 0x20 x.hdr)) x.data).zipIdx.map (fun p => { p.1 with poison := bad p.2 })

/-- Data flit `i` of an MW takes POISON (0 the first). -/
def poisonFlit (i : Nat) (x : MwPacket) : MwPacket :=
  { x with poison := true, clean := (if x.poison then x.clean else 3#2) &&& ~~~(1#2 <<< i) }

/-- The flits of a message sent by a tile of partition `part`. -/
def flitsOf (part : Nat) (m : NetMsg) : List Flit :=
  match m with
  | .coh dst _ typ c =>
    if typ = 0x05 then atomicFlits c
    else if typ = 0x1E then atomrFlits (flitDest dst) c
    else packetFlits (vcOf typ) c.part (flitDest dst) c.poison (natLe 8 (cohHeader typ c) ++ cohFields typ c) (cohData typ c)
  | .mw x _ => mwFlits part x
  | .mack h => packetFlits 2 part (if h.mover < 4 then h.srcTile else 0x1FFF) false (natLe 8 (mwHeader 0x21 h)) []

/-- An MTYPE that no message has (R213, R244). -/
def mtypeReserved (k : Nat) : Bool := k = 0 || (0x0C ≤ k && k ≤ 0x0F) || (0x15 ≤ k && k ≤ 0x17) || 0x22 ≤ k

/-- The dynamic buffer of a router input and virtual channel. -/
def dynBuf (r : Router) (input vc : Nat) : List Flit := fmGet [] r.dyn (4 * input + vc)

def setDyn (r : Router) (input vc : Nat) (fs : List Flit) : Router := { r with dyn := fmSet [] r.dyn (4 * input + vc) fs }

/-- Flits appended at a router input. -/
def pushDyn (r : Router) (input : Nat) (fs : List Flit) : Router :=
  fs.foldl (fun r f => setDyn r input f.vc.toNat (dynBuf r input f.vc.toNat ++ [f])) r

/-- The line number's parity picks a tile's corridor: the column corridor when it is 0 (R178). -/
def columnCorridor (line : Nat) : Bool := !parity 34 line

/-- The edge router where a tile's column or row corridor ends (R178, R182). -/
def corridorEnd (t : Nat) (column : Bool) : Nat :=
  if column then (if rowOf t < 24 then 0 else nRows - 1) * nCols + colOf t
  else rowOf t * nCols + (if colOf t < 22 then 0 else nCols - 1)

/-- An edge router (R182): of a tile on a die's outer row or column. -/
def edgeRouter (t : Nat) : Bool := rowOf t = 0 || rowOf t + 1 = nRows || colOf t = 0 || colOf t + 1 = nCols

/-- A scheduled flit or unit. -/
def schedFlit (data : List Byte) (poison : Bool) : Flit := ⟨1, poison, 0, false, 0, 0, data⟩
def nullFlit (n : Nat) : Flit := ⟨3, false, 0, false, 0, 0, zeros n⟩
def emptyFlit (n : Nat) : Flit := ⟨0, false, 0, false, 0, 0, zeros n⟩

/-- Edge routers of a die in ascending tile ID (R372). -/
def edgeTiles (d : Nat) : List Nat := (List.range nTiles).filter (fun t => dieOf t = d && edgeRouter t)

/-- The edge router that an entry of a lockstep table names (R372). -/
def entryEdge (e : Nat) : Option Nat := if field e 15 14 = 1 then (edgeTiles (field e 13 12))[field e 11 6]? else none

/-- The line number of a message, if it has one. -/
def msgLine (m : NetMsg) : Option Nat :=
  match m with
  | .coh _ _ _ c => some c.line
  | _ => none

/-- A packet put on the network. A tile's packet enters its router by the local port (input 8); the memory attach's
packet to a tile enters by the memory port (input 9) of the corridor's edge router. -/
def send (s : State) (m : NetMsg) : State :=
  let s := { s with net := s.net ++ [m] }
  let col := match msgLine m with
    | some l => columnCorridor l
    | none => true
  let fromTile (t : Nat) (s : State) : State :=
    updTile s t (fun x => { x with router := pushDyn x.router 8 (flitsOf x.regs.part.toNat m) })
  let toTile (t : Nat) (s : State) : State :=
    updTile s (corridorEnd t col) (fun x => { x with router := pushDyn x.router 9 (flitsOf (partOf s t) m) })
  match m with
  | .coh _ (some t) _ _ => if t < nTiles then fromTile t s else s
  | .coh (.tile t) none _ _ => if t < nTiles then toTile t s else s
  | .coh _ none _ _ => s
  | .mw x none => fromTile x.hdr.srcTile s
  | .mw x (some _) => if x.hdr.dst < nTiles then toTile x.hdr.dst s else s
  | .mack h => fromTile h.dst s

/-- A list without the first run of elements equal to `xs`. -/
def dropRun {α : Type} [DecidableEq α] (xs : List α) : List α → List α
  | [] => []
  | y :: ys => if xs.isPrefixOf (y :: ys) then (y :: ys).drop xs.length else y :: dropRun xs ys

/-- The flits of an arriving packet leave the buffer of the router they entered by, if none has moved on: DYNAMIC_CYCLE
moves flits, an arrival needs none of it. -/
def takeFlits (s : State) (m : NetMsg) : State :=
  let col := match msgLine m with
    | some l => columnCorridor l
    | none => true
  let pull (at_ input part : Nat) (s : State) : State :=
    let fs := flitsOf part m
    let vc := ((fs.head?).map (·.vc.toNat)).getD 0
    updTile s at_ (fun x => { x with router := setDyn x.router input vc (dropRun fs (dynBuf x.router input vc)) })
  let fromTile (t : Nat) : State := if t < nTiles then pull t 8 (partOf s t) s else s
  let toTile (t : Nat) : State := if t < nTiles then pull (corridorEnd t col) 9 (partOf s t) s else s
  match m with
  | .coh _ (some t) _ _ => fromTile t
  | .coh (.tile t) none _ _ => toTile t
  | .coh _ none _ _ => s
  | .mw x none => fromTile x.hdr.srcTile
  | .mw x (some _) => toTile x.hdr.dst
  | .mack h => fromTile h.dst

/-- A packet taken off the network as it arrives. -/
def takeOff (s : State) (m : NetMsg) : State := takeFlits { s with net := s.net.erase m } m

/-- An LS destination as one number, and its offset: a row before or beyond the store has an offset that no LS has. -/
def lsDest (tile off : Nat) : Nat := tile * 2 ^ 64 + off % 2 ^ 64
def lsDestOff (a : Nat) : Nat := a % 2 ^ 64

end Sys2Proof.Machine
end

