-- ==== Sys2Proof/Machine/Ranges.lean ====
section
/-!
DEFINITION. What comes about as cycles pass outside the tiles: range entries and the translation block (R269–R283): the commands ADD, WITHDRAW, READ and their window
counterparts as they take effect, the effect cycle of a withdrawal, its
drain; and flits on links that nobody takes.
-/

namespace Sys2Proof.Machine

/-- A partition's record. -/
def partAt (s : State) (p : Nat) : Part := fmGet partReset s.parts p

def updPart (s : State) (p : Nat) (f : Part → Part) : State := { s with parts := fmUpd partReset s.parts p f }

/-- The partition exists: it is neither absent nor left uncreated after a reset (0x3002). -/
def partExists (s : State) (p : Nat) : Bool := (partAt s p).state ≠ 0 && (partAt s p).state ≠ 7

/-- A free number. -/
def draw (s : State) : State × Nat := ({ s with fresh := s.fresh + 1 }, Config.freeNat s.fresh)

/-- A free number drawn at tile `t`. -/
def drawTile (t : Nat) (y : Tile) : Tile × Nat := ({ y with ge := { y.ge with draws := y.ge.draws + 1 } }, Config.tileNat t y.ge.draws)

/-- A stored dictionary value (none: the default of the entry's row). -/
def dictVal (s : State) (idx sub : Nat) : Option (List Byte) := fmGet none s.ctl.vals (256 * idx + sub)

/-- A dictionary value as a little-endian number, `d` where none is stored. -/
def dictNat (s : State) (idx sub d : Nat) : Nat := ((dictVal s idx sub).map leNat).getD d

/-- A dictionary value stored. -/
def dictPut (s : State) (idx sub : Nat) (v : List Byte) : State :=
  { s with ctl := { s.ctl with vals := fmSet none s.ctl.vals (256 * idx + sub) (some v) } }

/-- Member number of this module in its lockstep group (0x6020:02). -/
def memberNo (s : State) : Nat := dictNat s 0x6020 2 0

/-- Compute frequency of a point in MHz (R445). -/
def pointMhz (point : Nat) : Nat := 2000 - 125 * (if point = 7 then 8 else point)

/-- The first frame boundary at or after cycle `c` (R171: frames of 512 cycles). -/
def frameUp (c : Nat) : Nat := (c + 511) / 512 * 512

/-- The group cycle of device cycle `c` (R381): the counter itself while the module is not aligned. -/
def groupCycle (s : State) (c : Nat) : Nat := if s.gt.aligned then (c + 2 ^ 64 - s.gt.offset % 2 ^ 64) % 2 ^ 64 else c

/-- The parent port by 0x6020:03; the root has none. -/
def parentPort (s : State) : Nat := dictNat s 0x6020 3 0xFF
def isRoot (s : State) : Bool := parentPort s = 0xFF

def portNo (s : State) (n : Nat) : Port := fmGet portUnset s.coppice n

/-- The module is aligned (R119): its parent port is in state 4, or, at the root, OFFSET is set. -/
def inGroupTime (s : State) : Bool := s.gt.aligned && (isRoot s || (portNo s (parentPort s)).state = 4)

/-- The epoch clock (R119): the group cycle of device cycle `c` while the module is aligned, the device cycle otherwise. -/
def epochCycle (s : State) (c : Nat) : Nat := if inGroupTime s then groupCycle s c else c

/-- Fields of a range entry (R269). -/
def rPbase (e : Nat) : Nat := field e 255 192
def rLen (e : Nat) : Nat := field e 184 152
def rStart (e : Nat) : Nat := field e 151 112
def rTarget (e : Nat) : Nat := field e 15 14
def rRead (e : Nat) : Bool := e.testBit 13
def rWrite (e : Nat) : Bool := e.testBit 12

/-- Virtual address `va` falls in the range (R271). -/
def rHits (e va : Nat) : Bool := rLen e ≠ 0 && rStart e * 4096 ≤ va && va < rStart e * 4096 + rLen e * 4096

/-- The target address of `va` in a range (R271). -/
def rAddr (e va : Nat) : Nat := rPbase e + (va - rStart e * 4096)

/-- Target forms of R270. -/
def pbExtent (pb : Nat) : Nat := field pb 59 48
def pbSbOff (pb : Nat) : Nat := field pb 47 0
def pbModule (pb : Nat) : Nat := field pb 63 54
def pbRpart (pb : Nat) : Nat := field pb 53 49
def pbWindow (pb : Nat) : Nat := field pb 48 43
def pbWinOff (pb : Nat) : Nat := field pb 42 0
def pbLsTile (pb : Nat) : Nat := field pb 44 32
def pbLsOff (pb : Nat) : Nat := field pb 22 0

/-- The bits that a target's form of PBASE states as zero are zero (R270). -/
def pbaseOk (target pb : Nat) : Bool :=
  field pb 11 0 = 0 &&
  (if target = 0 then field pb 63 41 = 0
   else if target = 1 then field pb 63 60 = 0
   else if target = 2 then true
   else field pb 31 23 = 0 && field pb 63 45 = 0)

/-- The entry is one a command accepts, for a range (`win` false) or a window slot (R277, R281). -/
def entryOk (win : Bool) (e : Nat) : Bool :=
  1 ≤ rLen e && rLen e ≤ 2 ^ 32 && rStart e * 4096 + rLen e * 4096 ≤ (if win then 2 ^ 43 else 2 ^ 52) &&
  field e 191 185 = 0 && field e 111 16 = 0 && field e 11 5 = 0 &&
  (if win then rTarget e = 0 || rTarget e = 3 else rTarget e ≠ 3) && (!win || rWrite e) && pbaseOk (rTarget e) (rPbase e)

/-- An extent. -/
def extentAt (s : State) (n : Nat) : Option Extent := fmGet none s.seed.extents n

/-- The target lies in the partition's DM range or extents; an LS target names a tile of the partition (R281, R312). -/
def targetOk (s : State) (p e : Nat) : Bool :=
  let pb := rPbase e
  let n := rLen e * 4096
  if rTarget e = 0 then
    (partAt s p).dmBase ≤ pb && pb + n ≤ (partAt s p).dmBase + (partAt s p).dmSize
  else if rTarget e = 1 then
    match extentAt s (pbExtent pb) with
    | some x => x.owner = p && pbSbOff pb + n ≤ x.size * 2 ^ 30
    | none => false
  else if rTarget e = 2 then true
  else inPart s p (pbLsTile pb)

/-- Two entries overlap in virtual space. -/
def rOverlap (a b : Nat) : Bool := rStart a < rStart b + rLen b && rStart b < rStart a + rLen a

/-- Fields of XL_CMD (R281). -/
def xlOp (v : Nat) : Nat := field v 31 28
def xlWindow (v : Nat) : Nat := field v 27 22
def xlIndex (v : Nat) : Nat := field v 13 0

/-- A window's table slot. -/
def winSlot (w i : Nat) : Nat := 16 * w + i

/-- The slot a command names, in the range table or the window tables. -/
def xlSlotEntry (x : Xl) (v : Nat) : Nat :=
  if xlOp v ≤ 3 then fmGet 0 x.table (xlIndex v) else fmGet 0 x.winTab (winSlot (xlWindow v) (xlIndex v))

/-- The entries that a new one must not overlap. -/
def xlRivals (x : Xl) (v : Nat) : List Nat :=
  if xlOp v ≤ 3 then x.table.map (·.2) else (x.winTab.filter (fun y => y.1 / 16 = xlWindow v)).map (·.2)

/-- RESULT of a command, in the order of R281. -/
def xlResult (s : State) (p v : Nat) : Nat :=
  let x := xlAt s p
  let op := xlOp v
  let win := 4 ≤ op
  let e := x.entry
  if 8 ≤ op then 0x01
  else if (if win then 16 else 8192) ≤ xlIndex v then 0x05
  else if (op = 1 || op = 4) && !entryOk win e then 0x01
  else if op = 6 && field e 29 10 ≠ 0 then 0x01
  else if (op = 1 || op = 4) && xlSlotEntry x v ≠ 0 then 0x04
  else if (op = 2 || op = 5) && xlSlotEntry x v = 0 then 0x04
  else if (op = 1 || op = 4) && !targetOk s p e then 0x03
  else if (op = 1 || op = 4) && (xlRivals x v).any (rOverlap e) then 0x02
  else 0

/-- A command finished. -/
def xlFinish (result : Nat) (x : Xl) : Xl := { x with start := none, busy := false, done := true, result := result }

/-- A withdrawal begins (R282): the invalidation is sent within 128 cycles of the start `c`, after a delay that is free;
w is the first frame boundary at least 1,024 cycles after the send. Every tile of the partition, or the window table
store (2112), has to report. -/
def startWithdrawal (s : State) (p c : Nat) (window : Bool) (slots : List Nat) : State :=
  let (s, d) := draw s
  let wd : Withdrawal :=
    { slots := slots, gone := [], window := window, w := frameUp (c + d % 129 + 1024), done := false, us := 0,
      waiting := if window then [nTiles] else partTiles s p, abandoned := false }
  updXl s p (fun x => { x with start := none, withdrawal := some wd })

/-- The accepted command takes effect (R281): it started in cycle `c`. -/
def xlApply (s : State) (p v c : Nat) : State :=
  let x := xlAt s p
  let op := xlOp v
  let r := xlResult s p v
  let e := x.entry / 32 * 32 + p
  let cfg : WinCfg := ⟨x.entry.testBit 31, x.entry.testBit 30, BitVec.ofNat 10 (field x.entry 9 0)⟩
  if r ≠ 0 then updXl s p (xlFinish r)
  else if op = 1 then updXl s p (fun x => xlFinish 0 { x with table := fmSet 0 x.table (xlIndex v) e })
  else if op = 2 then startWithdrawal s p c false [xlIndex v]
  else if op = 3 || op = 7 then updXl s p (fun x => xlFinish 0 { x with entry := xlSlotEntry x v })
  else if op = 4 then
    updXl s p (fun x => xlFinish 0 { x with winTab := fmSet 0 x.winTab (winSlot (xlWindow v) (xlIndex v)) e })
  else if op = 5 then startWithdrawal s p c true [winSlot (xlWindow v) (xlIndex v)]
  else if (fmGet winReset x.wins (xlWindow v)).enable && !cfg.enable then
    let slots := (x.winTab.filter (fun y => y.1 / 16 = xlWindow v)).map (·.1)
    startWithdrawal (updXl s p (fun x => { x with wins := fmSet winReset x.wins (xlWindow v) cfg })) p c true slots
  else updXl s p (fun x => xlFinish 0 { x with wins := fmSet winReset x.wins (xlWindow v) cfg })

/-- A write of XL_CMD (R281): OP 0 does nothing; a write while BUSY is ignored and sets OVERRUN; another is accepted, sets
BUSY and clears DONE, and its command starts in the next cycle. -/
def xlWrite (p v : Nat) (s : State) : State :=
  if xlOp v = 0 then s
  else if (xlAt s p).busy then updXl s p (fun x => { x with overrun := true })
  else updXl s p (fun x => { x with start := some (v, s.cycle + 1), busy := true, done := false })

/-- The withdrawal takes effect at w: its entries leave the table, the lookasides and the die caches (R282). -/
def withdrawNow (s : State) (p : Nat) : State :=
  let x := xlAt s p
  match x.withdrawal with
  | none => s
  | some wd =>
    if wd.done then s
    else
      let gone := wd.slots.map (fun i => if wd.window then fmGet 0 x.winTab i else fmGet 0 x.table i)
      let drop (m : FMap Nat) : FMap Nat := wd.slots.foldl (fun m i => fmSet 0 m i 0) m
      let cut (l : List Nat) : List Nat := l.filter (fun i => !wd.slots.contains i)
      let s := updXl s p (fun x =>
        { x with table := if wd.window then x.table else drop x.table,
                 winTab := if wd.window then drop x.winTab else x.winTab,
                 dieCache := if wd.window then x.dieCache else fmMap [] cut x.dieCache,
                 withdrawal := some { wd with done := true, us := s.us, gone := gone } })
      if wd.window then s else updTiles s (partTiles s p) (fun t => { t with look := cut t.look })

/-- A withdrawal whose reports are all in finishes (R282, R284). -/
def withdrawDone (s : State) (p : Nat) : State :=
  match (xlAt s p).withdrawal with
  | some wd =>
    if wd.done && wd.waiting.isEmpty then
      updXl s p (fun x => xlFinish (if wd.abandoned then 0x06 else 0) { x with withdrawal := none })
    else s
  | none => s

/-- Bytes of an accepted window write to the partition are on their way, or at a home slice, and not counted (R278, R282). -/
def windowBusy (s : State) (p : Nat) : Bool :=
  let isIt (typ : Nat) (m : CMsg) : Bool := typ = 0x09 && m.tile = 0x1FFF && m.part = p
  s.net.any (fun x => match x with
    | .coh (.home _) none typ m => isIt typ m
    | .coh (.tile _) none typ m => typ = 0x0B && m.mover = 4 && m.part = p
    | .mw x (some 4) => inPart s p x.hdr.dst
    | _ => false) ||
  s.slices.any (fun y => y.2.inbox.any (fun q => isIt q.2.1 q.2.2) || y.2.queue.any (fun q => isIt q.1 q.2) ||
    y.2.txns.any (fun t => isIt t.typ t.msg))

/-- The window table store reports once the withdrawal has taken effect and no window write is uncounted (R282). -/
def storeReport (s : State) (p : Nat) : State :=
  match (xlAt s p).withdrawal with
  | some wd =>
    if wd.window && wd.done && !windowBusy s p then
      withdrawDone (updXl s p (fun x => { x with withdrawal := some { wd with waiting := [] } })) p
    else s
  | none => s

/-- What is due in the translation blocks by the present cycle: a command takes effect in the cycle after its start, a
withdrawal at w. -/
def xlDue (s : State) : State :=
  s.xl.foldl (fun s y =>
    let x := xlAt s y.1
    let s := match x.start with
      | some (v, c) => if c + 1 ≤ s.cycle then xlApply s y.1 v c else s
      | none => s
    match (xlAt s y.1).withdrawal with
    | some wd => if wd.w ≤ s.cycle then storeReport (withdrawNow s y.1) y.1 else s
    | none => s) s

/-! ### What is due on the links (R174, R179) -/

/-- A flit counted as discarded by the router of tile `t` (R174, R491). -/
def misrouteAt (s : State) (t : Nat) : State :=
  let s := updTile s t (fun y => { y with
    router := { y.router with misroute := satAdd (2 ^ 32 - 1) y.router.misroute 1 },
    cnt := { y.cnt with fc := fmUpd 0 y.cnt.fc 8 (fun v => satAdd top48 v 1) } })
  { s with esp := { s.esp with misroute := satAdd (2 ^ 32 - 1) s.esp.misroute 1 } }

/-- A flit taken off a link. -/
def dropWire (s : State) (w : Wire) : State := { s with wires := s.wires.erase w }

/-- Scheduled flits whose cycle has passed without an output, or a position of a lockstep port, that took them (R174, R374). -/
def missedWires (s : State) : State :=
  let gone := s.wires.filter (fun w => w.at_ < s.cycle && (w.input < 4 || 9 ≤ w.input) && w.flit.kind ≠ 2)
  gone.foldl (fun s w => if w.input = 10 then dropWire s w else misrouteAt (dropWire s w) w.tile) s

/-- Dynamic flits whose cycle has come stand in their router's buffers. -/
def landDyn (s : State) : State :=
  let due := s.wires.filter (fun w => w.at_ ≤ s.cycle && w.flit.kind = 2)
  due.foldl (fun s w => updTile (dropWire s w) w.tile (fun y => { y with router := pushDyn y.router w.input [w.flit] })) s

end Sys2Proof.Machine
end

