-- ==== Sys2Proof/Machine/Cycle.lean ====
section
/-!
DEFINITION. What one cycle does in a tile whatever is commanded: operand reads, results, readouts, imports, Sheller
streams, the ramp limiter, landing rings and end-of-stream reports (R97–R107, R112, R123–R125).
-/

namespace Sys2Proof.Machine

/-- A bank of a tile. -/
def bankAt (t : Tile) (b : Nat) : Bank := fmGet bankZero t.units.banks b

/-- A bank replaced, and its flags set. -/
def setBank (t : Tile) (b : Nat) (x : Bank) (f : FlagSet) : Tile :=
  { t with units := { t.units with banks := fmSet bankZero t.units.banks b x },
           regs := { t.regs with mflags := orFlags t.regs.mflags b f } }

/-- The open cycles of a grant cover cycle `c`. -/
def openIn (q : Seq) (c : Nat) : Bool :=
  match q.grant with
  | some (first, last, _) => first ≤ c && c ≤ last
  | none => false

/-- Per-cycle events of the programmable counters (R490). -/
def cycleCounts (c : Nat) (t : Tile) : Tile :=
  let t := countEv 0x01 1 t
  if openIn t.seq c then countEv 0x06 1 t else t

/-- The ramp limiter's tick of cycle `c` (R123). -/
def rampAt (c : Nat) (q : Seq) : Seq :=
  if q.rampTick = c / 64 then q
  else { q with rampTick := c / 64, rampP := if q.rampTick + 1 = c / 64 then q.rampB else 0, rampB := 0 }

/-- The array and the sequencer held for cycle `c` (R99, R123); the tile is result-exact from then on. The next bundle issues
after the hold where its cycle falls into it. -/
def stallCycle (c fc : Nat) (t : Tile) : Tile :=
  countEv 0x03 1 (fcAdd fc 1 { t with seq := { t.seq with nextIssue := max t.seq.nextIssue (c + 1), exact := false } })

/-- LS reads of a step of an MMA: operands not fed by the Sheller, and the scales of a block at its first step (R97). -/
def mmaReads (c : Nat) (j : MmaJob) (t : Tile) : MmaJob × Tile :=
  let d := pairDepth j.fa j.fb
  let first := (j.s * d) % 32 == 0
  let blk := j.s * d / 32
  let na := stepBytes d j.fa
  let nb := stepBytes d j.fb
  let (ga, t) := if j.feed = 1 then ([], t) else p1Read c j.by_ (j.baseA + j.s * na) na t
  let (gb, t) := if j.feed = 2 then ([], t) else p1Read c j.by_ (j.baseB + j.s * nb) nb t
  let (gsa, t) := if j.sa && first then p1Read c j.by_ (j.baseSa + blk * scaleBytes j.fa) (scaleBytes j.fa) t else ([], t)
  let (gsb, t) := if j.sb && first then p1Read c j.by_ (j.baseSb + blk * scaleBytes j.fb) (scaleBytes j.fb) t else ([], t)
  ({ j with gotA := j.gotA ++ ga, gotB := j.gotB ++ gb, gotSa := j.gotSa ++ gsa, gotSb := j.gotSb ++ gsb }, t)

/-- The array in cycle `c`, in µs `us` of the standby clock (R97–R99, R123). -/
def arrayCycle (us c : Nat) (t : Tile) : Tile :=
  match t.units.mmas with
  | [] => { t with seq := { t.seq with stallUs := none } }
  | j :: rest =>
    if c < j.at_ then t
    else
      let since := t.seq.stallUs.getD us
      let t := { t with seq := { rampAt c t.seq with stallUs := none } }
      let step := stepBytes (pairDepth j.fa j.fb) (if j.feed = 1 then j.fa else j.fb)
      let need := if j.feed = 0 then 0 else min 64 (step - 64 * j.i)
      let path := if j.feed = 1 then t.units.pathA else t.units.pathB
      let put (j : MmaJob) (t : Tile) : Tile := { t with units := { t.units with mmas := j :: rest } }
      if j.ge.isNone && !decide (t.seq.rampB < min t.seq.env (t.seq.rampP + 16)) then
        stallCycle c 4 (put { j with at_ := c + 1 } t)
      else if path.length < need then stallCycle c 3 { put { j with at_ := c + 1 } t with seq := { t.seq with stallUs := some since } }
      else
        let (j, t) := if j.i = 0 then mmaReads c j t else (j, t)
        let (j, t) :=
          if j.feed = 1 then
            ({ j with gotA := j.gotA ++ path.take need }, { t with units := { t.units with pathA := path.drop need } })
          else if j.feed = 2 then
            ({ j with gotB := j.gotB ++ path.take need }, { t with units := { t.units with pathB := path.drop need } })
          else (j, t)
        let t := countEv 0x05 1 { t with seq := { t.seq with rampB := t.seq.rampB + 1, arrayBusy := c } }
        let t := if j.ge.isSome then countEv 0x07 1 t else t
        if j.i + 1 < j.m then put { j with i := j.i + 1, at_ := c + 1 } t
        else if j.s + 1 < j.k then put { j with s := j.s + 1, i := 0, at_ := c + 1 } t
        else { t with units := { t.units with mmas := rest, adds := t.units.adds ++ [(c + 7, j)] } }

/-- The accumulations whose completion cycle is `c` (R66, R69, R77): a W that differs from the bank's is illegal. -/
def addCycle (c : Nat) (t : Tile) : Tile :=
  let due := t.units.adds.filter (fun p => p.1 == c)
  let t := { t with units := { t.units with adds := t.units.adds.filter (fun p => p.1 != c) } }
  due.foldl (fun t p =>
    let j := p.2
    let b := bankAt t j.bank
    match j.w with
    | some w =>
      if w = b.w then
        let r := mmaComplete b j.fa j.fb j.sa j.sb j.k (leNat j.gotA) (leNat j.gotB) (leNat j.gotSa) (leNat j.gotSb)
        setBank t j.bank r.1 r.2
      else raiseBy c j.by_ 0x04 t
    | none =>
      let r := mmaComplete b j.fa j.fb j.sa j.sb j.k (leNat j.gotA) (leNat j.gotB) (leNat j.gotSa) (leNat j.gotSb)
      setBank t j.bank r.1 r.2) t

/-- Import reads and completions (R105). -/
def importCycle (c : Nat) (t : Tile) : Tile :=
  let jobs := t.units.imports
  let t := { t with units := { t.units with imports := [] } }
  let t := jobs.foldl (fun t j =>
    if j.at_ = c then
      let (bs, t) := p1Read c j.by_ (j.base + 64 * j.beat) 64 t
      if j.beat = 63 then { t with units := { t.units with impAdds := t.units.impAdds ++ [(c + 2, j.bank, j.got ++ bs)] } }
      else { t with units := { t.units with imports := t.units.imports ++
        [{ j with beat := j.beat + 1, at_ := c + 1, got := j.got ++ bs }] } }
    else { t with units := { t.units with imports := t.units.imports ++ [j] } }) t
  let due := t.units.impAdds.filter (fun p => p.1 == c)
  let t := { t with units := { t.units with impAdds := t.units.impAdds.filter (fun p => p.1 != c) } }
  due.foldl (fun t p => let r := importBank (bankAt t p.2.1) p.2.2; setBank t p.2.1 r.1 r.2) t

/-- The status beat of a readout (R104). -/
def statusBeat (eMax : Option Int) (flags : Nat) : List Byte := fit 0 64 (adviceBytes eMax ++ [BitVec.ofNat 8 flags])

/-- Readouts: the snapshot in the cycle after the issue, with its clear, and the beats from two cycles later (R104). -/
def snapCycle (c : Nat) (t : Tile) : Tile :=
  let jobs := t.units.reads
  let t := { t with units := { t.units with reads := [] } }
  jobs.foldl (fun t j =>
    let keep (t : Tile) (j : ReadJob) : Tile := { t with units := { t.units with reads := t.units.reads ++ [j] } }
    if j.t + 1 = c then
      let b := bankAt t j.bank
      let r := readoutBank j.mode b
      let t := setBank t j.bank (if j.clr then bankClear (j.wNew.getD b.w) else b) ⟨false, false, r.2⟩
      let t := if j.ge.isSome then countEv 0x07 1 t else t
      keep t { j with nextAt := c + 2,
                      beats := chunks 64 64 r.1 ++ [statusBeat b.eMax (bankFlags t.regs.mflags j.bank)] }
    else keep t j) t

/-- The readout beats written in cycle `c`. -/
def readoutWrites (c : Nat) (t : Tile) : Tile :=
  let jobs := t.units.reads
  let t := { t with units := { t.units with reads := [] } }
  jobs.foldl (fun t j =>
    let keep (t : Tile) (j : ReadJob) : Tile := { t with units := { t.units with reads := t.units.reads ++ [j] } }
    match j.beats with
    | [] => keep t j
    | b :: rest =>
      if j.nextAt = c then
        let t := p1Write c j.by_ j.dst b t
        let t := if j.ge.isSome then countEv 0x07 1 t else t
        if rest.isEmpty then t else keep t { j with beats := rest, dst := j.dst + 64, nextAt := c + 1 }
      else keep t j) t

/-- Elements of a vector operand as numbers. -/
def elemsOf (vf : Nat) (bs : List Byte) : List Nat := (chunks (vfmtWidth vf / 8) 32 bs).map leNat

/-- A vector function over 32 elements: result bytes and NaNs written as zero (R140). -/
def vecResult (n vf df : Nat) (x1 x2 x3 : List Nat) : List Byte × Nat :=
  let w := if n = 9 then vfmtWidth df else vfmtWidth vf
  (List.range 32).foldr (fun i acc =>
    let r := vecFn n vf df (x1.getD i 0) (x2.getD i 0) (x3.getD i 0)
    (natLe (w / 8) r.1 ++ acc.1, r.2 + acc.2)) ([], 0)

/-- V-slot vector operations: sources read in the cycle after the issue, results written three cycles later (R102). -/
def vecCycle (c : Nat) (t : Tile) : Tile :=
  let jobs := t.units.vecs
  let t := { t with units := { t.units with vecs := [] } }
  jobs.foldl (fun t j =>
    let keep (t : Tile) (j : VecJob) : Tile := { t with units := { t.units with vecs := t.units.vecs ++ [j] } }
    if j.t + 1 = c then
      let n := 4 * vfmtWidth j.vf
      let (b1, t) := p1Read c j.by_ j.s1 n t
      let (b2, t) := if vecOneSource j.n then ([], t) else p1Read c j.by_ j.s2 n t
      let (b3, t) := if vecThirdSource j.n then p1Read c j.by_ j.dst n t else ([], t)
      let r := vecResult j.n j.vf j.df (elemsOf j.vf b1) (elemsOf j.vf b2) (elemsOf j.vf b3)
      keep (fcAdd 5 r.2 t) { j with res := r.1, nans := r.2 }
    else if j.t + 4 = c then p1Write c j.by_ j.dst j.res t
    else keep t j) t

/-- The beat of a STATE_COPY (R107). -/
def stateBeat (t : Tile) : List Byte :=
  fit 0 64 ((List.range 4).flatMap (fun b => adviceBytes (bankAt t b).eMax) ++ natLe 2 t.regs.mflags.toNat)

/-- STATE_COPY: the values held at the start of the cycle after the issue. -/
def copySnap (c : Nat) (t : Tile) : Tile :=
  { t with units := { t.units with copies := t.units.copies.map (fun j =>
    if j.t + 1 = c then { j with beat := stateBeat t } else j) } }

/-- STATE_COPY beats written in cycle `c`. -/
def copyWrites (c : Nat) (t : Tile) : Tile :=
  let due := t.units.copies.filter (fun j => j.t + 2 == c)
  let t := { t with units := { t.units with copies := t.units.copies.filter (fun j => j.t + 2 != c) } }
  due.foldl (fun t j => p1Write c j.by_ j.dst j.beat t) t

/-- Bank clears due in cycle `c` (R100). DESIGN CHOICE (log entry 93): a readout's snapshot of the same cycle comes before them. -/
def clearCycle (c : Nat) (t : Tile) : Tile :=
  let due := t.units.clears.filter (fun j => j.due == c)
  let t := { t with units := { t.units with clears := t.units.clears.filter (fun j => j.due != c) } }
  due.foldl (fun t j => setBank t j.bank (bankClear j.w) noFlags) t

/-- One decoded beat leaves the Sheller: into LS, or to the operand path (R36, R106). A beat of the current block that leaves
before the block's end is known keeps what it replaces. -/
def shellOut (c : Nat) (j : ShellJob) (b : Nat × List Byte) (t : Tile) : ShellJob × Tile :=
  let t := countEv 0x08 1 t
  if j.dest = 1 then (j, { t with units := { t.units with pathA := t.units.pathA ++ b.2 } })
  else if j.dest = 2 then (j, { t with units := { t.units with pathB := t.units.pathB ++ b.2 } })
  else
    let old := (j.out, memRead t.ls j.out 64, poisoned t j.out 64)
    ({ j with out := j.out + 64, undo := if j.start + 12 ≤ b.1 && j.left ≠ 0 then old :: j.undo else j.undo },
     if inLs t j.out 64 then p1Write c j.by_ j.out b.2 t else raiseBy c j.by_ 0x04 t)

/-- The oldest output beat due leaves, at most one a cycle (R86). -/
def shellEmit (c : Nat) (j : ShellJob) (t : Tile) : Tile :=
  let (j, t) := match j.due with
    | b :: rest => if b.1 ≤ c then shellOut c { j with due := rest } b t else (j, t)
    | [] => (j, t)
  { t with units := { t.units with shell := if j.left = 0 && j.due.isEmpty then none else some j } }

/-- The current block is malformed: a fault with code 0x02, as lost data; none of its bytes stands in LS or still leaves, and no
block follows (R85). DESIGN CHOICE (log entry 13): a header fault is raised in the block's first input cycle and every other one in
its last; the beats of earlier blocks still leave; bytes that left early are taken back. -/
def shellBad (c code : Nat) (j : ShellJob) (t : Tile) : Tile :=
  let t := j.undo.foldl (fun t u => lsWrite u.1 u.2.1 u.2.2 t) (raiseBy c j.by_ code t)
  let due := j.due.filter (fun p => p.1 < j.start + 12)
  { t with units := { t.units with shell := if due.isEmpty then none else some { j with left := 0, due := due, undo := [] } } }

/-- The Sheller in cycle `c` (R86): input of the current block, decoding from the bytes read, output beats due from cycle
start + 12 on, the next block. A beat whose bytes have not all been read by then leaves as soon as they have (log entry 13). -/
def shellCycle (c : Nat) (t : Tile) : Tile :=
  match t.units.shell with
  | none => t
  | some j =>
    if c < j.start || j.left = 0 then shellEmit c j t
    else
      let k := c - j.start
      let hdr := shellHdr (leAt (if k = 0 then memRead t.ls j.inp 8 else j.got) 0 8)
      if !shellHdrOk hdr then shellBad c 0x02 j t
      else if !inLs t j.inp hdr.compLen then shellBad c 0x04 j t
      else
        let (bs, t) := if k < shellIn hdr then p1Read c j.by_ (j.inp + 64 * k) (min 64 (hdr.compLen - 64 * k)) t else ([], t)
        let got := j.got ++ bs
        let last := k + 1 = shellIn hdr
        if last && (shellDecode t.tables got).isNone then shellBad c 0x02 j t
        else
          let out := if last then (shellDecode t.tables got).getD [] else if 12 ≤ k && k < shellIn hdr then shellPrefix t.tables got else []
          let new := ((chunks 64 32 out).zipIdx.drop j.sent).map (fun p => (j.start + 12 + p.2, p.1))
          let j := { j with got := got, sent := j.sent + new.length, due := j.due ++ new }
          let next (j : ShellJob) : ShellJob :=
            if c + 1 = j.start + shellSpan hdr then
              { j with left := j.left - 1, inp := (j.inp + hdr.compLen + 7) / 8 * 8, start := c + 1, got := [], sent := 0, undo := [] }
            else j
          shellEmit c (next j) t

/-- Descriptors whose LS read falls in cycle `c` (R109, R158): no priority-1 access (R27), and a fault on Poison (R30). -/
def descCycle (c : Nat) (t : Tile) : Tile :=
  (List.range 4).foldl (fun t m =>
    let ds := (moverAt t m).queue
    if ds.any (fun d => d.readAt == c && d.raw.isNone) then
      ds.zipIdx.foldl (fun t p =>
        if p.1.readAt = c && p.1.raw.isNone then
          let t := if poisoned t p.1.addr 64 then raiseBy c p.1.by_ 0x02 t else t
          let (bs, t) := lsRead p.1.addr 64 t
          updMover t m (fun x => { x with queue := modAt (fun d => { d with raw := some (leNat bs) }) p.2 x.queue })
        else t) t
    else t) t

/-- Nothing of the stream is outstanding in the units, queues and movers (R124, R125). -/
def drained (t : Tile) : Bool :=
  moversEmpty t && t.units.mmas.isEmpty && t.units.adds.isEmpty && t.units.imports.isEmpty && t.units.impAdds.isEmpty &&
  t.units.reads.isEmpty && t.units.vecs.isEmpty && t.units.copies.isEmpty && t.units.clears.isEmpty &&
  t.units.shell.isNone && (List.range 5).all (fun p => (portAt t p).sendq.isEmpty)

/-- The report of a PHASE or END is owed once everything has drained (R124, R125). -/
def reportCycle (t : Tile) : Tile :=
  match t.seq.stream with
  | .phaseEnd false =>
    if drained t then { t with seq := { t.seq with stream := .phaseEnd true }, reports := t.reports ++ [.phaseEnd] } else t
  | .ended false =>
    if drained t then { t with seq := { t.seq with stream := .ended true }, reports := t.reports ++ [.endDone] } else t
  | _ => t

/-- The compute sub-domain of the tile is clocked for a job. -/
def computing (t : Tile) : Bool := (t.regs.state = .running || t.regs.state = .pruning) && !t.frozen

end Sys2Proof.Machine
end

