-- ==== Sys2Proof/Machine/Operands.lean ====
section
/-!
DEFINITION. Operand forms: the fields of the four bundle slots, their LS addresses, and which words a slot may hold
(R92–R94, R101–R108, R115).
-/

namespace Sys2Proof.Machine

/-- An LS address of a slot: a[reg] with bits [5:0] zero, plus `unit` times the offset (R93, R102). -/
def lsAddr (q : Seq) (reg off unit : Nat) : Nat := getA q reg / 64 * 64 + unit * off

/-- Operation code fields of the slots. -/
def mop (w : Nat) : Nat := field w 79 76
def vop (w : Nat) : Nat := field w 63 58
def xop (w : Nat) : Nat := field w 63 60
def cop (w : Nat) : Nat := field w 39 36

/-- Operation code of a slot. -/
def slotOp (k : SlotKind) (w : Nat) : Nat :=
  match k with
  | .m => mop w
  | .v => vop w
  | .x => xop w
  | .c => cop w

/-- Reserved operation codes (R94, R101, R108, R115). -/
def opReserved (k : SlotKind) (op : Nat) : Bool :=
  match k with
  | .m => 5 ≤ op
  | .v => op = 30 || op = 31 || 0x24 ≤ op
  | .x => 6 ≤ op
  | .c => 13 ≤ op

/-- M slot: format codes and scaled flags (R63), S_REG = 31 with a scaled flag (R94). -/
def mFields (w : Nat) : Bool :=
  let fa := field w 75 72
  let fb := field w 71 68
  let sa := w.testBit 67
  let sb := w.testBit 66
  fa ≤ 7 && fb ≤ 7 && !(sa && 6 ≤ fa) && !(sb && 6 ≤ fb) && !((sa || sb) && field w 20 16 = 31)

/-- A word an enabled slot may hold, as far as its fields alone say (R92). `lane` says which lanes name a neighbour of
the partition (R170). -/
def slotLegal (lane : Nat → Bool) (k : SlotKind) (w : Nat) : Bool :=
  let op := slotOp k w
  if opReserved k op then false
  else match k with
    | .m => if op = 0 then w = 0 else if op = 4 then true else mFields w
    | .v =>
      if op = 0 then w = 0
      else if op ≤ 29 then
        let vf := field w 57 55
        vf ≤ 4 && vecFmtOk op vf && (if op = 9 then field w 15 13 ≤ 4 else field w 15 13 = 0) && field w 12 0 = 0
      else if op = 0x20 then
        field w 55 54 ≠ 3 && (w.testBit 53 || field w 52 44 = 0) && field w 26 0 = 0
      else if op = 0x21 then field w 38 0 = 0
      else if op = 0x22 then
        field w 57 56 ≠ 3 && (field w 57 56 = 0 || (field w 38 34 = 0 && field w 33 22 = 0)) && field w 5 0 = 0
      else field w 40 0 = 0
    | .x =>
      if op = 0 then w = 0
      else if op = 1 then field w 34 0 = 0
      else if op = 2 then field w 27 0 = 0
      else if op = 3 then field w 32 0 = 0 && lane (field w 59 58)
      else if op = 4 then field w 25 0 = 0 && lane (field w 59 58)
      else field w 40 0 = 0
    | .c =>
      if op = 0 then w = 0
      else if op = 1 then field w 32 21 ≠ 0
      else if op = 2 then field w 12 0 = 0
      else if op = 3 then field w 24 0 = 0
      else if op = 4 then field w 17 0 = 0
      else if op = 5 then field w 3 0 = 0
      else if op = 6 then field w 35 0 = 0
      else if op = 7 then true
      else if op = 8 then field w 8 0 = 0
      else if op = 9 then field w 28 0 = 0 && 1 ≤ field w 35 29 && field w 35 29 ≤ 64
      else if op = 10 then field w 33 0 = 0
      else field w 35 0 = 0

/-! ### The 256-bit bundle (R90) -/

/-- The word of the first slot of a kind. -/
def slotWord (k : SlotKind) (slots : List Slot) : Option Nat := (slots.find? (·.kind = k)).map (·.word)

/-- A bundle with these slots enabled and this IDLE: M_EN, V_EN, X_EN, C_EN in [255:252], IDLE in [251:248], the slots from [247]
down; the bits of a slot that is not enabled are 0. -/
def packBundle (slots : List Slot) (idle : BitVec 4) : BitVec 256 :=
  let en (k : SlotKind) : BitVec 1 := BitVec.ofBool (slotWord k slots).isSome
  let word (k : SlotKind) (n : Nat) : BitVec n := BitVec.ofNat n ((slotWord k slots).getD 0)
  en .m ++ en .v ++ en .x ++ en .c ++ idle ++ word .m 80 ++ word .v 64 ++ word .x 64 ++ word .c 40

/-- The enabled slots of a bundle. -/
def bundleSlots (b : BitVec 256) : List Slot :=
  (if b.getLsbD 255 then [⟨.m, (b.extractLsb' 168 80).toNat⟩] else []) ++
  (if b.getLsbD 254 then [⟨.v, (b.extractLsb' 104 64).toNat⟩] else []) ++
  (if b.getLsbD 253 then [⟨.x, (b.extractLsb' 40 64).toNat⟩] else []) ++
  (if b.getLsbD 252 then [⟨.c, (b.extractLsb' 0 40).toNat⟩] else [])

/-- IDLE of a bundle. -/
def bundleIdle (b : BitVec 256) : Nat := (b.extractLsb' 248 4).toNat

/-- The neighbour of a tile in a direction (R170): 0 north, 1 east, 2 south, 3 west. -/
def neighbour (t : Nat) (dir : Nat) : Option Nat :=
  if dir = 0 then (if rowOf t = 0 then none else some (t - nCols))
  else if dir = 1 then (if colOf t + 1 = nCols then none else some (t + 1))
  else if dir = 2 then (if rowOf t + 1 = nRows then none else some (t + nCols))
  else (if colOf t = 0 then none else some (t - 1))

/-- A lane that leads to a tile of the same partition (R170). -/
def laneOk (s : State) (t dir : Nat) : Bool :=
  match neighbour t dir with
  | none => false
  | some u => inPart s (partOf s t) u

/-- The fields of an MMA (R94) as the array takes them; issued in cycle `c`. -/
def mmaJob (q : Seq) (w c : Nat) : MmaJob :=
  let fa := field w 75 72
  let fb := field w 71 68
  let feed := if mop w = 2 then 1 else if mop w = 3 then 2 else 0
  let step := stepBytes (pairDepth fa fb) (if feed = 1 then fa else fb)
  { bank := field w 65 64, w := some (toSigned 9 (field w 63 55)), fa := fa, fb := fb, sa := w.testBit 67,
    sb := w.testBit 66, baseA := lsAddr q (field w 54 50) (field w 49 38) 64,
    baseB := lsAddr q (field w 37 33) (field w 32 21) 64, baseSa := lsAddr q (field w 20 16) 0 64,
    baseSb := lsAddr q (field w 20 16 + 1) 0 64, k := field w 15 0, feed := feed,
    m := if feed = 0 then 1 else max 1 (ceilDiv step 64), s := 0, i := 0, at_ := c + 1, gotA := [], gotB := [],
    gotSa := [], gotSb := [], ge := none, by_ := bySeq q.pc }

/-- The LS spans an MMA reads lie inside the LS in force. -/
def mmaInLs (t : Tile) (j : MmaJob) : Bool :=
  let d := pairDepth j.fa j.fb
  let blocks := ceilDiv (j.k * d) 32
  (j.feed = 1 || inLs t j.baseA (j.k * stepBytes d j.fa)) && (j.feed = 2 || inLs t j.baseB (j.k * stepBytes d j.fb)) &&
  (!j.sa || inLs t j.baseSa (blocks * scaleBytes j.fa)) && (!j.sb || inLs t j.baseSb (blocks * scaleBytes j.fb))

/-- The fields of a V-slot vector operation (R102). -/
def vecJob (q : Seq) (w c : Nat) : VecJob :=
  { t := c, n := vop w, vf := field w 57 55, df := field w 15 13, dst := lsAddr q (field w 54 50) (field w 49 42) 128,
    s1 := lsAddr q (field w 41 37) (field w 36 29) 128, s2 := lsAddr q (field w 28 24) (field w 23 16) 128,
    res := [], nans := 0, by_ := bySeq q.pc }

/-- The LS spans of a vector operation lie inside the LS in force; no check for a second source not read (R141). -/
def vecInLs (t : Tile) (j : VecJob) : Bool :=
  let n := 4 * vfmtWidth j.vf
  inLs t j.s1 n && (vecOneSource j.n || inLs t j.s2 n) && inLs t j.dst (if j.n = 9 then 4 * vfmtWidth j.df else n) &&
  (!vecThirdSource j.n || inLs t j.dst n)

end Sys2Proof.Machine
end

