-- ==== Sys2Proof/Machine/Sequencer.lean ====
section
/-!
DEFINITION. The sequencer (R88–R128): the bundle at the front of the queue is fetched, then issues as a whole, is held as a
whole, or faults; and the meaning of every slot's operation.
-/

namespace Sys2Proof.Machine

/-! ### What holds a bundle (R120, R38, R110, R112, R113) -/

/-- The port and count of an X-slot send or receive. -/
def xPort (w : Nat) : Nat := if xop w ≤ 2 then 0 else field w 59 58 + 1
def xCount (w : Nat) : Nat := if xop w ≤ 2 then field w 42 35 else field w 40 33

/-- What holds an X-slot operation in cycle `c`. -/
def xHold (c : Nat) (t : Tile) (w : Nat) : Hold :=
  let op := xop w
  if op = 1 || op = 3 then
    if sendqSize (xPort w) < (portAt t (xPort w)).sendq.length + xCount w then .sendQueue else .none
  else if op = 2 || op = 4 then
    if postsSize (xPort w) < (portAt t (xPort w)).posts.length + xCount w then .posts else .none
  else if op = 5 then
    let m := moverAt t (field w 59 58)
    if !pruning t && (16 ≤ m.queue.length || (m.queue.length = 15 && m.freed = c)) then .mover else .none
  else .none

/-- What holds the C slot in cycle `c`: a WAIT whose counter, as it stood at the start of the cycle, is below the
threshold (R120). -/
def cHold (c : Nat) (t : Tile) (w : Nat) : Hold :=
  if cop w = 3 then
    let thr := getA t.seq (field w 29 25)
    if thr ≤ acSeen c t (field w 35 30) then .none else .counter (field w 35 30) thr
  else .none

/-- What holds the bundle. -/
def bundleHold (c : Nat) (t : Tile) (slots : List Slot) : Hold :=
  match (slotWord .c slots).map (cHold c t) with
  | some (.counter a b) => .counter a b
  | _ => ((slotWord .x slots).map (xHold c t)).getD .none

/-! ### What is illegal at the issue (R34, R92, R98, R104–R106, R116, R117, R128, R159) -/

/-- The bank is lent in cycle `c`. -/
def lent (q : Seq) (c bank : Nat) : Bool :=
  match q.grant with
  | some (first, last, b) => first ≤ c && c ≤ last && b = bank
  | none => false

/-- An M-slot word may issue in cycle `c`. -/
def mIssueOk (c : Nat) (t : Tile) (w : Nat) : Bool :=
  let op := mop w
  if op = 0 then true
  else if lent t.seq c (field w 65 64) then false
  else if op = 4 || field w 15 0 = 0 then true
  else t.units.mmas.isEmpty && !openIn t.seq c && mmaInLs t (mmaJob t.seq w c)

/-- A V-slot word may issue in cycle `c`. DESIGN CHOICE (log entry 93): the readout path that R104 speaks of is held by a GREAD too; a
SHELL_START with NBLK = 0 passes without effect while a stream runs. -/
def vIssueOk (c : Nat) (t : Tile) (w : Nat) : Bool :=
  let op := vop w
  if op = 0 then true
  else if op ≤ 29 then vecInLs t (vecJob t.seq w c)
  else if op = 0x20 then
    !lent t.seq c (field w 57 56) && t.units.reads.isEmpty &&
    inLs t (lsAddr t.seq (field w 43 39) (field w 38 27) 64) (64 * (readBeats (field w 55 54) + 1))
  else if op = 0x21 then
    !lent t.seq c (field w 57 56) && inLs t (lsAddr t.seq (field w 55 51) (field w 50 39) 64) 4096
  else if op = 0x22 then
    field w 21 6 = 0 || (t.units.shell.isNone && inLs t (lsAddr t.seq (field w 55 51) (field w 50 39) 64) 8)
  else inLs t (lsAddr t.seq (field w 57 53) (field w 52 41) 64) 64

/-- The LS address of an X-slot operation. -/
def xAddr (q : Seq) (w : Nat) : Nat :=
  if xop w ≤ 2 then lsAddr q (field w 59 55) (field w 54 43) 64 else lsAddr q (field w 57 53) (field w 52 41) 64

/-- An X-slot word may issue. -/
def xIssueOk (t : Tile) (w : Nat) : Bool :=
  let op := xop w
  if op = 0 then true
  else if op = 5 then inLs t (xAddr t.seq w) 64 && !t.moverGe.getLsbD (field w 59 58)
  else xCount w = 0 || inLs t (xAddr t.seq w) (unitBytes (xPort w) * xCount w)

/-- The target of a BRC in the bundle at `pc`. -/
def brcTarget (pc w : Nat) : Int := (pc : Int) + 32 * toSigned 20 (field w 32 13)

/-- A C-slot word may issue in cycle `c` beside the M-slot word `m`. DESIGN CHOICE (log entry 93): a GRANT with NCYC > 0 beside an MMA
with K > 0, whose open cycles would be the MMA's operand cycles, is illegal. -/
def cIssueOk (c : Nat) (t : Tile) (m : Option Nat) (w : Nat) : Bool :=
  let op := cop w
  if op = 1 then field w 20 0 = 0 || t.seq.loops.length < 8
  else if op = 2 then
    let tgt := brcTarget t.seq.pc w
    0 ≤ tgt && inLs t tgt.toNat 32 && !t.seq.loops.any (fun r => r.last = t.seq.pc && r.l = field w 35 33)
  else if op = 4 then
    field w 35 20 = 0 ||
    (t.units.mmas.isEmpty && t.seq.arrayBusy ≠ c && !openIn t.seq c &&
     !(m.any (fun w => 1 ≤ mop w && mop w ≤ 3 && field w 15 0 ≠ 0)))
  else true

/-- Every slot of the bundle may issue. -/
def issueOk (c : Nat) (t : Tile) (slots : List Slot) : Bool :=
  (slotWord .m slots).all (mIssueOk c t) && (slotWord .v slots).all (vIssueOk c t) &&
  (slotWord .x slots).all (xIssueOk t) && (slotWord .c slots).all (cIssueOk c t (slotWord .m slots))

/-! ### Effects of the slots, issued in cycle `c`; `q` is the sequencer at the start of the cycle (R91) -/

/-- MMA, MMA_SA, MMA_SB: the operation takes the array (R95, R97); K = 0 does nothing (R94). -/
def effMma (c : Nat) (q : Seq) (w : Nat) (t : Tile) : Tile :=
  if field w 15 0 = 0 then t else { t with units := { t.units with mmas := t.units.mmas ++ [mmaJob q w c] } }

/-- CLEAR: the bank is cleared in the next cycle and loads W (R100). -/
def effClear (c w : Nat) (t : Tile) : Tile :=
  { t with units := { t.units with clears := t.units.clears ++ [⟨field w 65 64, toSigned 9 (field w 63 55), c + 1⟩] } }

/-- Vector arithmetic: the lanes are taken in cycle `c` (R102). -/
def effVec (c : Nat) (q : Seq) (w : Nat) (t : Tile) : Tile :=
  { t with units := { t.units with vecs := t.units.vecs ++ [vecJob q w c] }, seq := { t.seq with lanes := c + 1 } }

/-- READOUT (R103, R104). -/
def effReadout (c : Nat) (q : Seq) (w : Nat) (t : Tile) : Tile :=
  let j : ReadJob :=
    { bank := field w 57 56, mode := field w 55 54, clr := w.testBit 53,
      wNew := if w.testBit 53 then some (toSigned 9 (field w 52 44)) else none,
      dst := lsAddr q (field w 43 39) (field w 38 27) 64, t := c, beats := [], nextAt := 0, ge := none, by_ := bySeq q.pc }
  { t with
    units := { t.units with reads := t.units.reads ++ [j] },
    seq := { t.seq with readBusy := c + 3 + readBeats (field w 55 54) } }

/-- IMPORT (R105). -/
def effImport (c : Nat) (q : Seq) (w : Nat) (t : Tile) : Tile :=
  let j : ImportJob :=
    { bank := field w 57 56, base := lsAddr q (field w 55 51) (field w 50 39) 64, beat := 0, at_ := c + 1, got := [],
      by_ := bySeq q.pc }
  { t with units := { t.units with imports := t.units.imports ++ [j] } }

/-- SHELL_START; NBLK = 0 starts nothing (R106). -/
def effShell (c : Nat) (q : Seq) (w : Nat) (t : Tile) : Tile :=
  let j : ShellJob :=
    { dest := field w 57 56, inp := lsAddr q (field w 55 51) (field w 50 39) 64,
      out := lsAddr q (field w 38 34) (field w 33 22) 64, left := field w 21 6, start := c + 1, got := [], sent := 0,
      due := [], undo := [], by_ := ⟨engShell, q.pc, 0, 0xFF⟩ }
  if field w 21 6 = 0 then t else { t with units := { t.units with shell := some j } }

/-- STATE_COPY (R107). -/
def effStateCopy (c : Nat) (q : Seq) (w : Nat) (t : Tile) : Tile :=
  { t with units := { t.units with copies := t.units.copies ++ [⟨c, lsAddr q (field w 57 53) (field w 52 41) 64, [], bySeq q.pc⟩] } }

/-- SEND, NSEND: one entry of the send queue in each of the next cycles (R110, R113). -/
def effSend (c : Nat) (q : Seq) (w : Nat) (t : Tile) : Tile :=
  let new : List SendEnt := (List.range (xCount w)).map (fun i => ⟨xAddr q w + unitBytes (xPort w) * i, c + 1 + i⟩)
  updPort t (xPort w) (fun x => { x with sendq := x.sendq ++ new })

/-- RECV, NRECV: one post in each of the next cycles (R112, R113). -/
def effRecv (c : Nat) (q : Seq) (w : Nat) (t : Tile) : Tile :=
  let cnt := if xop w = 2 then w.testBit 28 else w.testBit 26
  let ac := if xop w = 2 then field w 34 29 else field w 32 27
  let new : List Post := (List.range (xCount w)).map
    (fun i => ⟨xAddr q w + unitBytes (xPort w) * i, if cnt then some ac else none, c + 1 + i⟩)
  updPort t (xPort w) (fun x => { x with posts := x.posts ++ new })

/-- A descriptor just issued. -/
def descNew (addr readAt : Nat) (ge : Option Nat) (o : Origin) (scope : BitVec 2) : Desc :=
  { addr := addr, readAt := readAt, raw := none, ge := ge, started := false, pos := 0, sent := false, replies := [],
    ents := [], by_ := o, scope := scope }

/-- MOVE: the descriptor is read in the next cycle; while a prune is pending it is not queued and sets ERR (R43,
R109). -/
def effMove (c : Nat) (q : Seq) (w : Nat) (t : Tile) : Tile :=
  let m := field w 59 58
  if pruning t then setErr m t
  else updMover t m (fun x => { x with queue := x.queue ++ [descNew (xAddr q w) (c + 1) none (bySeq q.pc) q.scope] })

/-- LOOP: the counter is loaded; a nonzero COUNT starts the loop over the next BODY bundles (R115, R116). -/
def effLoop (w : Nat) (t : Tile) : Tile :=
  let q := setL t.seq (field w 35 33) (field w 20 0)
  let r : LoopRun :=
    { l := field w 35 33, first := q.pc + 32, last := q.pc + 32 * field w 32 21, body := field w 32 21, again := false }
  if field w 20 0 = 0 then { t with seq := q } else { t with seq := { q with loops := r :: q.loops } }

/-- BRC: the counter of a taken branch is decremented (R115). -/
def effBrc (w : Nat) (t : Tile) : Tile :=
  let l := getL t.seq (field w 35 33)
  if l = 0 then t else { t with seq := setL t.seq (field w 35 33) (l - 1) }

/-- GRANT: NCYC open cycles lend the bank; 0 grants nothing (R33, R115). -/
def effGrant (c w : Nat) (t : Tile) : Tile :=
  if field w 35 20 = 0 then t
  else { t with seq := { t.seq with grant := some (c + 1, c + field w 35 20, field w 19 18) } }

/-- A command starts with a swap of the banks, which the trace shows (R487, R500). -/
def startCommand (c layer opid : Nat) (t : Tile) : Tile :=
  let t := swapBanks c layer opid t
  traceAdd c 0x01 engSeq t.cnt.seq t

/-- MARK (R118, R487). -/
def effMark (c w : Nat) (t : Tile) : Tile := startCommand c (field w 35 20) (field w 19 4) t

/-- ADDI: a[D] ← a[S] + IMM modulo 2^48 (R115). -/
def effAddi (q : Seq) (w : Nat) (t : Tile) : Tile :=
  { t with seq := setA t.seq (field w 35 31) (ofSigned 48 ((getA q (field w 30 26) : Int) + toSigned 26 (field w 25 0))) }

/-- SETL, ENV, SCOPE (R115). -/
def effSetl (w : Nat) (t : Tile) : Tile := { t with seq := setL t.seq (field w 35 33) (field w 32 9) }
def effEnv (w : Nat) (t : Tile) : Tile := { t with seq := { t.seq with env := field w 35 29 } }
def effScope (w : Nat) (t : Tile) : Tile := { t with seq := { t.seq with scope := BitVec.ofNat 2 (field w 35 34) } }

/-- PHASE, END: issue stops, and the result-exact span that a stall began ends (R122); the report follows when all is drained (R124,
R125). DEDUCED (log entry 106): its trace entry carries the ending command's tag and number, and a command-start entry comes after it. -/
def effPhase (c : Nat) (t : Tile) : Tile :=
  let t := startCommand c 0xFFFF 0xFFFF (traceAdd c 0x08 engSeq t.cnt.seq t)
  { t with seq := { t.seq with stream := .phaseEnd false, exact := true } }
def effEnd (c : Nat) (t : Tile) : Tile :=
  let t := startCommand c 0xFFFF 0xFFFF (traceAdd c 0x09 engSeq t.cnt.seq t)
  { t with seq := { t.seq with stream := .ended false, exact := true } }

/-- Effect of an M-slot word. -/
def effM (c : Nat) (q : Seq) (w : Nat) (t : Tile) : Tile :=
  if mop w = 0 then t else if mop w = 4 then effClear c w t else effMma c q w t

/-- Effect of a V-slot word. -/
def effV (c : Nat) (q : Seq) (w : Nat) (t : Tile) : Tile :=
  let op := vop w
  if op = 0 then t
  else if op ≤ 29 then effVec c q w t
  else if op = 0x20 then effReadout c q w t
  else if op = 0x21 then effImport c q w t
  else if op = 0x22 then effShell c q w t
  else effStateCopy c q w t

/-- Effect of an X-slot word. -/
def effX (c : Nat) (q : Seq) (w : Nat) (t : Tile) : Tile :=
  let op := xop w
  if op = 0 then t
  else if op = 1 || op = 3 then effSend c q w t
  else if op = 2 || op = 4 then effRecv c q w t
  else effMove c q w t

/-- Effect of a C-slot word on everything but where the stream goes on. -/
def effC (c : Nat) (q : Seq) (w : Nat) (t : Tile) : Tile :=
  let op := cop w
  if op = 1 then effLoop w t
  else if op = 2 then effBrc w t
  else if op = 4 then effGrant c w t
  else if op = 7 then effAddi q w t
  else if op = 8 then effSetl w t
  else if op = 9 then effEnv w t
  else if op = 10 then effScope w t
  else t

/-! ### Where the stream goes on (R116, R117, R119) -/

/-- The loops that close on the bundle at `pc`, innermost first: the first that repeats stops the closing. Answers the
sequencer and the loop that repeats. DESIGN CHOICE (log entry 93): where the closing bundle itself writes the loop's counter, the
close works on the value written. -/
def closeLoops : List LoopRun → Seq → Seq × Option LoopRun
  | [], q => (q, none)
  | r :: rest, q =>
    if r.last = q.pc then
      let v := getL q r.l
      let q := if v = 0 then q else setL q r.l (v - 1)
      if 1 < v then ({ q with loops := q.loops.map (fun x => if x = r then { x with again := true } else x) }, some r)
      else closeLoops rest { q with loops := q.loops.erase r }
    else closeLoops rest q

/-- The bundle pointer and the next issue cycle after the bundle issued in `c` (R116, R117); after EPOCH the next bundle also waits
for an epoch to begin (R119). `running` are the loops that ran when it issued. -/
def goOn (c idle : Nat) (running : List LoopRun) (cw : Option Nat) (taken : Bool) (q : Seq) : Seq :=
  let (q, rep) := closeLoops running q
  let op := (cw.map cop).getD 0
  let w := cw.getD 0
  let skip := op = 1 && field w 20 0 = 0
  let long := match rep with
    | some r => 64 < r.body
    | none => false
  let next :=
    if taken then (brcTarget q.pc w).toNat
    else match rep with
      | some r => r.first
      | none => if skip then q.pc + 32 * (field w 32 21 + 1) else q.pc + 32
  { q with pc := next, nextIssue := c + 1 + (if taken || long then max idle 2 else idle), epochWait := decide (op = 6) }

/-! ### Fetch and issue (R26, R91, R92) -/

/-- The bundle at the pointer runs from the loop buffer: it lies in a running loop of at most 64 bundles whose body repeats (R116). -/
def inLoopBuffer (q : Seq) : Bool := q.loops.any (fun r => r.again && r.body ≤ 64 && r.first ≤ q.pc && q.pc ≤ r.last)

/-- The fetch of the beat that holds the bundle at the pointer, unless it is the beat fetched last or the loop buffer holds the
bundle (R26): a scheduled read, on Poison a fault (R27, R30). DESIGN CHOICE (log entry 14): it falls in the cycle in which the
first bundle taken from the beat is ready to issue. -/
def fetchBeat (c : Nat) (t : Tile) : Tile :=
  let q := t.seq
  if q.beat = q.pc / 64 + 1 || inLoopBuffer q then t
  else (p1Read c (bySeq q.pc) (q.pc / 64 * 64) 64 { t with seq := { q with beat := q.pc / 64 + 1 } }).2

/-- The whole bundle issues in cycle `c`: MARK, PHASE and END swap the counter banks first, so that the bundle counts
under the new command; then the slots in the order M, V, X, C; then the stream goes on. -/
def issueBundle (c idle : Nat) (slots : List Slot) (t : Tile) : Tile :=
  let q := t.seq
  let cw := slotWord .c slots
  let op := (cw.map cop).getD 0
  let taken := op = 2 && getL q (field (cw.getD 0) 35 33) ≠ 0
  let held := if q.hold = .none then 0 else c - q.holdAt
  let ac := field (cw.getD 0) 35 30
  let t := { t with seq := { t.seq with queue := t.seq.queue.tail, hold := .none } }
  let t := if op = 3 then traceAdd c 0x03 engSeq (capAt (2 ^ 32 - 1) held) (if q.hold = .none then traceAdd c 0x02 engSeq ac t else t)
    else t
  let t := if op = 5 then effMark c (cw.getD 0) t else t
  let t := if op = 11 then effPhase c t else if op = 12 then effEnd c t else t
  let t := countEv 0x02 1 t
  let t := ((slotWord .m slots).map (effM c q · t)).getD t
  let t := ((slotWord .v slots).map (effV c q · t)).getD t
  let t := ((slotWord .x slots).map (effX c q · t)).getD t
  let t := (cw.map (effC c q · t)).getD t
  { t with seq := goOn c idle q.loops cw taken t.seq }

/-- The bundle is held in this cycle: nothing of it issues, and it stays the next to issue (R91, R122). -/
def holdBundle (c us : Nat) (h : Hold) (t : Tile) : Tile :=
  let first := t.seq.hold = .none
  let t := match h with
    | .counter ac _ => countEv 0x04 1 (if first then traceAdd c 0x02 engSeq ac t else t)
    | _ => t
  countEv 0x03 1 { t with seq := { t.seq with hold := h, holdUs := if first then us else t.seq.holdUs,
                                              holdAt := if first then c else t.seq.holdAt, exact := false } }

/-- A fetched bundle in cycle `c`: it faults, is held, or issues. -/
def tryBundle (c us : Nat) (b : BitVec 256) (t : Tile) : Tile :=
  let slots := bundleSlots b
  if !slots.all (fun x => slotLegal t.nbr.getLsbD x.kind x.word) then raiseSeq c 0x04 t
  else match bundleHold c t slots with
    | .none => if issueOk c t slots then issueBundle c (bundleIdle b) slots t else raiseSeq c 0x04 t
    | h => holdBundle c us h t

/-- The tile's stream issues in cycle `c`: before the cycle F of a prune (R43), not earlier than the next issue cycle, and after
EPOCH in the first cycle of an epoch (`epoch`). -/
def mayIssue (epoch : Bool) (c : Nat) (t : Tile) : Bool :=
  computing t && t.seq.stream = .issuing && t.prune.all (fun x => c < x.1) && t.seq.nextIssue ≤ c && (!t.seq.epochWait || epoch)

/-- What the sequencer does in cycle `c`, `us` µs on the standby clock: the next bundle, if it is there and may issue, is fetched and
tried. -/
def seqCycle (epoch : Bool) (us c : Nat) (t : Tile) : Tile :=
  match t.seq.queue with
  | [] => t
  | b :: _ =>
    if !mayIssue epoch c t then t
    else
      let t := fetchBeat c t
      if t.seq.stream = .issuing then tryBundle c us b t else t

/-- Order of the slots of one bundle. -/
def slotRank (k : SlotKind) : Nat :=
  match k with
  | .m => 0
  | .v => 1
  | .x => 2
  | .c => 3

/-- The slots gathered once a slot of kind `k` arrives: slots of one bundle come in rising order, so one that does not
follow the last begins a new bundle. -/
def gather (k : SlotKind) (w : Nat) (slots : List Slot) : List Slot :=
  (if slots.all (fun x => slotRank x.kind < slotRank k) then slots else []) ++ [⟨k, w⟩]

/-- The word carries the row's operation code, or one that no operation has: a reserved code, or none with other bits set, which
fault (R92). -/
def opFits (k : SlotKind) (op w : Nat) : Bool := slotOp k w = op || opReserved k (slotOp k w) || (slotOp k w = 0 && w ≠ 0)

end Sys2Proof.Machine
end

