-- ==== Sys2Proof/Machine/Pipe.lean ====
section
/-!
DEFINITION. Resident groups, their registers, and the load/store pipe, which serves one sector of LS or group-local memory a cycle
(R27, R29, R133–R135, R148, R149).
-/

namespace Sys2Proof.Machine

/-! ### Groups and their registers (R133–R135) -/

def groupAt (t : Tile) (g : Nat) : Option Group := fmGet none t.ge.groups g

def setGroup (t : Tile) (g : Nat) (x : Option Group) : Tile :=
  { t with ge := { t.ge with groups := fmSet none t.ge.groups g x } }

def updGroup (t : Tile) (g : Nat) (f : Group → Group) : Tile :=
  match groupAt t g with
  | none => t
  | some x => setGroup t g (some (f x))

/-- Registers per thread, R (R133). -/
def regCount (x : Group) : Nat := 8 * x.rpt

def gReg (x : Group) (r lane : Nat) : Nat := fmGet 0 x.regs (32 * r + lane)

def setReg (x : Group) (r lane v : Nat) : Group := { x with regs := fmSet 0 x.regs (32 * r + lane) (v % 2 ^ 32) }

/-- A predicate as a lane mask; p0 reads 1 in every lane (R134). -/
def gPred (x : Group) (p : Nat) : Nat := if p = 0 then 2 ^ 32 - 1 else fmGet 0 x.preds p

/-- A predicate written in the lanes of a mask; writes to p0 are ignored (R134). -/
def setPred (x : Group) (p mask v : Nat) : Group :=
  if p = 0 then x else { x with preds := fmUpd 0 x.preds p (fun old => (old &&& (2 ^ 32 - 1 - mask)) ||| (v &&& mask)) }

/-- The lanes of a mask, ascending. -/
def lanesOf (mask : Nat) : List Nat := (List.range 32).filter mask.testBit

/-- A register written in the lanes of a mask. -/
def writeReg (x : Group) (mask r : Nat) (f : Nat → Nat) : Group :=
  (lanesOf mask).foldl (fun x i => setReg x r i (f i)) x

/-- A register that waits for memory has no ready cycle yet; one that waits for the load/store pipe, `soon`, has none either, but its
group stays active (R136). -/
def never : Nat := 2 ^ 80
def soon : Nat := 2 ^ 79

/-- What memory instructions wait for beside registers: the group's acquires (R146). -/
def acqReg : Nat := 264

/-- The cycle in which register `r` (predicate p at 256 + p) is available (R135). -/
def readyAt (x : Group) (r : Nat) : Nat := fmGet 0 x.ready r

def setReady (x : Group) (rs : List Nat) (c : Nat) : Group :=
  { x with ready := rs.foldl (fun m r => fmSet 0 m r c) x.ready }

/-- The lowest active lane (R156). -/
def lowLane (x : Group) : Nat := (lanesOf x.active.toNat).headD 0

/-- Every lane that has not exited is active (R155). -/
def converged (x : Group) : Bool := x.active.toNat + x.exited.toNat = 2 ^ 32 - 1

/-- Converged, and no lane has exited (R155). -/
def complete (x : Group) : Bool := converged x && x.exited = 0

/-- Registers an access of a size code names from `r` up (R143). -/
def spanRegs (size r : Nat) : List Nat := if size ≤ 2 then [r] else if size = 3 then [r, r + 1] else [r, r + 1, r + 2, r + 3]

/-- A value's registers written in one lane: little-endian over v(r), v(r + 1), … (R143). -/
def putLane (x : Group) (size r lane : Nat) (bs : List Byte) : Group :=
  (spanRegs size r).zipIdx.foldl (fun x p => setReg x p.1 lane (leAt bs (4 * p.2) 4)) x

/-- A lane's store bytes. -/
def laneBytes (x : Group) (size r lane : Nat) : List Byte :=
  ((spanRegs size r).flatMap (fun q => natLe 4 (gReg x q lane))).take (2 ^ size)

/-! ### The load/store pipe (R148, R149) -/

/-- The lanes of an operation whose bytes lie in a sector. -/
def sectorLanes (o : PipeOp) (a : Nat) : List (Nat × Nat × List Byte) := o.lanes.filter (fun l => l.2.1 / 32 = a / 32)

/-- The sector at `a` read in cycle `c`: the lanes' registers filled; a Poison beat is a fault of the group (R30). -/
def pipeLoad (c a : Nat) (o : PipeOp) (t : Tile) : Tile :=
  let n := 2 ^ o.size
  (sectorLanes o a).foldl (fun t l =>
    if poisoned t l.2.1 n then raise c engGroup 0x02 0 o.pc o.act o.g t
    else
      let (bs, t) := lsRead l.2.1 n t
      updGroup t o.g (fun x => putLane x o.size o.reg l.1 bs)) t

/-- The sector at `a` written: the lanes' bytes, in the operation's order. -/
def pipeStore (a : Nat) (o : PipeOp) (t : Tile) : Tile := (sectorLanes o a).foldl (fun t l => lsWrite l.2.1 l.2.2 false t) t

/-- The pipe in cycle `c`, once every other access of the cycle has been made: the next sector, if its bank is free; it tries again in
the next cycle otherwise, and after 64 losses in a row only priority-1 accesses stand before it (R27, R29). A load's registers are
ready five cycles after its last sector (R149). -/
def pipeCycle (c : Nat) (t : Tile) : Tile :=
  match t.ge.pipe with
  | [] => t
  | o :: ops =>
    let bs := banksOf (o.sectors.headD 0) 32
    if bankTaken c 7 bs t then
      let n := t.units.pipeLost + 1
      let u := { t.units with pipeLost := n, boosts := if n = 64 then t.units.boosts ++ bs.map (7, ·) else t.units.boosts }
      countEv 0x0F 1 { t with units := u }
    else
      let t := takeBanks c 7 bs { t with units := { t.units with pipeLost := 0 } }
      let t := if o.load then pipeLoad c (o.sectors.headD 0) o t else pipeStore (o.sectors.headD 0) o t
      if o.sectors.length ≤ 1 then
        let t := { t with ge := { t.ge with pipe := ops } }
        if o.load then
          let rs := spanRegs o.size o.reg ++ (if o.acq then [acqReg] else [])
          updGroup t o.g (fun x => setReady x (rs.filter (fun r => readyAt x r = soon)) (c + 5))
        else t
      else { t with ge := { t.ge with pipe := { o with sectors := o.sectors.tail } :: ops } }

/-- Sectors still to be served. -/
def pipeLeft (t : Tile) : Nat := (t.ge.pipe.map (·.sectors.length)).sum

end Sys2Proof.Machine
end

