-- ==== Sys2Proof/Machine/Translate.lean ====
section
/-!
DEFINITION. Lookups through a partition's ranges, their caches and permissions (R271–R276).
-/

namespace Sys2Proof.Machine

/-- The slot is being withdrawn, and cycle `c` is w or later (R282). -/
def leftBy (x : Xl) (c i : Nat) : Bool := x.withdrawal.any (fun w => !w.window && w.w ≤ c && w.slots.contains i)

/-- The slot and entry of a partition's range that `va` falls in, for a lookup that completes in cycle `c`. -/
def rangeIn (s : State) (p c va : Nat) : Option (Nat × Nat) :=
  (xlAt s p).table.find? (fun x => rHits x.2 va && !leftBy (xlAt s p) c x.1)

/-- A lookup in the present cycle. -/
def findRange (s : State) (p va : Nat) : Option (Nat × Nat) := rangeIn s p s.cycle va

/-- A list with `x` moved to its front, cut to `n` elements: least recently used entries leave (R273). -/
def touchLru (n x : Nat) (xs : List Nat) : List Nat := (x :: xs.filter (· ≠ x)).take n

/-- Partition counts of entry 0x8020 (R495). -/
def pcountAdd (s : State) (p i n : Nat) : State :=
  { s with pcount := fmUpd [] s.pcount p (fun m => fmUpd 0 m i (fun v => satAdd (2 ^ 64 - 1) v n)) }

/-- Entries a partition may hold in a die's range cache: 28 for each of its blocks that has a tile on the die; a seam
block counts on both of its dies (R274). -/
def dieQuota (s : State) (p d : Nat) : Nat :=
  28 * ((((partTiles s p).filter (fun t => dieOf t = d)).map blockOf).dedup).length

/-- A lookup by tile `t` that found slot `i`: the lookaside and the die cache fill, misses are counted (R273, R490,
R495). -/
def noteLookup (s : State) (p t i : Nat) : State :=
  if (tileAt s t).look.contains i then updTile s t (fun x => { x with look := touchLru 32 i x.look })
  else
    let d := dieOf t
    let hit := (fmGet [] (xlAt s p).dieCache d).contains i
    let s := if hit then s else pcountAdd s p 9 1
    let q := dieQuota s p d
    let s := updXl s p (fun x => { x with dieCache := fmUpd [] x.dieCache d (touchLru q i) })
    updTile s t (fun x => countEv 0x13 1 { x with look := touchLru 32 i x.look })

/-- The permission an access needs (R272). -/
structure Need where
  read : Bool
  write : Bool
  deriving DecidableEq, Repr

/-- A group-engine access at `va`: a DM range that permits it (R205, R272). The pipe looks up in the cycle after issue (R275). -/
def gxRange (s : State) (p va : Nat) (need : Need) : Option (Nat × Nat) :=
  match rangeIn s p (s.cycle + 1) va with
  | some (i, e) => if rTarget e = 0 && (!need.read || rRead e) && (!need.write || rWrite e) then some (i, rAddr e va) else none
  | none => none

end Sys2Proof.Machine
end

