-- ==== Sys2Proof/Machine/Cache.lean ====
section
/-!
DEFINITION. The tile's L1 as the group engine and the protocol use it (R229–R235, R241, R252): lines, pseudo-LRU
victims, miss entries, the write buffer, write-backs.
-/

namespace Sys2Proof.Machine

/-- Message type codes of R244. -/
def tGETS : Nat := 0x01
def tGETM : Nat := 0x02
def tRDU : Nat := 0x03
def tWRU : Nat := 0x04
def tATOMIC : Nat := 0x05
def tLADD : Nat := 0x06
def tDISCARD : Nat := 0x07
def tMRD : Nat := 0x08
def tDMW : Nat := 0x09
def tWB : Nat := 0x0A
def tCNT : Nat := 0x0B
def tFWDS : Nat := 0x10
def tFWDM : Nat := 0x11
def tINV : Nat := 0x12
def tRECALL : Nat := 0x13
def tRINGINV : Nat := 0x14
def tDATA : Nat := 0x18
def tACK : Nat := 0x19
def tFWDACK : Nat := 0x1A
def tINVACK : Nat := 0x1B
def tNOTPRES : Nat := 0x1C
def tWBIF : Nat := 0x1D
def tATOMR : Nat := 0x1E
def tRINGACK : Nat := 0x1F

/-- An MW header with every field 0. -/
def mwZero : MwHdr := ⟨0, 0, 0, 0, false, 0, 0, 0⟩

/-- A coherence message with its header fields, the type-specific ones zero (R243). -/
def cmsg (part line tile : Nat) (smask : BitVec 4) : CMsg :=
  { part := part, line := line, tile := BitVec.ofNat 13 tile, smask := smask, info := 0, dmask := 0, poison := false,
    data := [], mask := 0, aop := 0, size := 0, ord := 0, off := 0, ops := [], vals := [], ac := 0, cntTile := 0, count := 0,
    mw := mwZero, mover := 0 }

/-- The slices of a partition in the order taken (R237). -/
def sliceList (s : State) (p : Nat) : List Nat := fmGet [] s.sliceLists p

/-- The home slice of a line of a partition (R238). -/
def homeOf (s : State) (p line : Nat) : Nat :=
  let l := sliceList s p
  l.getD (crc32c (natLe 5 line) % max 1 l.length) 0

/-! ### Messages across Graft (R240, R338, R340, R342) -/

/-- The die of a home slice: 64 slices a die (R13), and of a stack: five a die (R12). -/
def sliceDie (h : Nat) : Nat := h / 64
def stackDie (k : Nat) : Nat := k / 5

/-- The pair link from a die to a neighbour, and the direction (R338). -/
def pairLink (d e : Nat) : Option (Nat × Nat) :=
  let dir := if d < e then 0 else 1
  let a := min d e
  let b := max d e
  if a = 0 && b = 1 then some (0, dir) else if a = 2 && b = 3 then some (1, dir)
  else if a = 0 && b = 2 then some (2, dir) else if a = 1 && b = 3 then some (3, dir) else none

/-- The die after `d` on the ring H0, H1, H3, H2 (R240, R246). -/
def ringNext (d : Nat) : Nat := [1, 3, 0, 2].getD d 0

/-- The links that a message crosses from one die to another: to the diagonal die it goes one step further along the ring (R240); the
Husk, die 4, has a link to each (R338). -/
def dieHops (d e : Nat) : List (Nat × Nat) :=
  if d = e then []
  else if 4 ≤ d then [(4 + e, 0)]
  else if 4 ≤ e then [(4 + d, 1)]
  else match pairLink d e with
    | some x => [x]
    | none => (pairLink d (ringNext d)).toList ++ (pairLink (ringNext d) e).toList

/-- The bundle of a link that carries index `i`, a line number or a sending tile, in a role (R342). -/
def roleBundle (s : State) (l role i : Nat) : Option Nat :=
  let bs := (List.range 64).filter (fun b => (bundleAt s l b).role = role)
  bs[i % max 1 bs.length]?

/-- The last clock wire of the bundle that carries index `i` over a hop has failed (R362). -/
def hopDead (s : State) (role i : Nat) (hop : Nat × Nat) : Bool :=
  match roleBundle s hop.1 role i with
  | some b => if hop.2 = 0 then (bundleAt s hop.1 b).dead0 else (bundleAt s hop.1 b).dead1
  | none => false

/-- A new error second where the present one is over (R347). -/
def errSecond (s : State) : State :=
  if s.us < s.graft.second + 1000000 then s
  else
    let clear (y : Bundle) : Bundle := { y with sec0 := 0, sec1 := 0 }
    { s with graft := { s.graft with second := s.us, bundles := fmMap bundleReset clear s.graft.bundles } }

/-- `n` failed checks counted at a bundle, for one direction (R346, R347). -/
def bundleErr (s : State) (l b dir n : Nat) : State :=
  let s := if n = 0 then s else errSecond s
  updBundle s l b (fun y =>
    if dir = 0 then { y with err0 := satAdd (2 ^ 32 - 1) y.err0 n, sec0 := y.sec0 + n }
    else { y with err1 := satAdd (2 ^ 32 - 1) y.err1 n, sec1 := y.sec1 + n })

/-- The die at which a message enters the memory system, and the one that it goes to. -/
def msgDies (s : State) (m : NetMsg) : Nat × Nat :=
  let dst (d : NetDst) : Nat := match d with
    | .tile t => dieOf t
    | .home h => sliceDie h
    | .ring d => d
  match m with
  | .coh d (some t) _ _ => (dieOf t, dst d)
  | .coh d none typ c =>
    let t := c.tile.toNat
    (if 0x1FF0 ≤ t && t ≤ 0x1FF3 then t - 0x1FF0
     else if typ = tDMW then (if t < nTiles then dieOf t else 4) else sliceDie (homeOf s c.part c.line), dst d)
  | .mw x a => (a.getD (dieOf x.hdr.dst), dieOf x.hdr.dst)
  | .mack h => (dieOf h.srcTile, dieOf h.srcTile)

/-- The role of the bundles that carry a message: memory (1) with data, coherence (2) without (R340). -/
def msgRole (m : NetMsg) : Nat :=
  match m with
  | .coh _ _ typ c => if typ = tATOMIC || typ = tATOMR || typ = tLADD || typ = tDMW || !(cohData typ c).isEmpty then 1 else 2
  | _ => 1

/-- The index by which a message takes a bundle: its line, or the tile that sends it (R342). -/
def msgIndex (m : NetMsg) : Nat :=
  match m with
  | .coh _ _ _ c => c.line
  | .mw x _ => x.hdr.srcTile
  | .mack h => h.dst

/-- Where a message goes, for the order on a link. -/
def msgDst (m : NetMsg) : NetDst :=
  match m with
  | .coh d _ _ _ => d
  | .mw x _ => .tile x.hdr.dst
  | .mack h => .tile h.srcTile

/-- Two messages cross the same links in the same bundles to the same place, with one line or sending tile. -/
def sameWay (s : State) (a b : NetMsg) : Bool :=
  let hops (m : NetMsg) : List (Nat × Nat) := dieHops (msgDies s m).1 (msgDies s m).2
  !(hops a).isEmpty && hops a = hops b && msgRole a = msgRole b && msgIndex a = msgIndex b && msgDst a = msgDst b

/-- A message is lost in a bundle whose clock has failed (R346, R362). -/
def lostOnLink (s : State) (m : NetMsg) : Bool := (dieHops (msgDies s m).1 (msgDies s m).2).any (hopDead s (msgRole m) (msgIndex m))

/-- A failed check of a message's flits, counted at its bundle (R346). DESIGN CHOICE (log entry 102): of two links on the way, the first. -/
def hopErr (s : State) (m : NetMsg) : State :=
  match dieHops (msgDies s m).1 (msgDies s m).2 with
  | [] => s
  | hop :: _ => match roleBundle s hop.1 (msgRole m) (msgIndex m) with
    | some b => bundleErr s hop.1 b hop.2 1
    | none => s

/-- The message is discarded on a link (R346). -/
def loseMsg (s : State) (m : NetMsg) : State := takeOff (hopErr s m) m

/-- The messages that were sent before `m` on its way and have not arrived. Order is kept there (R342): where `m` arrives first, the
links have discarded them (R346). -/
def ahead (s : State) (m : NetMsg) : List NetMsg := (s.net.takeWhile (fun x => decide (x ≠ m))).filter (sameWay s m)

/-- A message with POISON set on its flits. -/
def withPoison (m : NetMsg) : NetMsg :=
  match m with
  | .coh d src typ c => .coh d src typ { c with poison := true }
  | .mw x a => .mw { x with poison := true } a
  | .mack h => .mack h

/-- The message in flight that arrives as `m`: `m` itself, or one to which a failed DPAR has given POISON (R346). -/
def inFlight (s : State) (m : NetMsg) : Option NetMsg :=
  if s.net.contains m then some m
  else s.net.find? (fun x => withPoison x = m && msgRole x = 1 && !(dieHops (msgDies s x).1 (msgDies s x).2).isEmpty)

/-- A message arrives, and `f` is what it does. One that is in flight leaves the network; it does nothing where a dead bundle has lost it. -/
def arrive (s : State) (m : NetMsg) (f : State → State) : State :=
  match inFlight s m with
  | none => f s
  | some x =>
    let s := (ahead s x).foldl loseMsg s
    if lostOnLink s x then loseMsg s x
    else f (takeOff (if x = m then s else hopErr s x) x)

/-- A coherence message arrives, whoever put it on the network: its sender, or the memory attach on the sender's behalf. -/
def arriveCoh (s : State) (dst : NetDst) (src typ : Nat) (m : CMsg) (f : State → State) : State :=
  let a := NetMsg.coh dst (some src) typ m
  arrive s (if (inFlight s a).isSome then a else .coh dst none typ m) f

/-- A message from a tile to a line's home. -/
def toHome (s : State) (t typ : Nat) (m : CMsg) : NetMsg := .coh (.home (homeOf s m.part m.line)) (some t) typ m

/-- A tile's L1 changed. -/
def updL1 (t : Tile) (f : L1 → L1) : Tile := { t with l1 := f t.l1 }

/-- One more reply awaited outside the miss entries. -/
def addAwait (a : Await) (t : Tile) : Tile := updL1 t (fun l => { l with awaits := l.awaits ++ [a] })

/-- The L1's line with a number; state I where none is held. -/
def l1Line (t : Tile) (line : Nat) : L1Line := fmGet l1LineReset t.l1.lines line

/-- A line of the L1 replaced. -/
def setLine (t : Tile) (line : Nat) (x : L1Line) : Tile :=
  { t with l1 := { t.l1 with lines := fmSet l1LineReset t.l1.lines line x } }

/-- A line dropped. -/
def dropLine (t : Tile) (line : Nat) : Tile := setLine t line l1LineReset

/-- Sets of the L1 (R230): lines div 16. -/
def l1Sets (t : Tile) : Nat := l1Size t.regs.splitCur / 2048
def l1Set (t : Tile) (line : Nat) : Nat := line % max 1 (l1Sets t)

/-- Tree pseudo-LRU over 16 ways: the 15 node bits say which half was used less recently; node 1 is the root. Use of a
way points every node of its path away from it. -/
def plruTouch (tree way : Nat) : Nat :=
  let step (x : Nat × Nat) (b : Nat) : Nat × Nat :=
    let bit := (way >>> b) % 2
    (putField x.1 x.2 x.2 (1 - bit), 2 * x.2 + bit)
  ((step (step (step (step (tree, 1) 3) 2) 1) 0)).1

/-- The way that the tree picks below node `n` at `depth` levels above the leaves, among the ways that `ok` allows: at each node the
half it points to, or the other half where the first has none. -/
def plruPick (tree : Nat) (ok : Nat → Bool) : Nat → Nat → Option Nat
  | 0, n => if ok (n - 16) then some (n - 16) else none
  | depth + 1, n =>
    let b := field tree n n
    match plruPick tree ok depth (2 * n + b) with
    | some w => some w
    | none => plruPick tree ok depth (2 * n + (1 - b))

/-- The lines of a set, by way. -/
def setWays (t : Tile) (set : Nat) : List (Nat × L1Line) :=
  t.l1.lines.filter (fun x => l1Set t x.1 = set && x.2.st ≠ .i)

/-- A line has a transaction pending at this L1. -/
def linePending (t : Tile) (line : Nat) : Bool :=
  t.l1.miss.any (·.line = line) || t.l1.wbuf.any (·.line = line) || t.l1.wbs.any (·.line = line)

/-- The way a fill of `line` takes: its own, a free one, else the tree pseudo-LRU victim among the ways without a pending
transaction; none if every way is pending (R230). -/
def fillWay (t : Tile) (line : Nat) : Option Nat :=
  let x := l1Line t line
  if x.st ≠ .i then some x.way
  else
    let set := l1Set t line
    let ways := setWays t set
    match (List.range 16).find? (fun w => !ways.any (fun y => y.2.way = w)) with
    | some w => some w
    | none => plruPick (fmGet 0 t.l1.plru set) (fun w => !ways.any (fun y => y.2.way = w && linePending t y.1)) 4 1

/-- The line that holds a way of a set. -/
def lineAt (t : Tile) (set way : Nat) : Option (Nat × L1Line) := (setWays t set).find? (fun y => y.2.way = way)

/-- A line's bytes with the carried sectors of a message put in. -/
def mergeSectors (data carried : List Byte) (mask : BitVec 4) : List Byte :=
  ((List.range 4).foldl (fun (p : List Byte × List Byte) i =>
    if mask.getLsbD i then (p.1 ++ fit 0 32 (p.2.take 32), p.2.drop 32)
    else (p.1 ++ ((fit 0 128 data).drop (32 * i)).take 32, p.2)) ([], carried)).1

/-- Bytes put over a line where their mask bit is 1. -/
def mergeMask (data new : List Byte) (mask : Nat) : List Byte :=
  (List.range 128).map (fun i => if mask.testBit i then new.getD i 0 else data.getD i 0)

/-- The sectors a byte mask touches. -/
def maskSectors (mask : Nat) : BitVec 4 :=
  BitVec.ofNat 4 ((List.range 4).foldl (fun acc i => if field mask (32 * i + 31) (32 * i) = 0 then acc else acc + 2 ^ i) 0)

/-- A read of the words of the sectors `mask` of a held line: single-bit errors are corrected and counted in FC0, and a double-bit
error makes the data Poison (R30). -/
def lineErrors (x : L1Line) (mask : BitVec 4) : Nat × Bool :=
  let of_ (ws : List Nat) := ws.filter (fun w => mask.getLsbD (w / 4))
  ((of_ x.sbe).length, !(of_ x.dbe).isEmpty)

/-- The WB of an M or O line that leaves: message, write-back entry, event (R235). -/
def writeBack (s : State) (t line : Nat) : State :=
  let x := l1Line (tileAt s t) line
  if x.st = .m || x.st = .o then
    let (n, bad) := lineErrors x x.dirty
    let m := { cmsg (partOf s t) line t x.dirty with dmask := x.dirty, data := packSectors x.data x.dirty, poison := bad }
    let s := send s (toHome s t tWB m)
    updTile s t (fun y => countEv 0x0C 1 (fcAdd 0 n
      (dropLine { y with l1 := { y.l1 with wbs := y.l1.wbs ++ [⟨line, x.dirty⟩] } } line)))
  else updTile s t (fun y => dropLine y line)

/-- A tile's dirty lines. -/
def dirtyLines (t : Tile) : List Nat := (t.l1.lines.filter (fun x => x.2.st = .m || x.2.st = .o)).map (·.1)

/-- Dirty lines of a tile written back as far as its 8 write-back entries go (R235). -/
def writeBackSome (s : State) (t : Nat) : State :=
  let y := tileAt s t
  ((dirtyLines y).take (8 - y.l1.wbs.length)).foldl (fun s l => writeBack s t l) s

/-- From frame F of a prune on, a write-back entry that comes free takes the next dirty line (R43, R235). -/
def drainPruned (s : State) (t : Nat) : State := if (tileAt s t).prune.any (·.2) then writeBackSome s t else s

/-- The group slot of a memory operation whose job is gone: no fault comes of it (R163). -/
def jobGone : Nat := 65

/-- What stays of an L1's transactions when its groups are gone: the replies still come, for no one (R163, R252). -/
def quietL1 (l : L1) : L1 :=
  { l with miss := l.miss.map (fun e => { e with loads := [], discard := false }),
           wbuf := l.wbuf.map (fun e => { e with mask := 0, gs := [], discard := false }),
           awaits := l.awaits.map (fun a => { a with g := jobGone }) }

/-- A fill of the line finds its way, and the victim's write-back, if it needs one, an entry; the fill waits otherwise
(R230, R235). -/
def canInstall (t : Tile) (line : Nat) : Bool :=
  match fillWay t line with
  | none => false
  | some w => match lineAt t (l1Set t line) w with
    | some (v, x) => v = line || !(x.st = .m || x.st = .o) || t.l1.wbs.length < 8
    | none => true

/-- A line installed by a fill, the victim of its way written back or dropped first (R230, R235). -/
def install (s : State) (t line : Nat) (st : L1State) (valid dirty : BitVec 4) (data : List Byte) : State :=
  let x := tileAt s t
  match fillWay x line with
  | none => s
  | some w =>
    let set := l1Set x line
    let s := match lineAt x set w with
      | some (v, _) => if v = line then s else writeBack s t v
      | none => s
    updTile s t (fun y => setLine { y with l1 := { y.l1 with plru := fmUpd 0 y.l1.plru set (fun p => plruTouch p w) } }
      line ⟨st, valid, dirty, w, data, [], []⟩)

/-- A use of a line held (pseudo-LRU). -/
def useLine (t : Tile) (line : Nat) : Tile :=
  let x := l1Line t line
  if x.st = .i then t
  else { t with l1 := { t.l1 with plru := fmUpd 0 t.l1.plru (l1Set t line) (fun p => plruTouch p x.way) } }

/-- The write buffer's entry for a line. -/
def wbufOf (t : Tile) (line : Nat) : Option WbufEntry := t.l1.wbuf.find? (·.line = line)

/-- The bytes [off, off + n) of a line as the tile's group engine reads them: buffered bytes over the line's (R233,
R145); none where they are not all held. -/
def l1Read (t : Tile) (line off n : Nat) : Option (List Byte) :=
  let x := l1Line t line
  let b := wbufOf t line
  let byte (i : Nat) : Option Byte :=
    match b with
    | some e => if e.mask.testBit i then some (e.data.getD i 0)
                else if x.st ≠ .i && x.valid.getLsbD (i / 32) then some (x.data.getD i 0) else none
    | none => if x.st ≠ .i && x.valid.getLsbD (i / 32) then some (x.data.getD i 0) else none
  ((List.range n).map (fun i => byte (off + i))).foldr (fun o acc => match o, acc with
    | some v, some vs => some (v :: vs)
    | _, _ => none) (some [])

/-- A store merges into a line held in M or E, which is M from then on (R233); a word written loses its errors (R30). -/
def storeHit (t : Tile) (line : Nat) (data : List Byte) (mask : Nat) : Tile :=
  let x := l1Line t line
  let keep (ws : List Nat) : List Nat := ws.filter (fun w => field mask (8 * w + 7) (8 * w) = 0)
  setLine t line { x with st := .m, dirty := x.dirty ||| maskSectors mask, data := mergeMask x.data data mask,
                          sbe := keep x.sbe, dbe := keep x.dbe }

/-- A store's bytes join the line's write-buffer entry, or a new one (R233). -/
def bufferStore (t : Tile) (g pc lanes line : Nat) (data : List Byte) (mask : Nat) (discard : Bool) : Tile :=
  match wbufOf t line with
  | some e =>
    let e' : WbufEntry := { e with data := mergeMask e.data data mask, mask := e.mask ||| mask,
                                   gs := if e.gs.contains g then e.gs else e.gs ++ [g], discard := e.discard || discard }
    { t with l1 := { t.l1 with wbuf := t.l1.wbuf.map (fun y => if y.line = line then e' else y) } }
  | none => { t with l1 := { t.l1 with wbuf := t.l1.wbuf ++ [⟨line, mergeMask (zeros 128) data mask, mask, [g], discard, pc, lanes⟩] } }

end Sys2Proof.Machine
end

