-- ==== Sys2Proof/Machine/Dm.lean ====
section
/-!
DEFINITION. Device memory behind the home slices (R290–R297, R302) and the dirty log (R286, R287).
-/

namespace Sys2Proof.Machine

/-- F(q): the XOR of the six-bit fields of q (R291). -/
def foldQ (q : Nat) : Nat :=
  field q 5 0 ^^^ field q 11 6 ^^^ field q 17 12 ^^^ field q 23 18 ^^^ field q 29 24 ^^^ field q 31 30

/-- The stack of a physical address and the address within it, for a list of active stacks (R291). -/
def stackOf (active : List Nat) (pa : Nat) : Nat × Nat :=
  let n := max 1 active.length
  let g := pa / 512
  let q := g / n
  let r := g % n
  (active.getD ((r + foldQ q % n) % n) 0, q * 512 + pa % 512)

/-- DM capacity in bytes (R290). -/
def dmCapacity (s : State) : Nat := s.dm.active.length * 96 * 2 ^ 30

/-- The stack has failed in service: reads give Poison, writes are discarded (R302). -/
def stackDead (s : State) (k : Nat) : Bool := (stackAt s k).state = .shutDown

/-- A bit of DEV_EVENT set: 0 SEAL, 1 POWER, 2 SLICE, 3 PORT, 4 RESET; each rising bit raises PF vector 0 (R527). -/
def devEvent (b : Nat) (s : State) : State :=
  if s.dev.event.toNat.testBit b then s
  else raiseMsix 0 0 { s with dev := { s.dev with event := s.dev.event ||| BitVec.ofNat 5 (2 ^ b) } }

/-- A slice changed, its HS_EVENT bits among the changes: one that rises is a device event (R268, R527). -/
def sliceEvent (s : State) (h : Nat) (f : Slice → Slice) : State :=
  let x := sliceAt s h
  let y := f x
  let s := updSlice s h f
  if (y.timeout && !x.timeout) || (y.poisonFill && !x.poisonFill) || (y.late && !x.late) then devEvent 2 s else s

/-- A reset of a domain asked for (1 job, 2 partition, 3 device, 4 module): the largest domain stands (R484). -/
def askReset (s : State) (domain cause : Nat) : State :=
  match s.rcv.asked with
  | some (d, _) => if d < domain then { s with rcv := { s.rcv with asked := some (domain, cause) } } else s
  | none => { s with rcv := { s.rcv with asked := some (domain, cause) } }

/-- A stack declared failed in service (R302): powered down, its failed mark set but for a temperature shutdown, a device
reset asked for. -/
def failStack (s : State) (k : Nat) (hot : Bool) : State :=
  let st := (stackAt s k).state
  if st = .off || st = .excluded || st = .shutDown then s
  else
    let s := updStack s k (fun x => { x with state := .shutDown, ref := 0, reason := 3, hot := hot })
    let s := if hot then s else { s with dm := { s.dm with failed := fmSet false s.dm.failed k true } }
    askReset s 3 0x03

/-- An uncorrectable codeword counted (R294); the threshold of 0x4060 within one hour fails the stack (R302). -/
def countUe (s : State) (k pa : Nat) : State :=
  let times := (stackAt s k).ueTimes.filter (fun t => s.us < t + 3600000000) ++ [s.us]
  let s := updStack s k (fun x => { x with ue := satAdd (2 ^ 64 - 1) x.ue 1, last := pa, ueTimes := times })
  if dictNat s 0x4060 0 64 ≤ times.length then failStack s k false else s

/-- One codeword read by the controller (R294): the bytes, or Poison. With four or more symbols in error the outcome
is one of two, and the bytes of a miscorrection are free. -/
def readCodeword (s : State) (cw : Nat) : State × List Byte × Bool :=
  let pa := 64 * cw
  let k := (stackOf s.dm.active pa).1
  let data := memRead s.dm.mem pa 64
  let n := fmGet 0 s.dm.errs cw
  if stackDead s k then (s, zeros 64, true)
  else if s.dm.poison.contains cw && n ≤ 1 then (s, zeros 64, true)
  else if n = 0 then (s, data, false)
  else if n = 1 then (updStack s k (fun x => { x with ce := satAdd (2 ^ 64 - 1) x.ce 1 }), data, false)
  else if n ≤ 3 then (countUe s k pa, zeros 64, true)
  else
    let s' := { s with fresh := s.fresh + 65 }
    if Config.freeNat s.fresh % 2 = 0 then (countUe s' k pa, zeros 64, true)
    else (s', (List.range 64).map (fun i => Config.freeByte (s.fresh + 1 + i)), false)

/-- One line read from DM: Poison where either codeword is (R294). -/
def dmReadLine (s : State) (line : Nat) : State × List Byte × Bool :=
  let (s, a, pa) := readCodeword s (2 * line)
  let (s, b, pb) := readCodeword s (2 * line + 1)
  (s, a ++ b, pa || pb)

/-- A codeword's poison pattern set or cleared. -/
def setPoison (d : Dm) (cw : Nat) (on : Bool) : Dm :=
  { d with poison := if on then (if d.poison.contains cw then d.poison else d.poison ++ [cw]) else d.poison.filter (· ≠ cw),
           errs := fmSet 0 d.errs cw 0 }

/-- One line written to DM: both codewords whole, with the poison pattern and zero data for a line in state P (R295,
R296). A stack that has failed discards it (R302). -/
def dmWriteLine (s : State) (line : Nat) (data : List Byte) (poison : Bool) : State :=
  let wr (s : State) (cw : Nat) (bs : List Byte) : State :=
    if stackDead s (stackOf s.dm.active (64 * cw)).1 then s
    else
      let d := setPoison s.dm cw poison
      { s with dm := { d with mem := memWrite d.mem (64 * cw) (if poison then zeros 64 else bs) } }
  wr (wr s (2 * line) (data.take 64)) (2 * line + 1) (data.drop 64)

/-- A bit of a byte of DM set by the Husk, and whether it was 0. -/
def dmSetBit (s : State) (a bit : Nat) : State × Bool :=
  let v := memByte s.dm.mem a
  ({ s with dm := { s.dm with mem := memSet s.dm.mem a (v ||| BitVec.ofNat 8 (1 <<< bit)) } }, !v.getLsbD bit)

/-- A write to a line of a partition is logged: its granule's bit is set, and a record appended if the bit was 0; a
full ring drops the record and sets OVERFLOW (R286, R287). -/
def dlogNote (s : State) (p line : Nat) : State :=
  let x := xlAt s p
  let base := (partAt s p).dmBase
  let pa := 128 * line
  if !x.dlogEnable || pa < base || base + (partAt s p).dmSize ≤ pa then s
  else
    let g := (pa - base) / 65536
    let (s, new) := dmSetBit s (x.dlogBitmap + g / 8) (g % 8)
    if !new || x.dlogRing2 = 0 then s
    else
      let size := 2 ^ x.dlogRing2
      let used := (x.dlogProd + 2 ^ 32 - x.dlogCons) % 2 ^ 32
      if used = size then updXl s p (fun x => { x with dlogOverflow := true })
      else
        let s := { s with dm := { s.dm with mem := memWrite s.dm.mem (x.dlogRing + 8 * (x.dlogProd % size)) (natLe 8 g) } }
        updXl s p (fun x => { x with dlogProd := (x.dlogProd + 1) % 2 ^ 32 })

end Sys2Proof.Machine
end

