-- ==== Sys2Proof/Machine/Carry.lean ====
section
/-!
DEFINITION. Mover bytes that the memory side carries to their destination (R208, R213, R318, R388): MW packets from a
home slice or the memory attach, line writes, pages of the Seedbank, window cells.
-/

namespace Sys2Proof.Machine

/-- Where bytes go: kind 0 LS (tile · 2^23 + offset), 1 DM (physical address), 2 Seedbank (extent · 2^48 + offset),
3 window (its PBASE form); the tile and counter that count them; 1 + the source counter that the mover's reads feed, or
0. The form of an MRD's `vals`. -/
structure Dest where
  kind : Nat
  addr : Nat
  cntTile : Nat
  ac : Nat
  sac : Nat
  deriving DecidableEq, Repr

def destVals (d : Dest) : List Nat := [d.kind, d.addr, d.cntTile, d.ac, d.sac]

def destOf (v : List Nat) : Dest := ⟨v.getD 0 0, v.getD 1 0, v.getD 2 0, v.getD 3 0, v.getD 4 0⟩

/-- Pieces of [a, a + n) that cross no multiple of `unit`, as (start, length); `fuel` bounds their number. -/
def pieces (unit : Nat) : Nat → Nat → Nat → List (Nat × Nat)
  | 0, _, _ => []
  | fuel + 1, a, n =>
    if n = 0 then []
    else
      let k := min n (unit - a % unit)
      (a, k) :: pieces unit fuel (a + k) (n - k)

/-- The bytes of `data`, which begins at `base`, for a piece. -/
def cut (base : Nat) (data : List Byte) (p : Nat × Nat) : List Byte := (data.drop (p.1 - base)).take p.2

/-- The sender of a window write's packets, in place of a mover's number: the memory attach. -/
def windowMover : Nat := 4

/-- The header of a mover packet of tile `t`, mover `m`, to an LS piece (R213). -/
def mwHdr (t m dst off len ac : Nat) : MwHdr :=
  { dst := dst, off := off, len8 := len / 8, ac := ac, cnt := decide (m < 4 || t = dst), srcTile := t, mover := m, status := 0 }

/-- A line write of a mover's bytes to DM (R244): sent to the home for the issuing tile. -/
def dmwMsg (p t m pa : Nat) (data : List Byte) (d : Dest) (poison : Bool) : CMsg :=
  let off := pa % 128
  let mask := (2 ^ data.length - 1) * 2 ^ off
  { cmsg p (pa / 128) t (maskSectors mask) with
    mask := BitVec.ofNat 128 mask, data := zeros off ++ data, ac := d.ac, cntTile := d.cntTile,
    mover := m, poison := poison }

/-- Bytes of a page on their way into the Seedbank: they join the mover's page write, or begin one (R318, R319). -/
def seedFill (s : State) (by_ : Nat × Nat) (p ext off : Nat) (data : List Byte) (poison : Bool) (d : Dest) : State :=
  let page := off / 16384
  let lo := off % 16384
  let lines := if poison then (List.range 128).filter (fun i => lo < 128 * i + 128 && 128 * i < lo + data.length) else []
  let isIt (w : SeedWrite) : Bool := w.by_ = by_ && w.ext = ext && w.page = page && w.left ≠ 0
  let add (w : SeedWrite) : SeedWrite :=
    { w with data := w.data ++ [(lo, data)], poison := w.poison ++ lines, left := w.left - data.length }
  let ws :=
    if s.seed.writes.any isIt then s.seed.writes.map (fun w => if isIt w then add w else w)
    else s.seed.writes ++ [add { by_ := by_, part := p, ext := ext, page := page, data := [], poison := [], left := 16384,
                                 ac := d.ac, cntTile := d.cntTile }]
  { s with seed := { s.seed with writes := ws } }

/-- A window cell before it is sent (R370, R388). -/
def windowCell (s : State) (pb : Nat) (data : List Byte) (d : Dest) : LockCell :=
  { kind := 3, jobTag := 0, tick := 0, pos := 0, poison := false, dstModule := BitVec.ofNat 10 (pbModule pb),
    srcModule := BitVec.ofNat 10 (memberNo s), rpart := BitVec.ofNat 5 (pbRpart pb), window := BitVec.ofNat 6 (pbWindow pb),
    offset := BitVec.ofNat 43 (pbWinOff pb), cntTile := BitVec.ofNat 13 d.cntTile, ac := BitVec.ofNat 6 d.ac,
    len8 := BitVec.ofNat 4 (data.length / 8), hops := 0, crc := 0, data := fit 0 64 data }

/-- Window-bound bytes cut into cells that cross no 64-byte boundary of the window offset (R388). -/
def cutCells (s : State) (t m : Nat) (data : List Byte) (d : Dest) : State :=
  let ps := pieces 64 (data.length + 1) (pbWinOff d.addr) data.length
  let cells := ps.map (fun q => (t, m, windowCell s (d.addr + (q.1 - pbWinOff d.addr)) (cut (pbWinOff d.addr) data q) d))
  { s with gt := { s.gt with cut := s.gt.cut ++ cells } }

/-- Bytes on their way from the memory attach of die `die` (4: the Husk) to a mover's destination. Poison bytes bound for a window leave as bytes that
the manual does not state: a window cell carries no POISON (R370). -/
def deliver (s : State) (p t m die : Nat) (data : List Byte) (poison : Bool) (d : Dest) : State :=
  if d.kind = 0 then
    let off := lsDestOff d.addr
    (pieces 128 (data.length + 1) off data.length).foldl (fun s q =>
      send s (.mw ⟨mwHdr t m (d.addr / 2 ^ 64) q.1 q.2 d.ac, cut off data q, poison, 0⟩ (some die))) s
  else if d.kind = 1 then
    (pieces 128 (data.length + 1) d.addr data.length).foldl (fun s q =>
      let msg := dmwMsg p t m q.1 (cut d.addr data q) d poison
      send s (.coh (.home (homeOf s p msg.line)) none tDMW msg)) s
  else if d.kind = 2 then
    seedFill s (t, m) p (d.addr / 2 ^ 48) (d.addr % 2 ^ 48) data poison d
  else if poison then
    let n := data.length
    cutCells { s with fresh := s.fresh + n } t m ((List.range n).map (fun i => Config.freeByte (s.fresh + i))) d
  else cutCells s t m data d

/-- Source bytes read by a mover of tile `t`: counted at its source counter, where it has one, in the next cycle (R212), and as event
0x0D. -/
def noteSource (s : State) (t n sac : Nat) : State :=
  if t < nTiles then updTile s t (fun y => countEv 0x0D n (if sac = 0 then y else acLater s.cycle (sac - 1) n y)) else s

/-- A mover's line read served by the home: the bytes go on to the destination that the MRD names (R208, R213). -/
def carry (s : State) (m : CMsg) (data : List Byte) (poison : Bool) : State :=
  let d := destOf m.vals
  deliver (noteSource s m.mw.srcTile data.length d.sac) m.part m.mw.srcTile m.mw.mover (sliceDie (homeOf s m.part m.line)) data poison d

end Sys2Proof.Machine
end

