-- ==== Sys2Proof/Machine/Home.lean ====
section
/-!
DEFINITION. The home slice (R236–R264): data array, directory, transactions, races, timeout, add-to-line, discard.
-/

namespace Sys2Proof.Machine

/-! ### Entries and lines -/

def dirAt (s : State) (h line : Nat) : DirEntry := fmGet dirReset (sliceAt s h).dir line

def setDir (s : State) (h line : Nat) (e : DirEntry) : State :=
  updSlice s h (fun x => { x with dir := fmSet dirReset x.dir line e })

def hlineAt (s : State) (h line : Nat) : Option HLine := fmGet none (sliceAt s h).lines line

def setHline (s : State) (h line : Nat) (x : Option HLine) : State :=
  updSlice s h (fun y => { y with lines := fmSet none y.lines line x })

/-- The set of the data array and of the directory: PA[18:7] (R236). -/
def hset (line : Nat) : Nat := line % 4096

/-- The holders of an entry's S copies by tile, in pointer mode. -/
def entryEmpty (e : DirEntry) : Bool := e.sharers.isEmpty && e.vec.isNone

/-- An entry with one more sharer: the fifth switches to vector mode (R245). -/
def addSharer (e : DirEntry) (t : Nat) : DirEntry :=
  match e.vec with
  | some v => { e with vec := some (v ||| BitVec.ofNat 4 (1 <<< dieOf t)) }
  | none =>
    if e.sharers.contains t then e
    else if e.sharers.length < 4 then { e with sharers := e.sharers ++ [t] }
    else
      let v := (e.sharers ++ [t]).foldl (fun acc u => acc ||| (1 <<< dieOf u)) 0
      { e with sharers := [], vec := some (BitVec.ofNat 4 v) }

/-- A line is read from DM or written to it by slice `h` over a bundle whose clock has failed: the data is lost on the way (R12, R340,
R342, R362). -/
def fillLost (s : State) (h line : Nat) : Bool :=
  let k := (stackOf s.dm.active (128 * line)).1
  (dieHops (stackDie k) (sliceDie h)).any (hopDead s 1 line)
def dmLost (s : State) (h line : Nat) : Bool :=
  let k := (stackOf s.dm.active (128 * line)).1
  (dieHops (sliceDie h) (stackDie k)).any (hopDead s 1 line)

/-- A line of a slice written to DM. -/
def homeToDm (s : State) (h line : Nat) (data : List Byte) (poison : Bool) : State :=
  if dmLost s h line then s else dmWriteLine s line data poison

/-- The lines of a set of the data array, and the entries of a set of the directory. -/
def lineSet (s : State) (h line : Nat) : List (Nat × Option HLine) := (sliceAt s h).lines.filter (fun y => hset y.1 = hset line)
def dirSet (s : State) (h line : Nat) : List (Nat × DirEntry) := (sliceAt s h).dir.filter (fun y => hset y.1 = hset line)

/-- What leaves the data array, or finds no place there: a dirty line goes to DM, a line in state P as the poison pattern, a DISCARDED line nowhere
(R236, R255, R262). -/
def leaveArray (s : State) (h line : Nat) (x : HLine) : State :=
  if (dirAt s h line).st = .p then setDir (homeToDm s h line (zeros 128) true) h line dirReset
  else if x.dirty && !x.discarded then pcountAdd (homeToDm s h line x.data false) (sliceAt s h).part.toNat 11 128
  else s

/-- A line leaves the data array. -/
def evictHline (s : State) (h line : Nat) : State :=
  match hlineAt s h line with
  | none => s
  | some x => leaveArray (setHline s h line none) h line x

/-- Lines of a set that may leave the data array: those without an open transaction, or, where every line has one, those without a pending
LADD (R261). -/
def leavers (s : State) (h line : Nat) : List (Nat × Option HLine) :=
  let set := lineSet s h line
  let sl := sliceAt s h
  let idle := set.filter (fun y => !sl.txns.any (fun t => t.msg.line = y.1))
  if idle.isEmpty then set.filter (fun y => !sl.txns.any (fun t => t.msg.line = y.1 && t.typ = tLADD)) else idle

/-- A line put into the data array; where its set's 16 ways are full (R236), one leaves first. Which one the spec leaves open: it is free. With a
LADD pending on all 16, the line goes to DM in its place. -/
def putHline (s : State) (h line : Nat) (x : HLine) : State :=
  if (hlineAt s h line).isSome || (lineSet s h line).length < 16 then setHline s h line (some x)
  else
    let from_ := leavers s h line
    match from_[Config.freeNat s.fresh % max 1 from_.length]? with
    | some v => setHline (evictHline { s with fresh := s.fresh + 1 } h v.1) h line (some x)
    | none => leaveArray s h line x

/-- The line becomes Poison: state P, no holder, held as a dirty line so that it reaches DM as the poison pattern; the
slice records it (R242, R255, R268). Where the directory has no room for its entry, it goes to DM at once. -/
def makePoison (s : State) (h line : Nat) : State :=
  let e := dirAt s h line
  let s :=
    if e.st = .i && 16 ≤ (dirSet s h line).length then homeToDm (setHline s h line none) h line (zeros 128) true
    else putHline (setDir s h line { e with st := .p, owner := none, sharers := [], vec := none }) h line ⟨zeros 128, true, false⟩
  updSlice s h (fun x => { x with poisonLine := 128 * line })

/-- The home's data of a line as a read finds it (R236, R242, R263): from the array, zero bytes while the DISCARDED mark
is held (counted, and delivered as Poison where 0x3060 is in force), else filled from DM. -/
def homeRead (s : State) (h line : Nat) : State × List Byte × Bool :=
  let p := (sliceAt s h).part.toNat
  if (dirAt s h line).st = .p then (s, zeros 128, true)
  else match hlineAt s h line with
    | some x =>
      let s := pcountAdd s p 0 1
      if x.discarded then
        let s := pcountAdd s p 6 1
        if (partAt s p).discPoison then (makePoison s h line, zeros 128, true) else (s, zeros 128, false)
      else (s, x.data, false)
    | none =>
      let (s, data, poison) := dmReadLine s line
      let s := pcountAdd (pcountAdd s p 1 1) p 10 128
      if poison then
        (makePoison (sliceEvent s h (fun y => { y with poisonFill := true })) h line, zeros 128, true)
      else (putHline s h line ⟨data, false, false⟩, data, false)

/-- A whole line written at the home: the DISCARDED mark goes. -/
def homeWrite (s : State) (h line : Nat) (data : List Byte) : State :=
  dlogNote (putHline s h line ⟨data, true, false⟩) (sliceAt s h).part.toNat line

/-- Sectors merged into the home's line; data that arrives with POISON makes the line Poison (R255). -/
def homeMerge (s : State) (h line : Nat) (smask : BitVec 4) (data : List Byte) (poison : Bool) : State :=
  if smask = 0 then s
  else if poison then dlogNote (makePoison s h line) (sliceAt s h).part.toNat line
  else
    let base := match hlineAt s h line with
      | some x => if x.discarded then zeros 128 else x.data
      | none => []
    if smask = 15 || (hlineAt s h line).isSome then homeWrite s h line (mergeSectors base data smask)
    else
      let (s, old, bad) := dmReadLine s line
      if bad then makePoison (sliceEvent s h (fun y => { y with poisonFill := true })) h line
      else homeWrite s h line (mergeSectors old data smask)

/-! ### Answers -/

/-- A message from the home to a tile. -/
def fromHome (t typ : Nat) (m : CMsg) : NetMsg := .coh (.tile t) none typ m

/-- The header of a home's message: TILE is 0x1FFF, a home (R243). -/
def homeMsg (m : CMsg) : CMsg := cmsg m.part m.line 0x1FFF 0

/-- DATA from the home with a grant (R243: 0 none, 1 S, 2 E, 3 M). -/
def dataMsg (m : CMsg) (smask : BitVec 4) (grant : Nat) (data : List Byte) (poison : Bool) : CMsg :=
  { homeMsg m with smask := smask, info := BitVec.ofNat 3 grant, data := packSectors data smask, poison := poison }

/-- ACK to the sender (the Husk, as a sender, has no tile and needs none), and CNT where bytes are counted. -/
def ackMsg (m : CMsg) (poison : Bool) : NetMsg := fromHome m.tile.toNat tACK { homeMsg m with poison := poison, mover := m.mover }

def sendAck (s : State) (m : CMsg) (poison : Bool) : State := if m.tile.toNat < nTiles then send s (ackMsg m poison) else s

/-- CNT for a mover's line write. The mover's ACK may leave only once the bytes have been counted (R212): the message carries, beside
what is on the wires, the tile and the mover to be answered. -/
def cntMsg (m : CMsg) (n : Nat) : NetMsg :=
  fromHome m.cntTile tCNT { homeMsg m with ac := m.ac, count := n, cntTile := m.tile.toNat, mover := m.mover }

/-- The answer that a CNT carries with it. -/
def cntAck (m : CMsg) : CMsg := { m with tile := BitVec.ofNat 13 m.cntTile }

/-- The reply of a request answered with POISON (R253, R256). -/
def poisonMsg (typ : Nat) (m : CMsg) : NetMsg :=
  if typ = tGETS || typ = tGETM || typ = tRDU then fromHome m.tile.toNat tDATA (dataMsg m m.smask 0 (zeros 128) true)
  else ackMsg m true

/-- A request answered with POISON; a mover read's data travels on with it. -/
def poisonReply (s : State) (typ : Nat) (m : CMsg) : State :=
  if typ = tMRD then carry s m (zeros (8 * m.mw.len8)) true else send s (poisonMsg typ m)

/-! ### Applying a request once every copy has answered -/

/-- The bytes of a request's mask as a number. -/
def cMask (m : CMsg) : Nat := m.mask.toNat

/-- One lane's operation of an atomic on the old value (R150): the new value. -/
def atomicOp (aop size old v new : Nat) : Nat :=
  let n := 8 * size
  let a := toSigned n old
  let b := toSigned n v
  if aop = 0 then (old + v) % 2 ^ n
  else if aop = 1 then (vecFn 1 0 0 old v 0).1
  else if aop = 2 then ofSigned n (min a b)
  else if aop = 3 then ofSigned n (max a b)
  else if aop = 4 then min old v
  else if aop = 5 then max old v
  else if aop = 6 then old &&& v
  else if aop = 7 then old ||| v
  else if aop = 8 then old ^^^ v
  else if aop = 9 then v
  else if old = v then new else old

/-- The lanes' operations one after another: the final value and each lane's value before its own (R151). -/
def atomicLanes (aop size : Nat) : Nat → List (Nat × Nat) → Nat × List Nat
  | old, [] => (old, [])
  | old, (v, new) :: rest =>
    let r := atomicLanes aop size (atomicOp aop size old v new) rest
    (r.1, old :: r.2)

/-- The top code of the window form (R260). -/
def winTop : Int := 2 ^ 63 - 1

/-- One addition in the window form (R260). -/
def winAdd (a b : Int) : Int :=
  if a = -(2 ^ 63) || b = -(2 ^ 63) then -(2 ^ 63)
  else if (a = winTop && b = -winTop) || (a = -winTop && b = winTop) then -(2 ^ 63)
  else if a = winTop || b = winTop then winTop
  else if a = -winTop || b = -winTop then -winTop
  else clampInt (-winTop) winTop (a + b)

/-- One element added in an add-to-line format (R258). -/
def laddElem (fmt a b : Nat) : Nat :=
  if fmt = 0 then (a + b) % 2 ^ 32
  else if fmt = 1 then (a + b) % 2 ^ 64
  else if fmt = 2 then ofSigned 64 (winAdd (toSigned 64 a) (toSigned 64 b))
  else (vecFn 1 0 0 a b 0).1

/-- A line plus a line (R258). -/
def laddLine (fmt : Nat) (old new : List Byte) : List Byte :=
  let n := if fmt = 1 || fmt = 2 then 8 else 4
  (List.range (128 / n)).flatMap (fun i => natLe n (laddElem fmt (leAt old (n * i) n) (leAt new (n * i) n)))

/-- The transaction on a line. -/
def txnOn (s : State) (h line : Nat) : Option Txn := (sliceAt s h).txns.find? (fun t => t.msg.line = line)

def updTxn (s : State) (h line : Nat) (f : Txn → Txn) : State :=
  updSlice s h (fun x => { x with txns := x.txns.map (fun t => if t.msg.line = line then f t else t) })

def dropTxn (s : State) (h line : Nat) : State :=
  updSlice s h (fun x => { x with txns := x.txns.filter (fun t => t.msg.line ≠ line) })

/-- The entry with no holder: I, or P where the line is Poison. -/
def clearEntry (s : State) (h line : Nat) : State :=
  if (dirAt s h line).st = .p then s else setDir s h line dirReset

/-- A newly allocated entry takes the next allocation number (R248). -/
def allocEntry (s : State) (h line : Nat) (e : DirEntry) : State :=
  if (dirAt s h line).st = .i then
    let n := (sliceAt s h).allocNo
    setDir (updSlice s h (fun x => { x with allocNo := n + 1 })) h line { e with alloc := n }
  else setDir s h line { e with alloc := (dirAt s h line).alloc }

/-- A request on a line without remote dirty data is answered from the home (R251). -/
def serveRead (s : State) (h typ : Nat) (m : CMsg) (own : Option (List Byte)) : State :=
  let (s, data, poison) := match own with
    | some d => (s, d, false)
    | none => homeRead s h m.line
  if poison then poisonReply s typ m
  else if typ = tMRD then carry s m ((data.drop m.off).take (8 * m.mw.len8)) false
  else if typ = tRDU then send s (fromHome m.tile.toNat tDATA (dataMsg m m.smask 0 data false))
  else
    let e := dirAt s h m.line
    let t := m.tile.toNat
    if e.st = .i && m.smask = 15 then
      let s := allocEntry s h m.line ⟨.em, some t, [], none, 0⟩
      dlogNote (send s (fromHome t tDATA (dataMsg m m.smask 2 data false))) m.part m.line
    else
      let s := allocEntry s h m.line { addSharer e t with st := .s }
      send s (fromHome t tDATA (dataMsg m m.smask 1 data false))

/-- WRU and DMW applied: the masked bytes are merged; a partial one on a Poison line is refused with POISON; a whole line
clears Poison and the DISCARDED mark (R256, R257, R263). -/
def applyWrite (s : State) (h typ : Nat) (m : CMsg) : State :=
  let full := cMask m = 2 ^ 128 - 1
  let done (s : State) : State :=
    if typ = tDMW && m.cntTile < nTiles then send s (cntMsg m (popCount 128 (cMask m))) else sendAck s m false
  if m.poison then done (dlogNote (makePoison s h m.line) m.part m.line)
  else if full then done (homeWrite (setDir s h m.line dirReset) h m.line (fit 0 128 m.data))
  else
    let (s, old, poison) := homeRead s h m.line
    if poison then sendAck s m true
    else done (homeWrite (clearEntry s h m.line) h m.line (mergeMask old m.data (cMask m)))

/-- ATOMIC applied as one indivisible update (R151). -/
def applyAtomic (s : State) (h : Nat) (m : CMsg) : State :=
  let (s, old, poison) := homeRead s h m.line
  if poison then poisonReply s tATOMIC m
  else
    let r := atomicLanes m.aop m.size (leAt old m.off m.size) m.ops
    let data := old.take m.off ++ natLe m.size r.1 ++ old.drop (m.off + m.size)
    let s := homeWrite (clearEntry s h m.line) h m.line data
    if m.count = 1 then send s (fromHome m.tile.toNat tATOMR { homeMsg m with vals := r.2, size := m.size })
    else sendAck s m false

/-- LADD applied by the adder (R258–R260). -/
def applyLadd (s : State) (h : Nat) (m : CMsg) : State :=
  let (s, old, poison) := homeRead s h m.line
  if poison then sendAck s m true
  else
    let s := homeWrite (clearEntry s h m.line) h m.line (laddLine m.info.toNat old m.data)
    send (pcountAdd s m.part (if m.info = 3 then 8 else 7) 1) (ackMsg m false)

/-- The transaction's effect once every awaited reply is in (R251, R252). -/
def finish (s : State) (h : Nat) (t : Txn) : State :=
  let m := t.msg
  let e := dirAt s h m.line
  let r := m.tile.toNat
  if t.typ = 0xFF then clearEntry s h m.line
  else if t.typ = tGETS || t.typ = tRDU || t.typ = tMRD then
    match t.gave with
    | some info =>
      let s := if t.typ = tGETS then
          setDir s h m.line (if info = 2 then { addSharer e r with st := .o }
            else { addSharer (match e.owner with
                  | some o => if info = 1 then addSharer e o else e
                  | none => e) r with st := .s, owner := none })
        else if info = 2 then setDir s h m.line { e with st := .o }
        else s
      if t.typ = tMRD then serveRead s h t.typ m (some (t.data.getD (zeros 128))) else s
    | none =>
      let s := if e.st = .em || e.st = .o then
          setDir s h m.line (if entryEmpty e then dirReset else { e with st := .s, owner := none }) else s
      serveRead s h t.typ m none
  else if t.typ = tGETM then
    let owns := e.st = .o && e.owner = some r
    if t.gave.isSome then
      dlogNote (allocEntry s h m.line ⟨.em, some r, [], none, 0⟩) m.part m.line
    else if owns && !t.gotWb then
      let s := allocEntry s h m.line ⟨.em, some r, [], none, 0⟩
      dlogNote (send s (fromHome r tDATA (dataMsg m 0 3 [] false))) m.part m.line
    else
      let (s, data, poison) := homeRead s h m.line
      if poison then poisonReply s tGETM m
      else
        let s := allocEntry s h m.line ⟨.em, some r, [], none, 0⟩
        dlogNote (send s (fromHome r tDATA (dataMsg m 15 3 data false))) m.part m.line
  else if t.typ = tWRU || t.typ = tDMW then applyWrite (clearEntry s h m.line) h t.typ m
  else if t.typ = tATOMIC then applyAtomic (clearEntry s h m.line) h m
  else if t.typ = tDISCARD then
    if e.st = .p then sendAck s m false
    else
      let s := dlogNote (putHline (setDir s h m.line dirReset) h m.line ⟨zeros 128, false, true⟩) m.part m.line
      sendAck s m false
  else s

/-! ### Opening a transaction (R251) -/

/-- The ring order H0, H1, H3, H2 from a die on (R246). -/
def ringFrom (d : Nat) : List Nat :=
  if d = 0 then [0, 1, 3, 2] else if d = 1 then [1, 3, 2, 0] else if d = 3 then [3, 2, 0, 1] else [2, 0, 1, 3]

/-- Invalidations to an entry's sharers, but `skip`: INV to each in pointer mode, one RING_INV in vector mode. Answers
the state and the replies awaited (R246). -/
def invalidate (s : State) (h : Nat) (m : CMsg) (e : DirEntry) (skip : Option Nat) : State × List Nat :=
  match e.vec with
  | some v =>
    let dies := (ringFrom (sliceDie h)).filter (fun d => v.getLsbD d)
    let msg : CMsg := { cmsg m.part m.line (skip.getD 0x1FFF) 0 with count := v.toNat }
    match dies with
    | [] => (s, [])
    | d :: _ => (pcountAdd (send s (.coh (.ring d) none tRINGINV msg)) m.part 3 1, dies.map (0x1FF0 + ·))
  | none =>
    let ts := e.sharers.filter (fun t => some t ≠ skip)
    (ts.foldl (fun s t => send s (fromHome t tINV (cmsg m.part m.line 0x1FFF 0))) s, ts)

/-- A forward to the owner; it names the requester, and `count` 1 says that the request is uncached, so that the DATA
grants nothing. -/
def forward (s : State) (typ : Nat) (m : CMsg) (owner req : Nat) (smask : BitVec 4) (grant : Nat) : State :=
  pcountAdd (send s (fromHome owner typ { cmsg m.part m.line req smask with count := grant })) m.part 2 1

/-- What the home sends for a request, and the replies it then awaits (R251). -/
def openSends (s : State) (h typ : Nat) (m : CMsg) : State × List Nat :=
  let e := dirAt s h m.line
  let r := m.tile.toNat
  if typ = tGETS || typ = tRDU || typ = tMRD then
    match e.owner with
    | some o => (forward s tFWDS m o (if typ = tMRD then 0x1FFF else r) (if typ = tMRD then 15 else m.smask)
                  (if typ = tGETS then 0 else 1), [o])
    | none => (s, [])
  else if typ = tGETM then
    let (s, ts) := invalidate s h m e (some r)
    match e.owner with
    | some o => if o = r && e.st = .o then (s, ts) else (forward s tFWDM m o r 15 0, ts ++ [o])
    | none => (s, ts)
  else
    let (s, ts) := invalidate s h m e none
    match e.owner with
    | some o =>
      if typ = tDISCARD then (send s (fromHome o tINV (cmsg m.part m.line 0x1FFF 0)), ts ++ [o])
      else (forward s tRECALL m o 0x1FFF 15 0, ts ++ [o])
    | none => (s, ts)

/-- A request that asks nothing is acknowledged (R244). -/
def asksNothing (typ : Nat) (m : CMsg) : Bool :=
  ((typ = tGETS || typ = tRDU) && m.smask = 0) || ((typ = tWRU || typ = tDMW) && cMask m = 0)

/-- What a request that needs a directory entry for a new holder finds in its set (R248): room, an entry that is evicted first (the least
recently allocated one without an open transaction), or none that can be. -/
inductive DirRoom where
  | room
  | evict (line : Nat)
  | busy
  deriving DecidableEq, Repr

def dirRoom (s : State) (h typ : Nat) (m : CMsg) : DirRoom :=
  let sl := sliceAt s h
  if (dirAt s h m.line).st ≠ .i || !(typ = tGETS || typ = tGETM) then .room
  else
    let set := dirSet s h m.line
    if set.length < 16 then .room
    else if sl.txns.any (fun t => t.typ = 0xFF && hset t.msg.line = hset m.line) then .busy
    else
      let free := set.filter (fun y => !sl.txns.any (fun t => t.msg.line = y.1))
      match free.foldl (fun (best : Option (Nat × DirEntry)) y => match best with
        | none => some y
        | some b => if y.2.alloc < b.2.alloc then some y else some b) none with
      | some v => .evict v.1
      | none => .busy

/-- A transaction just opened. -/
def txnNew (typ : Nat) (m : CMsg) (awaits : List Nat) (c : Nat) : Txn :=
  { typ := typ, msg := m, awaits := awaits, wbWait := false, gotWb := false, gave := none, data := none, adding := false,
    opened := c }

/-- The data of a request comes from DM, and is lost on its way. -/
def lostData (s : State) (h typ : Nat) (m : CMsg) : Bool :=
  let whole := (typ = tWRU || typ = tDMW) && (m.mask.toNat = 2 ^ 128 - 1 || m.poison)
  typ ≠ tDISCARD && !whole && (dirAt s h m.line).owner.isNone && (dirAt s h m.line).st ≠ .p && (hlineAt s h m.line).isNone && fillLost s h m.line

/-- A transaction opened; a LADD whose copies are gone waits for the adder, any other is done at once where it awaits
nothing. One whose fill is lost awaits it (0x1FFE) until the home timeout. -/
def openTxn (s : State) (h typ : Nat) (m : CMsg) : State :=
  if asksNothing typ m then sendAck s m false
  else
    let lost := lostData s h typ m
    let (s, awaits) := openSends s h typ m
    let awaits := if lost then awaits ++ [0x1FFE] else awaits
    let t := { txnNew typ m awaits s.cycle with adding := typ = tLADD && awaits.isEmpty }
    let s := updSlice s h (fun x => { x with txns := x.txns ++ [t],
                                             adds := if t.adding then x.adds ++ [m] else x.adds })
    if awaits.isEmpty && !t.adding then dropTxn (finish s h t) h m.line else s

/-- A request has to wait (R248, R250): its line has an open transaction, 256 are open, or its set's directory entries are busy. -/
def mustWait (s : State) (h typ : Nat) (m : CMsg) : Bool :=
  let sl := sliceAt s h
  sl.txns.any (fun t => t.msg.line = m.line) || 256 ≤ sl.txns.length || dirRoom s h typ m = .busy

/-- A request that need not wait starts: its transaction opens, once the directory entry it needs has been evicted (R248). -/
def startRequest (s : State) (h typ : Nat) (m : CMsg) : State :=
  match dirRoom s h typ m with
  | .evict v =>
    let vm := cmsg m.part v 0x1FFF 15
    let (s, awaits) := openSends s h 0xFF vm
    if awaits.isEmpty then openTxn (clearEntry s h v) h typ m
    else updSlice s h (fun x => { x with txns := x.txns ++ [txnNew 0xFF vm awaits s.cycle], queue := (typ, m) :: x.queue })
  | _ => openTxn s h typ m

/-- A request is served: it starts, or waits in its line's queue behind those before it (R250). -/
def request (s : State) (h typ : Nat) (m : CMsg) : State :=
  if mustWait s h typ m || (sliceAt s h).queue.any (fun q => q.2.line = m.line) then
    updSlice s h (fun x => { x with queue := x.queue ++ [(typ, m)] })
  else startRequest s h typ m

/-- Queued requests that need not wait are started, `fuel` at most, in service order. -/
def pump : Nat → State → Nat → State
  | 0, s, _ => s
  | fuel + 1, s, h =>
    match (sliceAt s h).queue.find? (fun q => !mustWait s h q.1 q.2) with
    | none => s
    | some q => pump fuel (startRequest (updSlice s h (fun x => { x with queue := x.queue.erase q })) h q.1 q.2) h

/-- A transaction that awaits nothing any more takes effect and closes; the line's queue goes on (R251). -/
def settle (s : State) (h line : Nat) : State :=
  match txnOn s h line with
  | none => s
  | some t =>
    if !t.awaits.isEmpty || t.wbWait || t.adding then s
    else if t.typ = tLADD then
      updSlice (updTxn s h line (fun t => { t with adding := true })) h (fun x => { x with adds := x.adds ++ [t.msg] })
    else pump ((sliceAt s h).queue.length + 1) (dropTxn (finish s h t) h line) h

/-! ### Messages at the home (R239, R249–R254) -/

/-- The partition of a message owns the slice; otherwise it is discarded and counted (R239). -/
def ownsSlice (s : State) (h : Nat) (m : CMsg) : Bool := (sliceAt s h).valid && (sliceAt s h).part.toNat = m.part

def misrouted (s : State) (h : Nat) : State := updSlice s h (fun x => { x with misroute := x.misroute + 1 })

/-- A message that names the slice arrives; the slice takes one message a cycle (R249). -/
def homeArrive (typ h : Nat) (m : CMsg) (s : State) : State :=
  arriveCoh s (.home h) m.tile.toNat typ m (fun s => updSlice s h (fun x => { x with inbox := x.inbox ++ [(s.cycle, typ, m)] }))

/-- A late reply: discarded, LATE set, the sender's copy dropped by an INV, a WB acknowledged (R254). -/
def lateReply (s : State) (h typ : Nat) (m : CMsg) : State :=
  let s := pcountAdd (sliceEvent s h (fun x => { x with late := true })) m.part 5 1
  let s := if m.tile.toNat < nTiles then send s (fromHome m.tile.toNat tINV (cmsg m.part m.line 0x1FFF 0)) else s
  if typ = tWB then sendAck s m false else s

/-- A WB from the recorded owner that no transaction awaits: an eviction (R235, R251). -/
def evictionWb (s : State) (h : Nat) (m : CMsg) : State :=
  let s := homeMerge s h m.line m.smask m.data m.poison
  let e := dirAt s h m.line
  let s := if e.st = .p then s
    else setDir s h m.line (if entryEmpty e then dirReset else { e with st := .s, owner := none })
  sendAck s m false

/-- A response served at its slice (R251, R252, R254). -/
def homeResponse (typ h : Nat) (m : CMsg) (s : State) : State :=
  let who := m.tile.toNat
  let owner := typ = tWB && (dirAt s h m.line).owner = some who && (dirAt s h m.line).st ≠ .p
  match txnOn s h m.line with
  | some t =>
    if typ = tWB && (t.awaits.contains who || t.wbWait) then
      let s := homeMerge s h m.line m.smask m.data m.poison
      let s := sendAck s m false
      settle (updTxn s h m.line (fun t => { t with gotWb := true, wbWait := false })) h m.line
    else if t.awaits.contains who && typ ≠ tWB then
      let s := if typ = tFWDACK && (t.typ ≠ tGETS && t.typ ≠ tRDU && t.typ ≠ tMRD && t.typ ≠ tGETM) then
          homeMerge s h m.line m.smask m.data m.poison else s
      settle (updTxn s h m.line (fun t =>
        { t with awaits := t.awaits.erase who,
                 wbWait := t.wbWait || (typ = tWBIF && !t.gotWb),
                 gave := if typ = tFWDACK then some m.info.toNat else t.gave,
                 data := if typ = tFWDACK && t.typ = tMRD then some (mergeSectors (zeros 128) m.data m.smask) else t.data }))
        h m.line
    else if owner then evictionWb s h m
    else lateReply s h typ m
  | none => if owner then evictionWb s h m else lateReply s h typ m

/-- The message is a response (R244). -/
def isResponse (typ : Nat) : Bool := typ = tWB || tDATA ≤ typ

/-- The slice takes a message: one of another partition is discarded and counted (R239). -/
def homeServe (h typ : Nat) (m : CMsg) (s : State) : State :=
  if !ownsSlice s h m then misrouted s h
  else if isResponse typ then homeResponse typ h m s
  else request s h typ m

/-- The order in which a slice takes its messages (R249): by the cycle of arrival, responses first, ascending sender tile; a ring
agent's number, 0x1FF0 + d, comes after every tile's. -/
def serveKey (x : Nat × Nat × CMsg) : Nat := x.1 * 2 ^ 14 + (if isResponse x.2.1 then 0 else 2 ^ 13) + x.2.2.tile.toNat

/-- The message that a slice takes next. -/
def nextMessage (sl : Slice) : Option (Nat × Nat × CMsg) :=
  sl.inbox.foldl (fun best x => match best with
    | none => some x
    | some b => if serveKey x < serveKey b then some x else some b) none

/-- Slice `h` takes one message in the present cycle (R249). -/
def serveSlice (s : State) (h : Nat) : State :=
  match nextMessage (sliceAt s h) with
  | none => s
  | some x => homeServe h x.2.1 x.2.2 (updSlice s h (fun y => { y with inbox := y.inbox.erase x }))

/-- Slices with messages that have not been taken. -/
def busySlices (s : State) : List Nat := (s.slices.filter (fun y => !y.2.inbox.isEmpty)).map (·.1)

/-- Every slice takes its message of the present cycle. -/
def serveSlices (s : State) : State := (busySlices s).foldl serveSlice s

/-! ### Ring agents (R246) -/

/-- RING_INV reaches the agent of die `d`: INV to every tile of the partition there, but the requester; a die with none
answers at once. -/
def ringInv (d h : Nat) (m : CMsg) (s : State) : State :=
  arrive s (.coh (.ring d) none tRINGINV m) (fun s =>
    let ts := (partTiles s m.part).filter (fun t => dieOf t = d && t ≠ m.tile.toNat)
    let s := ts.foldl (fun s t => send s (fromHome t tINV (cmsg m.part m.line (0x1FF0 + d) 0))) s
    let next := ((ringFrom d).drop 1).filter (fun x => m.count.testBit x)
    let m' := { m with count := m.count - (if m.count.testBit d then 2 ^ d else 0) }
    let s := match next with
      | [] => s
      | x :: _ => if m'.count.testBit x then send s (.coh (.ring x) none tRINGINV m') else s
    if ts.isEmpty then send s (.coh (.home h) none tRINGACK { cmsg m.part m.line (0x1FF0 + d) 0 with count := 0 })
    else { s with rings := fmUpd [] s.rings d (fun js => js ++ [⟨m.line, h, m.part, m.tile.toNat, ts, 0, []⟩]) })

/-- A reply to a ring agent's INV; after the last one RING_ACK goes to the home with the number of copies dropped. -/
def ringReply (dropped : Bool) (d : Nat) (m : CMsg) (s : State) : State :=
  arrive s (.coh (.ring d) (some m.tile.toNat) (if dropped then tINVACK else tNOTPRES) m) (fun s =>
    match (fmGet [] s.rings d).find? (fun j => j.line = m.line && j.part = m.part && j.awaits.contains m.tile.toNat) with
    | none => s
    | some j =>
      let j' : RingJob := { j with awaits := j.awaits.erase m.tile.toNat, dropped := j.dropped + bnat dropped }
      if j'.awaits.isEmpty then
        let s := { s with rings := fmUpd [] s.rings d (fun js => js.erase j) }
        send s (.coh (.home j.home) none tRINGACK { cmsg j.part j.line (0x1FF0 + d) 0 with count := j'.dropped })
      else { s with rings := fmUpd [] s.rings d (fun js => js.map (fun x => if x = j then j' else x)) })

/-- RING_ACK arrives at the home from the agent of die `d`. -/
def ringAck (h d : Nat) (m : CMsg) (s : State) : State :=
  homeArrive tRINGACK h { m with tile := BitVec.ofNat 13 (0x1FF0 + d) } s

end Sys2Proof.Machine
end

