-- ==== Sys2Proof/Machine/Tables.lean ====
section
/-!
DEFINITION. The slot tables (R171–R177): entries and their owners, and the swaps of a frame; and the landing of what arrives over a
lane or an ejection slot (R112, R113).
-/

namespace Sys2Proof.Machine

/-- Key of an entry of a router's slot tables. -/
def slotKey (o k : Nat) : Nat := 512 * o + k

/-- The transit groups a partition holds on an output, as a 64-bit mask (R176). -/
def transitMask (s : State) (p t o : Nat) : Nat := fmGet 0 (fmGet [] s.esp.grants p) (16 * t + o)

/-- The tile an output's link or lane leads to. -/
def outTile (t o : Nat) : Option Nat := if o < 8 then neighbour t (o % 4) else none

/-- Entry `k` of an output belongs to partition `p` (R176): wholly, on an output inside its blocks that leads to another of
its tiles and on the ports of its own tiles; else by transit group. -/
def ownsSlot (s : State) (p t o k : Nat) : Bool :=
  if inPart s p t then
    match outTile t o with
    | some u => inPart s p u || (transitMask s p t o).testBit (k / 8)
    | none => o = 8 || (transitMask s p t o).testBit (k / 8)
  else (transitMask s p t o).testBit (k / 8)

/-- Directions of a tile's edge: the sides of its die's outer edge that the tile lies on (R182). -/
def outerDirs (t : Nat) : List Nat :=
  (if rowOf t = 0 then [0] else []) ++ (if colOf t + 1 = nCols then [1] else []) ++ (if rowOf t + 1 = nRows then [2] else []) ++
  (if colOf t = 0 then [3] else [])

/-- The output is an inward link or lane of an edge router (R177): it leads away from an outer edge. -/
def inwardOut (t o : Nat) : Bool := o < 8 && (outerDirs t).any (fun d => o % 4 = (d + 2) % 4)

/-- How many entries before entry `k` of an output are the partition's. -/
def grantRank (s : State) (p t o k : Nat) : Nat := ((List.range k).filter (ownsSlot s p t o)).length

/-- A granted entry is marked dynamic: of every 64 entries granted on the output, in their order, e or d, spread evenly (R177). -/
def markedDynamic (s : State) (p t o k : Nat) : Bool :=
  let f := if inwardOut t o then (partAt s p).dynE else (partAt s p).dynD
  let n := grantRank s p t o k
  (n + 1) * f / 64 ≠ n * f / 64

/-- The partition whose dynamic entry `k` of an output is, if the tables hold none there. -/
def grantedOwner (s : State) (t o k : Nat) : Option Nat :=
  (List.range 32).find? (fun p => partExists s p && ownsSlot s p t o k && markedDynamic s p t o k)

/-- The entry that an output obeys in cycle `c` (R171, R172): an idle entry of a granted slot that is marked dynamic is
dynamic. -/
def entryAt (s : State) (t o c : Nat) : Nat :=
  let e := (fmGet (0 : BitVec 8) (tileAt s t).router.active (slotKey o (c % 512))).toNat
  if field e 7 6 = 0 then
    match grantedOwner s t o (c % 512) with
    | some p => 0x80 + 2 * p
    | none => e
  else e

/-- A flit or unit lands at a tile (R112, R113): a dynamic or empty flit lands nothing, and nothing lands in a tile whose
compute sub-domain is off. -/
def landFlit (s : State) (t p : Nat) (f : Flit) : State :=
  let st := (tileAt s t).regs.state
  if !(f.kind = 1 || f.kind = 3) || st = .off || st = .wiping || st = .pruned || st = .routerFault then s
  else updTile s t (landUnit s.cycle p ⟨fit 0 (unitBytes p) f.data, f.poison && f.kind = 1, f.kind = 3⟩)

/-- A unit that no command has landed lands in its cycle (R113, R170). -/
def landLane (s : State) (w : Wire) : State := landFlit (dropWire s w) w.tile (w.input - 3) w.flit

/-- Units on their way over lanes, the next to land first. -/
def laneWires (s : State) : List Wire := s.wires.filter (fun w => 4 ≤ w.input && w.input < 8 && w.flit.kind ≠ 2)

def nextLane (s : State) : Option Wire := (laneWires s).find? (fun w => (laneWires s).all (fun v => w.at_ ≤ v.at_))

/-- The tables of a router output hold entries of a partition: slots of it are the partition's (R175, R176). -/
def hasTable (s : State) (p t o : Nat) : Bool :=
  transitMask s p t o ≠ 0 || (inPart s p t && (match outTile t o with
    | some u => inPart s p u
    | none => o = 8))

/-- Shadow tables of a partition made active (R175, R372). -/
def swapNow (s : State) (p : Nat) : State :=
  let transit := (fmGet [] s.esp.grants p).map (fun x => x.1 / 16)
  let ts := (partTiles s p ++ transit).dedup
  let copy (t o : Nat) (r : Router) : Router :=
    if !hasTable s p t o then r
    else
      let mine (x : Nat × BitVec 8) : Bool := x.1 / 512 = o
      let kept := r.active.filter (fun x => !mine x)
      { r with active := (r.shadow.filter mine).foldl (fun m x => fmSet 0 m x.1 x.2) kept }
  let s := ts.foldl (fun s t => updTile s t (fun y => { y with router := (List.range 10).foldl (fun r o => copy t o r) y.router })) s
  let swapPort (x : Port) : Port := if x.part = some p then { x with sendA := x.sendS, landA := x.landS } else x
  { s with coppice := fmMap portUnset swapPort s.coppice }

/-- The swaps whose frame has begun by the present cycle come about (R175). -/
def dueSwaps (s : State) : State :=
  let due (x : Nat × Option Nat) : Bool := x.2.any (fun f => 512 * f ≤ s.cycle)
  (s.esp.swaps.filter due).foldl (fun s x =>
    swapNow { s with esp := { s.esp with swaps := fmSet none s.esp.swaps x.1 none } } x.1) s

end Sys2Proof.Machine
end

