-- ==== Sys2Proof/Machine/Positions.lean ====
section
/-!
DEFINITION. What a Coppice port does as cycles pass (R368–R377, R388, R390): the blocks and the cell that it sends in each position, and
the cell that it releases.
-/

namespace Sys2Proof.Machine

def updNo (s : State) (n : Nat) (f : Port → Port) : State := { s with coppice := fmUpd portUnset s.coppice n f }

/-- A count of 0x6040 (R395). -/
def portCount (n i : Nat) (s : State) : State :=
  updNo s n (fun x => { x with counts := fmUpd 0 x.counts i (fun v => satAdd (2 ^ 64 - 1) v 1) })

/-- Group ID, parent port (0x6020). -/
def groupId (s : State) : Nat := dictNat s 0x6020 1 0

/-- Mirror ports that repeat a direction (0 receive, 1 transmit) of port `n` (R390). -/
def mirrorsOf (s : State) (n dir : Nat) : List Nat :=
  (List.range 8).filter (fun m =>
    let x := fmGet portUnset s.coppice m
    m ≠ n && x.role = 3 && x.state = 3 && dictNat s 0x6060 (m + 1) 0 % 16 = n + 8 * dir)

/-! ### Blocks (R368, R371) -/

/-- A control block of a type; bit 0 of the block is 0 (R368). -/
def ctlBlock (type fields : Nat) : Nat := (type * 2 ^ 248 + fields) * 2

/-- A block sent by a port and by the mirrors of what it sends (R390). -/
def sendBlock (s : State) (n block : Nat) : State :=
  (n :: mirrorsOf s n 1).foldl (fun s m => updNo s m (fun x => { x with outBlocks := x.outBlocks ++ [(s.cycle, block)] })) s

/-! ### Cells (R369–R376) -/

/-- The header block of a cell with a CRC value (R370). -/
def cellHeader (c : LockCell) (crc : Nat) : Nat :=
  c.kind.toNat * 2 ^ 248 + c.jobTag.toNat * 2 ^ 232 + c.tick.toNat * 2 ^ 200 + c.pos.toNat * 2 ^ 195 + bnat c.poison * 2 ^ 194 +
  c.dstModule.toNat * 2 ^ 184 + c.srcModule.toNat * 2 ^ 174 + c.rpart.toNat * 2 ^ 169 + c.window.toNat * 2 ^ 163 +
  c.offset.toNat * 2 ^ 120 + c.cntTile.toNat * 2 ^ 107 + c.ac.toNat * 2 ^ 101 + c.len8.toNat * 2 ^ 97 + c.hops.toNat * 2 ^ 93 + crc

/-- The CRC of a cell: over its 96 bytes with the field taken as 0 (R370). -/
def cellCrc (c : LockCell) : Nat := crc32c (natLe 32 (cellHeader c 0) ++ fit 0 64 c.data)

/-- A cell with its CRC. -/
def sealCell (c : LockCell) : LockCell := { c with crc := BitVec.ofNat 32 (cellCrc c), data := fit 0 64 c.data }

/-- The tag of the lockstep job that runs on a port, from its start tick on; 0 where none runs (R370, R386). -/
def portTag (s : State) (n tick : Nat) : Nat :=
  match (portNo s n).part.bind (fun p => (partAt s p).job) with
  | some j => if j.lockstep && j.started && j.t0 ≤ tick then j.tag else 0
  | none => 0

/-- An empty cell of this module for a position. -/
def emptyCell (s : State) (n tick pos : Nat) : LockCell :=
  { kind := 0, jobTag := BitVec.ofNat 16 (portTag s n tick), tick := BitVec.ofNat 32 tick, pos := BitVec.ofNat 5 pos, poison := false,
    dstModule := 0, srcModule := BitVec.ofNat 10 (memberNo s), rpart := 0, window := 0, offset := 0, cntTile := 0, ac := 0,
    len8 := 0, hops := 0, crc := 0, data := zeros 64 }

/-- Credits of a port to send into a hop pool of the far end: 16 at first (R388). -/
def creditOf (x : Port) (h : Nat) : Nat := fmGet 16 x.credits h

/-- What the port sends in the position at (tick, pos), whose first cycle is the present one (R372, R374, R388, R397). -/
def positionCell (s : State) (n tick pos : Nat) : State × LockCell :=
  let x := portNo s n
  let e := emptyCell s n tick pos
  match entryEdge (fmGet (0 : BitVec 16) x.sendA (tick % 8 * 32 + pos)).toNat with
  | some edge =>
    match s.wires.find? (fun w => w.tile = edge && w.input = 10 && w.at_ = s.cycle) with
    | some w =>
      let kind := if w.flit.kind = 1 then 1 else if w.flit.kind = 3 then 2 else 0
      (dropWire s w, { e with kind := kind, poison := w.flit.poison, data := if kind = 1 then w.flit.data else e.data })
    | none => (s, e)
  | none =>
    match x.winQ with
    | c :: rest =>
      let h := c.hops.toNat
      if creditOf x h = 0 then (s, e)
      else
        (updNo s n (fun x => { x with winQ := rest, credits := fmSet 16 x.credits h (creditOf x h - 1) }),
         { c with jobTag := e.jobTag, tick := e.tick, pos := e.pos, poison := false })
    | [] => (s, e)

/-- The CREDIT block that a port owes, if it owes any: up to 15 credits of each pool (R371). -/
def sendCredits (n : Nat) (s : State) : State :=
  let x := portNo s n
  let give (h : Nat) : Nat := min 15 (fmGet 0 x.owed h)
  let v := ((List.range 16).map (fun h => give h * 2 ^ (4 * h + 184))).sum
  if v = 0 then s
  else sendBlock (updNo s n (fun x => { x with owed := (List.range 16).foldl (fun m h => fmUpd 0 m h (· - give h)) x.owed })) n (ctlBlock 0x15 v)

/-- After the last cell of a tick: the TICK block of the next, a LINK_ID every 1,024 ticks, the credits owed (R371). -/
def tickEnd (n tick : Nat) (s : State) : State :=
  let t := tick + 1
  let s := sendBlock s n (ctlBlock 0x10 (t % 2 ^ 48 * 2 ^ 200 + memberNo s % 2 ^ 10 * 2 ^ 190 + s.gt.realign % 256 * 2 ^ 182 + s.gt.depth % 32 * 2 ^ 177))
  let s := if t % 1024 = 0 then sendBlock s n (ctlBlock 0x13 (groupId s % 2 ^ 32 * 2 ^ 216 + memberNo s % 2 ^ 10 * 2 ^ 206 + n * 2 ^ 203)) else s
  sendCredits n s

/-- Declared flight of a port; F_MIN where no image has declared one (R375, R383). -/
def flight (x : Port) : Nat := if x.declF = 0 then x.fMin else x.declF

/-- Window cells that a port holds in a hop pool. -/
def poolHeld (x : Port) (h : Nat) : Nat := (x.held.filter (fun y => y.1 = h)).length

/-- What is released for a position with a scheduled landing entry, and the counts it makes (R376). -/
def landScheduled (tag : Nat) (cell : Option LockCell) : Flit × List Nat :=
  match cell with
  | none => (schedFlit (zeros 64) true, [2, 4])
  | some c =>
    if c.kind = 3 || c.jobTag.toNat ≠ tag then (schedFlit (zeros 64) true, [4])
    else if c.kind = 1 then (schedFlit c.data c.poison, [])
    else if c.kind = 2 then (nullFlit 64, [])
    else (emptyFlit 64, [])

/-- What becomes of the cell of a position with a free landing entry (R376, R388). -/
def landFree (n : Nat) (cell : Option LockCell) (s : State) : State :=
  match cell with
  | none => s
  | some c =>
    if c.kind = 3 then
      let h := c.hops.toNat
      if 16 ≤ poolHeld (portNo s n) h then portCount n 5 s else updNo s n (fun x => { x with held := x.held ++ [(h, c)] })
    else if c.kind = 0 then s
    else portCount n 5 s

/-- The lockstep job of the partition that a port belongs to. -/
def portJob (s : State) (n : Nat) : Option Job := (portNo s n).part.bind (fun p => (partAt s p).job.filter (·.lockstep))

/-- The port has seen position after position without the job's tag: `lost` of them in a row, 64 until PEER_LOST is declared (R387). -/
def countLost (seen : Bool) (x : Port) : Port := { x with lost := if 64 ≤ x.lost then x.lost else if seen then 0 else x.lost + 1 }

/-- The release of group cycle `g`, the first of a position (R375, R376, R387): the cell stamped F + 16 ticks before. DESIGN CHOICE (log
entry 103): the positions checked for the job's tag are those stamped from its start tick on. -/
def releasePos (n g : Nat) (s : State) : State :=
  let x := portNo s n
  let lag := 64 * (flight x + 16)
  if g < lag then s
  else
    let tick := (g - lag) / 64
    let pos := (g - lag) % 64 / 2
    let isIt (c : LockCell) : Bool := c.tick = BitVec.ofNat 32 tick && c.pos = BitVec.ofNat 5 pos
    let cell := x.buf.find? isIt
    let s := updNo s n (fun x => { x with buf := x.buf.filter (fun c => !isIt c) })
    let tag := portTag s n tick
    let s := if tag = 0 then s else updNo s n (countLost (cell.any (fun c => c.jobTag.toNat = tag)))
    match entryEdge (fmGet (0 : BitVec 16) x.landA (tick % 8 * 32 + pos)).toNat with
    | some edge =>
      let r := landScheduled (((portJob s n).map (·.tag)).getD 0) cell
      let s := r.2.foldl (fun s i => portCount n i s) s
      if r.1.kind = 0 then s else { s with wires := s.wires ++ [⟨edge, 9, s.cycle + 24, r.1⟩] }
    | none => landFree n cell s

/-- The cell of the position whose first cycle is group cycle `g`, sealed, with the copies of the port's mirrors (R369, R390); after the
last of a tick, the blocks due. -/
def sendPos (n g : Nat) (s : State) : State :=
  let r := positionCell s n (g / 64) (g % 64 / 2)
  let cell := sealCell r.2
  let s := (n :: mirrorsOf r.1 n 1).foldl (fun s m => updNo s m (fun x => { x with outCells := x.outCells ++ [cell] })) r.1
  if g % 64 = 62 then tickEnd n (g / 64) s else s

/-- An alignment request, one a tick from `reqAt` on, 64 in all (R381 step 2). DESIGN CHOICE (log entry 103): the spacing. -/
def sendRequest (n : Nat) (s : State) : State :=
  let x := portNo s n
  let i := (s.cycle - x.reqAt) / 64
  if x.linked && x.reqAt ≤ s.cycle && (s.cycle - x.reqAt) % 64 = 0 && i < 64 then
    sendBlock s n (ctlBlock 0x11 (s.cycle % 2 ^ 64 * 2 ^ 184 + i * 2 ^ 176))
  else s

/-- Blocks that a port moves in the tick of cycle `c`: 3.125 a ns (R368), whole blocks counted from cycle 0. -/
def tickBlocks (s : State) (c : Nat) : Nat := (c / 64 + 1) * 200000 / pointMhz s.point - c / 64 * 200000 / pointMhz s.point

/-- FILL where nothing else is due (R371): up to the blocks of the tick, `cells` blocks of it cells. -/
def fillUp (n cells : Nat) (s : State) : State :=
  let sent := ((portNo s n).outBlocks.filter (fun b => s.cycle < b.1 + 64)).length
  (List.range (tickBlocks s s.cycle - cells - sent)).foldl (fun s _ => sendBlock s n (ctlBlock 0x1F 0)) s

/-- A mirror port whose source is off, or is itself (R390). -/
def mirrorOff (s : State) (n : Nat) : Bool :=
  let m := dictNat s 0x6060 (n + 1) 0 % 8
  m = n || (portNo s m).role = 0

/-- A port in cycle `s.cycle`: a release and a cell in the first cycle of a position, the requests of an alignment, and FILL up to the end of
the tick. -/
def portCycle (s : State) (n : Nat) : State :=
  let x := portNo s n
  let g := groupCycle s s.cycle
  if x.role = 3 && x.state = 3 then (if mirrorOff s n && s.cycle % 64 = 63 then fillUp n 0 s else s)
  else if x.role ≠ 1 || (x.state ≠ 3 && x.state ≠ 4) then s
  else if x.state = 4 && s.gt.aligned then
    let s := sendRequest n s
    let s := if g % 2 = 0 then sendPos n g (releasePos n g s) else s
    if g % 64 = 63 then fillUp n 96 s else s
  else
    let s := sendRequest n s
    if s.cycle % 64 = 63 then fillUp n 0 s else s

/-- A port has something to do cycle by cycle. -/
def portsBusy (s : State) : Bool :=
  s.coppice.any (fun x => (x.2.role = 1 && (x.2.state = 3 || x.2.state = 4)) || (x.2.role = 3 && x.2.state = 3 && mirrorOff s x.1))

/-- Every port in the present cycle. -/
def portsCycle (s : State) : State := if portsBusy s then (List.range 8).foldl portCycle s else s

/-! ### Lines of a partition's own (R497, R501) -/

/-- A line of the partition's own writes to its DM, by the memory attach or a tile (R497, R501): a full-line DMW that
counts at no counter. -/
def ownLine (s : State) (p src pa : Nat) (data : List Byte) : State :=
  let msg := { cmsg p (pa / 128) src 0 with mask := BitVec.ofNat 128 (2 ^ 128 - 1), data := data, cntTile := 0x1FFF }
  send s (toHome s src tDMW msg)

/-- The swaps that the tile has made since: their stream records go out as full lines of the partition's DM, and one that it could not
make is counted (R497, R495). -/
def flushRecords (t : Nat) (s : State) : State :=
  let y := tileAt s t
  let p := partOf s t
  if y.cnt.recs.isEmpty then s
  else match (partAt s p).job.bind (·.stream) with
  | none => updTile s t (fun y => { y with cnt := { y.cnt with recs := [] } })
  | some (base, log2) =>
    let k := ((partTiles s p).findIdx? (· = t)).getD 0
    let made := y.cnt.recs.filter (fun x => !x.isEmpty)
    let n0 := y.cnt.recNo - made.length
    let rec_ (s : State) (x : List Byte × Nat) : State :=
      let off := base + (k * 2 ^ log2 + (n0 + x.2) % 2 ^ log2) * 128
      pcountAdd (ownLine s p t ((partAt s p).dmBase + off) (fit 0 128 (natLe 4 t ++ x.1))) p 12 1
    let s := made.zipIdx.foldl rec_ (updTile s t (fun y => { y with cnt := { y.cnt with recs := [] } }))
    pcountAdd s p 13 (y.cnt.recs.length - made.length)

/-- The same at every tile. -/
def flushAll (s : State) : State := s.tiles.foldl (fun s x => flushRecords x.1 s) s

end Sys2Proof.Machine
end

