-- ==== Sys2Proof/Machine/Time.lean ====
section
/-!
DEFINITION. One cycle of a tile, the passage of cycles of the whole module, and what a command does that waits for its cycle: a
slot of a bundle, and an access that waits for its bank (R19, R27, R29, R90, R91, R119).
-/

namespace Sys2Proof.Machine

/-- Cycle `c` begins an epoch, on the epoch clock of R119. -/
def epochStarts (s : State) (c : Nat) : Bool := epochCycle s c % 2 ^ 20 == 0

/-- The first cycle not before `c` that begins an epoch. -/
def epochFrom (s : State) (c : Nat) : Nat := c + (2 ^ 20 - epochCycle s c % 2 ^ 20) % 2 ^ 20

/-- The compute period in femtoseconds at an operating point (R445). -/
def periodFs (point : Nat) : Nat := 1000000000 / pointMhz point

/-- LAG repaid by cycle `c`: one cycle in 256, while the module follows its group reference (R385, R397). -/
def repaid (s : State) (c : Nat) : Nat :=
  if s.gt.holdover.isSome || s.gt.own then 0 else min s.gt.lag.toNat (c / 256 - s.cycle / 256)

/-- Cycles slipped by cycle `c` in an alignment: one in 256 (R381 step 4). -/
def slipped (s : State) (c : Nat) : Nat :=
  match s.gt.slip with
  | some (_, due) => min c due / 256 - s.cycle / 256
  | none => 0

/-- Cycles up to `c` that a stretch event lengthens: each takes two ideal periods (R451). -/
def stretched (s : State) (c : Nat) : Nat := min (c - s.cycle) (s.gov.stretchLeft / 2)

/-- Periods of the point in force that pass up to cycle `c`. -/
def periodsTo (s : State) (c : Nat) : Nat := c - s.cycle + stretched s c + slipped s c - repaid s c

/-- The standby clock, in µs, in cycle `c`. -/
def usIn (s : State) (c : Nat) : Nat := s.us + (s.fs + periodsTo s c * periodFs s.point) / 1000000000

/-- One cycle of a tile. First the load/store pipe ends the cycle before, behind every other access of it. Then a beat that leaves the
Sheller can serve the array (R99, R106), STATE_COPY sees the values at the cycle's start; readouts and clears go before the terms that
complete (R77); the bundle issued sees the queues and posts as they then are. -/
def tileCycle (epoch : Bool) (us c : Nat) (t : Tile) : Tile :=
  let t := settleAcs c (pipeCycle (c - 1) t)
  let t := descCycle c (copySnap c (cycleCounts c (closeTick t)))
  let t := arrayCycle us c (vecCycle c (shellCycle c t))
  let t := clearCycle c (snapCycle c t)
  let t := addCycle c (importCycle c t)
  let t := copyWrites c (readoutWrites c t)
  let t := (List.range 5).foldl (fun t p => drainRing c p t) t
  reportCycle (seqCycle epoch us c t)

/-- `n` cycles of a tile after cycle `c`; `s` gives the clocks. -/
def tileRun (s : State) : Nat → Nat → Tile → Tile
  | 0, _, t => t
  | n + 1, c, t => if computing t then tileRun s n (c + 1) (tileCycle (epochStarts s (c + 1)) (usIn s (c + 1)) (c + 1) t) else t

/-- A heartbeat of cycle `c` is owed (R197): STATE and the low word of the cycle counter, then the bundle pointer; it takes the
place of one that has not left. The compute sub-domain sends it. DESIGN CHOICE (log entry 96): a heartbeat falls in every cycle that is a multiple of 65,536, and
the STATE stands in a word of its own. -/
def oweBeat (c : Nat) (t : Tile) : Tile :=
  if t.frozen || !(t.regs.state = .idle || t.regs.state = .loading || t.regs.state = .running || t.regs.state = .pruning) then t
  else
    let beat := Report.heartbeat (stateCode t.regs.state) (BitVec.ofNat 32 c) (BitVec.ofNat 32 t.seq.pc)
    { t with reports := t.reports.filter (fun r => !isBeat r) ++ [beat] }

/-- The compute clock runs: the Hazel dies are powered and out of reset (R518), and no trip has stopped it (R453). -/
def clockOn (s : State) : Bool := s.boot.ready.toNat.testBit 3 && !s.gov.clockStopped

/-- Cycles pass up to `c`: every tile runs them, the standby clock moves with them, a heartbeat falls due at every tile that sends them (R197), and
what was due on the links, in the slot tables and in the translation blocks comes about. -/
def passTo (s : State) (c : Nat) : State :=
  let fs := s.fs + periodsTo s c * periodFs s.point
  let beat := s.cycle / 65536 < c / 65536
  let m := c / 65536 * 65536
  let run (t : Tile) : Tile :=
    if beat then tileRun s (c - m) m (oweBeat m (tileRun s (m - s.cycle) s.cycle t)) else tileRun s (c - s.cycle) s.cycle t
  let s := flushAll { mapTiles s run with
    cycle := c, us := s.us + fs / 1000000000, fs := fs % 1000000000, gt := { s.gt with lag := s.gt.lag + stretched s c - repaid s c },
    gov := { s.gov with stretchLeft := s.gov.stretchLeft - 2 * stretched s c } }
  xlDue (dueSwaps (landDyn (missedWires s)))

/-- Cycles pass up to `c`, with a stop at each cycle in which units land over lanes, at most `fuel` of them. -/
def passLanes : Nat → Nat → State → State
  | 0, c, s => passTo s c
  | fuel + 1, c, s => match nextLane s with
    | none => passTo s c
    | some w => if c ≤ w.at_ then passTo s c else passLanes fuel c (landLane (if w.at_ ≤ s.cycle then s else passTo s w.at_) w)

/-- Messages wait at a home slice. -/
def waitingMsgs (s : State) : Nat := (s.slices.map (fun y => y.2.inbox.length)).sum

/-- Cycles pass up to `c`, one by one while a slice has messages to take (R249), at most `fuel` of them so. -/
def passSlices : Nat → Nat → State → State
  | 0, c, s => if c ≤ s.cycle then s else passLanes (laneWires s).length c s
  | fuel + 1, c, s =>
    if c ≤ s.cycle then s
    else if (busySlices s).isEmpty then passLanes (laneWires s).length c s
    else
      let s := serveSlices s
      passSlices fuel c (passLanes (laneWires s).length (s.cycle + 1) s)

/-- Cycles pass up to `c`, one by one, at most `fuel` of them, while a Coppice port has something to do in each. -/
def passPorts : Nat → Nat → State → State
  | 0, c, s => passSlices (waitingMsgs s) c s
  | fuel + 1, c, s =>
    if c ≤ s.cycle then s
    else if portsBusy s then passPorts fuel c (passSlices 1 (s.cycle + 1) (portsCycle s))
    else passSlices (waitingMsgs s) c s

/-- The module at a later device cycle. No cycle passes while the compute clock stands. -/
def advanceTo (s : State) (c : Nat) : State := if c ≤ s.cycle || !clockOn s then s else passPorts (c - s.cycle) c s

/-- The next cycle, `put` done at its start, before what the hardware does in it; at once while the compute clock stands. -/
def nextCycle (put : State → State) (s : State) : State :=
  if clockOn s then
    let s := portsCycle (serveSlices s)
    passLanes (laneWires s).length (s.cycle + 1) (put s)
  else put s

/-- The standby clock at `us` µs or later: while the compute clock runs, as many cycles have passed as that takes (R19). -/
def atUs (s : State) (us : Nat) : State :=
  if us ≤ s.us then s
  else if clockOn s then
    let n := ceilDiv ((us - s.us) * 1000000000 - s.fs) (periodFs s.point)
    advanceTo s (s.cycle + n + min s.gt.lag.toNat (n / 255 + 1))
  else { s with us := us, fs := 0 }

/-! ### Bundles as they come (R90, R91) -/

/-- A bundle has come in whole: it joins the tile's queue; the only one there is tried in the first cycle in which it may issue. -/
def bundleCmd (t : Nat) (slots : List Slot) (idle : BitVec 4) (s : State) : State :=
  let q := (tileAt s t).seq
  let s := if q.queue.isEmpty then
      let c := max s.cycle q.nextIssue
      advanceTo s (if q.epochWait then epochFrom s c else c)
    else s
  flushRecords t (updTile s t (fun x =>
    let x := { x with seq := { x.seq with slots := [], queue := x.seq.queue ++ [packBundle slots idle] } }
    if q.queue.isEmpty then seqCycle (epochStarts s s.cycle) s.us s.cycle x else x))

/-- An enabled slot of kind `k` with word `w` in the bundle at tile `t` (R90, R91); `ok` says the word is the row's. The
last slot completes the bundle. -/
def slotCmd (k : SlotKind) (ok : Bool) (t w : Nat) (e : BundleEnd) (s : State) : State :=
  let x := tileAt s t
  if !ok || !computing x || x.seq.stream ≠ .issuing then s
  else
    let slots := gather k w x.seq.slots
    match e with
    | none => updTile s t (fun x => { x with seq := { x.seq with slots := slots } })
    | some idle => bundleCmd t slots idle s

/-- PAUSE (R90): a bundle with no slot enabled. -/
def slotPause (t : Nat) (idle : BitVec 4) (s : State) : State :=
  let x := tileAt s t
  if !computing x || x.seq.stream ≠ .issuing then s else bundleCmd t [] idle s

/-! ### Banks taken by priorities 2 to 5 (R27, R29) -/

/-- Tries of an access before the model gives it its banks whatever stands before it: more than any run of priority-1 accesses to
one bank (R29). -/
def bankTries : Nat := 65536

/-- An access of requester `k` (see `bankTaken`) at tile `t` waits for its banks: each cycle in which it loses one is counted, and it tries again in the
next (R27); after 64 losses in a row only priority-1 accesses stand before it (R29). Then it has its banks. -/
def awaitBanks (t k : Nat) (bs : List Nat) : Nat → State → State
  | 0, s => updTile s t (takeBanks s.cycle k bs)
  | fuel + 1, s =>
    if bankTaken s.cycle k bs (tileAt s t) then
      let boost (y : Tile) : Tile :=
        if fuel + 64 = bankTries then { y with units := { y.units with boosts := y.units.boosts ++ bs.map (k, ·) } } else y
      awaitBanks t k bs fuel (advanceTo (updTile s t (fun y => countEv 0x0F 1 (boost y))) (s.cycle + 1))
    else updTile s t (takeBanks s.cycle k bs)

/-- The access has the banks of [a, a + n) of LS. -/
def bankAccess (t k a n : Nat) (s : State) : State := awaitBanks t k (banksOf a n) bankTries s

/-- The banks of a line's place in the L1. DESIGN CHOICE (log entry 97): the L1 stands above LS in the store, 2,048 bytes a set, 128 bytes a way. -/
def wayBanks (t : Tile) (line way : Nat) : List Nat := banksOf (lsSize t + 2048 * l1Set t line + 128 * way) 128

/-- The L1 has the banks of the line it holds, or of the way a fill takes (R27). -/
def l1Access (t line : Nat) (s : State) : State :=
  match fillWay (tileAt s t) line with
  | some w => awaitBanks t 8 (wayBanks (tileAt s t) line w) bankTries s
  | none => s

/-- LINE_ADDITION: the adder, one line addition every 2 cycles, applies the oldest waiting LADD and closes its transaction (R259). -/
def lineAddition (s : State) (h : Nat) : State :=
  if (sliceAt s h).adds.isEmpty then s
  else
    let s := advanceTo s (sliceAt s h).addFree
    match (sliceAt s h).adds with
    | [] => s
    | m :: rest =>
      let s := applyLadd (updSlice s h (fun x => { x with adds := rest, addFree := s.cycle + 2 })) h m
      pump ((sliceAt s h).queue.length + 1) (dropTxn s h m.line) h

/-- The home timeout on a line (R253): the transaction is 128,000 cycles old; the line becomes Poison, its requester and
its queue are answered with POISON, TIMEOUT is set, and the Husk firmware learns the line and the silent tiles. -/
def homeTimeout (s : State) (h line : Nat) : State :=
  match txnOn s h line with
  | none => s
  | some t =>
    if t.awaits.isEmpty && !t.wbWait then s
    else
      let s := advanceTo s (max s.cycle (t.opened + 128000))
      let q := (sliceAt s h).queue
      let mine := q.filter (fun x => x.2.line = line)
      let s := makePoison s h line
      let s := sliceEvent s h (fun x => { x with timeout := true, queue := q.filter (fun y => y.2.line ≠ line) })
      let s := if t.typ = 0xFF then s else poisonReply s t.typ t.msg
      let s := mine.foldl (fun s x => poisonReply s x.1 x.2) s
      let s := pcountAdd (dropTxn s h line) (sliceAt s h).part.toNat 4 1
      let s := { s with homeReports := s.homeReports ++ [⟨h, line, t.awaits⟩] }
      pump ((sliceAt s h).queue.length + 1) s h

end Sys2Proof.Machine
end

