-- ==== Sys2Proof/Machine/Group.lean ====
section
/-!
DEFINITION. The group engine (R129–R166): residency, issue, registers, divergence, and the meaning of every GX
instruction at the tile.
-/

namespace Sys2Proof.Machine

/-! ### Kernels and residency (R129, R131, R41) -/

def kRpt (e : Nat) : Nat := field e 43 38

/-- A kernel table entry; 0 where the table has none, or one that is absent, whose RPT8 is 0 (R129). -/
def kernelEntry (t : Tile) (k : Nat) : Nat :=
  let e := if k < t.kernN then leNat (memRead t.ls (t.kernOff + 8 * k) 8) else 0
  if kRpt e = 0 then 0 else e

def kGl (e : Nat) : Nat := field e 37 28 * 64
def kCode (e : Nat) : Nat := field e 63 44 * 8

/-- Fields of a launch record (R130). -/
def recKernel (r : BitVec 64) : Nat := field r.toNat 63 60
def recGroups (r : BitVec 64) : Nat := field r.toNat 59 47
def recParam (r : BitVec 64) : Nat := field r.toNat 43 24 * 8
def recTag (r : BitVec 64) : BitVec 24 := BitVec.ofNat 24 (field r.toNat 23 0)

/-- Bytes of the group-local area in force (R40). -/
def glArea (t : Tile) : Nat := t.regs.glCur.toNat * 65536

/-- The groups that may be resident at once for a kernel entry (R41). -/
def residentLimit (t : Tile) (e : Nat) : Nat :=
  let byRegs := min 64 (65536 / (32 * (8 * kRpt e)))
  if kGl e = 0 then byRegs else min byRegs (glArea t / kGl e)

/-- The resident groups with their slots. -/
def residents (t : Tile) : List (Nat × Group) := t.ge.groups.filterMap (fun p => p.2.map (p.1, ·))

/-- A record enters the launch queue; one of no groups reports its completion at once (R130). -/
def enqueueRecord (r : BitVec 64) (t : Tile) : Tile :=
  if recGroups r = 0 then { t with reports := t.reports ++ [.cohort (recTag r)] }
  else { t with ge := { t.ge with launchQ := t.ge.launchQ ++ [r] } }

/-- The group's slot in the active set, with the cycle from which it may issue. -/
def activeSlot (t : Tile) (g : Nat) : Option (Nat × Nat) :=
  (List.range 4).findSome? (fun i => match fmGet none t.ge.activeSet i with
    | some (g', c) => if g' = g then some (i, c) else none
    | none => none)

/-- The group leaves the active set. -/
def leaveActive (t : Tile) (g : Nat) : Tile :=
  let rest := t.ge.activeSet.filter (fun p => (p.2.map (·.1)) ≠ some g)
  { t with ge := { t.ge with activeSet := rest } }

/-- A free slot of the active set. -/
def freeActive (t : Tile) : Option Nat := (List.range 4).find? (fun i => (fmGet none t.ge.activeSet i).isNone)

/-- The group waits for `p`, pending, from cycle `c` (R136). -/
def pendGroup (c us : Nat) (p : Pend) (g : Nat) (t : Tile) : Tile :=
  leaveActive (updGroup t g (fun x => { x with pend := p, since := c, waitUs := us })) g

/-- A new group of a cohort in slot `g` (R134). -/
def groupNew (c us : Nat) (co : Cohort) (e glBase : Nat) : Group :=
  { num := co.next, cohort := co.id, rpt := kRpt e, glBase := glBase, glSize := kGl e, regs := [], preds := [],
    active := BitVec.allOnes 32, exited := 0, stack := [], pc := kCode e, ready := [], pend := .released, since := c,
    waitUs := us, issueUs := us, holding := false, stopped := false }

/-- The cohort whose next group may start, with the tile's cohort list: one in service with groups left, else the
queue's head if its kernel is the resident one, or nothing is resident (R131). -/
def nextCohort (t : Tile) : Option (Cohort × Tile) :=
  match t.ge.cohorts.find? (fun co => co.next < recGroups co.record) with
  | some co => some (co, t)
  | none =>
    match t.ge.launchQ with
    | [] => none
    | r :: rest =>
      if (residents t).isEmpty || t.ge.cohorts.all (fun co => recKernel co.record = recKernel r) then
        let co : Cohort := ⟨t.ge.nextCohort, r, 0, recGroups r, []⟩
        some (co, { t with ge := { t.ge with launchQ := rest, nextCohort := t.ge.nextCohort + 1,
                                             cohorts := t.ge.cohorts ++ [co] } })
      else none

/-- The cohort's next group becomes resident, in the lowest free group slot and the lowest free group-local bytes, and
active where the active set has room (R131, R133, R136). -/
def becomeResident (c us : Nat) (t : Tile) : Tile :=
  match nextCohort t with
  | none => t
  | some (co, t') =>
    let e := kernelEntry t' (recKernel co.record)
    let res := residents t'
    let slot := (List.range 64).find? (fun i => !res.any (fun p => p.1 = i))
    if e = 0 || residentLimit t' e ≤ res.length then t
    else match slot with
      | none => t
      | some g =>
        let base := lsSize t' - glArea t'
        let gl := match (List.range 64).find? (fun i => !res.any (fun p => p.2.glBase = base + i * kGl e)) with
          | some i => base + i * kGl e
          | none => base
        let x := groupNew c us co e gl
        let bump := t'.ge.cohorts.map (fun y => if y.id = co.id then { y with next := y.next + 1 } else y)
        let t' := if co.next = 0 then traceAdd c 0x06 engGroup (recTag co.record).toNat t' else t'
        let t := setGroup { t' with ge := { t'.ge with cohorts := bump } } g (some x)
        match freeActive t with
        | some i => { (updGroup t g (fun x => { x with pend := .none })) with
            ge := { (updGroup t g (fun x => { x with pend := .none })).ge with
              activeSet := fmSet none t.ge.activeSet i (some (g, c)) } }
        | none => t

/-- The event a pending group waited for has arrived (R136). -/
def eventArrived (c : Nat) (t : Tile) (x : Group) : Bool :=
  match x.pend with
  | .none => false
  | .released => true
  | .regs rs => rs.all (fun r => readyAt x r ≤ c)
  | .barrier _ => false
  | .counter ac thr => thr ≤ acSeen c t ac
  | .spawn => t.ge.launchQ.length < 32
  | .mover m => (moverAt t m).queue.length < 16
  | .gmma _ => false
  | .gread _ => false

/-- The pending group that is promoted: the one that has waited longest, then the lower slot (R136). -/
def promotable (c : Nat) (t : Tile) : Option (Nat × Group) :=
  ((residents t).filter (fun p => eventArrived c t p.2 && !p.2.stopped)).foldl (fun best p =>
    match best with
    | none => some p
    | some b => if p.2.since < b.2.since then some p else some b) none

/-- A promotion: the slot stands without issue for 2 cycles (R136). The time of a WAITAC does not count against the
forward-progress limit (R137). -/
def promote (c us : Nat) (t : Tile) : Tile :=
  match freeActive t, promotable c t with
  | some i, some (g, _) =>
    let t := updGroup t g (fun x =>
      match x.pend with
      | .counter _ _ => { x with pend := .none, issueUs := x.issueUs + (us - x.waitUs) }
      | _ => { x with pend := .none })
    { t with ge := { t.ge with activeSet := fmSet none t.ge.activeSet i (some (g, c + 2)) } }
  | _, _ => t

/-! ### Barriers and the end of a group (R155, R157) -/

/-- A barrier completes for the groups that wait when every group of the cohort that has not exited has arrived. -/
def releaseBarriers (id : Nat) (t : Tile) : Tile :=
  match t.ge.cohorts.find? (·.id = id) with
  | none => t
  | some co =>
    co.bars.foldl (fun t b =>
      if b.2.length = co.live && !b.2.isEmpty then
        let t := b.2.foldl (fun t g => updGroup t g (fun x =>
          match x.pend with
          | .barrier _ => { x with pend := .released }
          | _ => x)) t
        let cos := t.ge.cohorts.map (fun y => if y.id = id then { y with bars := fmSet [] y.bars b.1 [] } else y)
        { t with ge := { t.ge with cohorts := cos } }
      else t) t

/-- What is under way for the group in slot `g` goes on for no group: its slot may have a new one before the replies come. -/
def forgetGroup (g : Nat) (t : Tile) : Tile :=
  let new (h : Nat) : Nat := if h = g then 64 else h
  { t with
    ge := { t.ge with pipe := t.ge.pipe.map (fun o => { o with g := new o.g }), pipeHeld := new t.ge.pipeHeld },
    l1 := { t.l1 with
      miss := t.l1.miss.map (fun e => { e with loads := e.loads.map (fun l => { l with g := new l.g }) }),
      wbuf := t.l1.wbuf.map (fun e => { e with gs := e.gs.filter (· ≠ g) }),
      awaits := t.l1.awaits.map (fun a => { a with g := new a.g }) } }

/-- The group's last lane has exited: its resources are freed; the last group of a cohort reports the TAG (R131). -/
def endGroup (c g : Nat) (x : Group) (t : Tile) : Tile :=
  let t := forgetGroup g (leaveActive (setGroup t g none) g)
  let cos := t.ge.cohorts.map (fun y => if y.id = x.cohort then { y with live := y.live - 1 } else y)
  match cos.find? (·.id = x.cohort) with
  | none => { t with ge := { t.ge with cohorts := cos } }
  | some co =>
    if co.live = 0 then
      let t := traceAdd c 0x07 engGroup (recTag co.record).toNat t
      { t with ge := { t.ge with cohorts := cos.filter (·.id ≠ x.cohort) },
               reports := t.reports ++ [.cohort (recTag co.record)] }
    else releaseBarriers x.cohort { t with ge := { t.ge with cohorts := cos } }

/-! ### Divergence (R154, R155) -/

/-- While the group stands at the reconvergence point of its top entry (or runs no lane), it switches to the lanes that
wait there, or pops the entry and goes on with both sets. -/
def reconverge : Nat → Group → Group
  | 0, x => x
  | fuel + 1, x =>
    match x.stack with
    | [] => x
    | e :: rest =>
      if x.pc = e.rpc || x.active = 0 then
        match e.done with
        | none =>
          reconverge fuel { x with stack := { e with done := some (if x.pc = e.rpc then x.active else 0) } :: rest,
                                   active := e.mask &&& ~~~x.exited, pc := e.pc }
        | some d =>
          reconverge fuel { x with stack := rest, active := (x.active ||| d) &&& ~~~x.exited, pc := e.rpc }
      else x

/-- The instruction pointer moved to `pc`, then reconvergence. -/
def goTo (pc : Nat) (x : Group) : Group := reconverge 80 { x with pc := pc }

/-! ### Issue (R135, R138, R139) -/

/-- Instruction fields common to all formats (R138). -/
def gOpc (w : Nat) : Nat := field w 63 56
def gFmt (w : Nat) : Nat := field w 51 49
def gD (w : Nat) : Nat := field w 48 41
def gS1 (w : Nat) : Nat := field w 40 33
def gS2 (w : Nat) : Nat := field w 32 25
def gS3 (w : Nat) : Nat := field w 24 17
def gImm (w : Nat) : Nat := field w 31 0

/-- Every code R139 lists. -/
def gxListed (opc : Nat) : Bool :=
  opc ≤ 0x26 && opc ≠ 0x1E && opc ≠ 0x1F || (0x81 ≤ opc && opc ≤ 0x9D) || opc = 0x30 || opc = 0x31 ||
  (0x40 ≤ opc && opc ≤ 0x42) || (0x50 ≤ opc && opc ≤ 0x54) || opc = 0x60 || opc = 0x61 || opc = 0x70 || opc = 0x71

/-- Fields of format M (R138). -/
def mSize (w : Nat) : Nat := field w 51 49
def mOfs (w : Nat) : Int := toSigned 20 (field w 32 13)
def mSpace (w : Nat) : Nat := field w 12 11
def mScope (w : Nat) : Nat := field w 10 9
def mOrd (w : Nat) : Nat := field w 8 7
def mCache (w : Nat) : Nat := field w 6 5

/-- Fields of format AT (R138). -/
def aAop (w : Nat) : Nat := field w 16 12
def aScope (w : Nat) : Nat := field w 11 10
def aOrd (w : Nat) : Nat := field w 9 8

/-- The instruction takes the load/store pipe: LD, ST, ATOM, ATOMN, LADD. -/
def gxPiped (w : Nat) : Bool := gOpc w = 0x30 || gOpc w = 0x31 || (0x40 ≤ gOpc w && gOpc w ≤ 0x42)

/-- Registers that an instruction reads, beside its guard (R138–R162). -/
def gxSrcs (w : Nat) : List Nat :=
  let o := gOpc w
  let n := if 0x80 ≤ o then o - 0x80 else o
  if (1 ≤ o && o ≤ 0x1D) || 0x81 ≤ o then
    [gS1 w] ++ (if o < 0x80 && !vecOneSource n then [gS2 w] else []) ++ (if o < 0x80 && vecThirdSource n then [gS3 w] else [])
  else if o = 0x22 || o = 0x25 then [gS1 w, gS2 w]
  else if o = 0x23 then [256 + gS1 w % 8, 256 + gS2 w % 8]
  else if o = 0x24 then [256 + gS1 w % 8]
  else if o = 0x26 || o = 0x54 then [gS1 w]
  else if o = 0x30 || o = 0x31 then
    [gS1 w] ++ (if mSpace w = 0 then [gS1 w + 1] else []) ++ (if o = 0x31 then spanRegs (mSize w) (gD w) else [])
  else if o = 0x40 || o = 0x41 then
    [gS1 w, gS1 w + 1] ++ spanRegs (mSize w) (gS2 w) ++ (if aAop w = 10 then spanRegs (mSize w) (gS3 w) else [])
  else if o = 0x42 then [gS1 w, gS1 w + 1, gS2 w] ++ (if aAop w = 1 || aAop w = 2 then [gS2 w + 1] else [])
  else if o = 0x51 || o = 0x53 then [gS2 w]
  else if o = 0x70 then
    [field w 41 34, field w 33 26] ++ (if w.testBit 43 then [field w 25 18] else []) ++
    (if w.testBit 42 then [field w 25 18 + 1] else [])
  else if o = 0x71 then [gD w]
  else []

/-- Registers that an instruction writes. -/
def gxDsts (w : Nat) : List Nat :=
  let o := gOpc w
  if (1 ≤ o && o ≤ 0x1D) || 0x81 ≤ o || o = 0x20 || o = 0x21 || (0x24 ≤ o && o ≤ 0x26) then [gD w]
  else if o = 0x22 || o = 0x23 then [256 + gD w % 8]
  else if o = 0x30 || o = 0x40 then spanRegs (mSize w) (gD w)
  else if o = 0x52 then [gD w, gD w + 1]
  else []

/-- What an instruction needs before it issues: its guard and its sources; a load under way into a register it writes; for a memory
instruction the acquires before it (R146). -/
def gxNeeds (w : Nat) : List Nat := (256 + field w 55 53) :: gxSrcs w ++ (if gxPiped w then [acqReg] else [])

/-- The lanes that execute: active and guarded on (R138). -/
def guardMask (x : Group) (w : Nat) : Nat :=
  let p := gPred x (field w 55 53)
  x.active.toNat &&& (if w.testBit 52 then 2 ^ 32 - 1 - p else p)

/-- What an instruction does at its issue cycle `c`: illegal; not issued because the group must wait for `p`; held at its issue
(`pipe`: and with it the load/store pipe); or issued with a new state, in which its group goes on. -/
inductive GxOut where
  | fault (code addr : Nat)
  | wait (p : Pend)
  | hold (pipe : Bool)
  | go (s : State)

/-- The group may issue: the tile computes, the group is active, waits for nothing and has not faulted. -/
def gxReady (t : Tile) (g : Nat) : Option (Group × Nat × Nat) :=
  if !computing t || t.ge.stopped then none
  else match groupAt t g, activeSlot t g with
    | some x, some (slot, from_) => if x.pend = .none && !x.stopped then some (x, slot, from_) else none
    | _, _ => none

/-- The load/store pipe takes an access of group `g` that issues in cycle `c` (R148, R149, R232, R233). -/
def pipeTakes (c g : Nat) (t : Tile) : Bool := pipeLeft t ≤ 1 && t.ge.pipeFree ≤ c && (t.ge.pipeHeld = 64 || t.ge.pipeHeld = g)

/-- Group `g` is ready to issue instruction `w` in cycle `c` (R135): what it needs is available and its unit is free. -/
def gxNow (c : Nat) (t : Tile) (g w : Nat) : Bool :=
  match gxReady t g with
  | none => false
  | some (x, _, from_) =>
    from_ ≤ c && (gxNeeds w).all (fun r => readyAt x r ≤ c) && !(gxDsts w).any (fun r => soon ≤ readyAt x r) &&
    (!gxPiped w || pipeTakes c g t)

/-- The next instruction of a group, from LS. -/
def gxWord (t : Tile) (x : Group) : Nat := leNat (memRead t.ls x.pc 8)

/-- The group that issues in cycle `c`: the first ready one in slot order, from the slot after the one that issued last; none while a
V-slot vector operation takes the lanes (R35, R135). Group `g` has instruction `w` to issue. DESIGN CHOICE (log entry 93): a group whose instruction is held keeps no
other group from issuing. -/
def gxPick (c : Nat) (t : Tile) (g w : Nat) : Option Nat :=
  if t.seq.lanes = c + 1 || c < t.ge.nextIssue then none
  else (List.range 4).findSome? (fun i =>
    match fmGet none t.ge.activeSet ((t.ge.lastSlot + 1 + i) % 4) with
    | none => none
    | some (h, _) => match groupAt t h with
      | none => none
      | some x => if (h = g || !x.holding) && gxNow c t h (if h = g then w else gxWord t x) then some h else none)

/-- The engine has issued for slot `slot` in cycle `c`: one instruction a cycle, the turn goes on from that slot. -/
def gxIssued (c us slot g : Nat) (t : Tile) : Tile :=
  let t := countEv 0x09 1 (updGroup t g (fun x => { x with issueUs := us, holding := false }))
  { t with ge := { t.ge with nextIssue := c + 1, lastSlot := slot, pipeHeld := if t.ge.pipeHeld = g then 64 else t.ge.pipeHeld } }

/-- The group's instruction is held at its issue; `pipe`: the load/store pipe with it. -/
def gxHeld (pipe : Bool) (g : Nat) (t : Tile) : Tile :=
  let t := updGroup t g (fun x => { x with holding := true })
  if pipe then { t with ge := { t.ge with pipeHeld := g } } else t

/-- A group-wide instruction at `pc` as an origin: every lane is active. -/
def gxOrigin (pc g : Nat) : Origin := ⟨engGroup, pc, 0xFFFFFFFF, g⟩

/-- A fault of a group: it kills the job, and the group stops (R163). -/
def gxFault (c code g addr : Nat) (x : Group) (mask : Nat) (t : Tile) : Tile :=
  raise c engGroup code addr x.pc mask g t

/-- Cycles pass until a group is ready to issue, `fuel` at most. -/
def gxAwait (t g w : Nat) : Nat → State → State
  | 0, s => s
  | fuel + 1, s => if (gxPick s.cycle (tileAt s t) g w).isSome then s else gxAwait t g w fuel (advanceTo s (s.cycle + 1))

/-- Cycles a ready instruction is waited for: more than any latency, and more than any run of vector operations in the V slot. -/
def gxTries : Nat := 65536

/-- The issue of one instruction of group `g` at tile `t`; `sem` is its meaning at the issue cycle, given the group and its executing
lanes. A register that waits for memory makes the group pending; otherwise the issue falls in the first cycle in which a group
is ready, if it is this group's turn then (R135, R136). -/
def gxCmd (ok : Bool) (t g w : Nat) (sem : Nat → Nat → Group → State → GxOut) (s : State) : State :=
  match gxReady (tileAt s t) g with
  | none => s
  | some (x, _, _) =>
    let wait := (gxNeeds w ++ gxDsts w).filter (fun r => readyAt x r = never)
    if !ok then s
    else if !wait.isEmpty then updTile s t (pendGroup s.cycle s.us (.regs wait) g)
    else
      let s := gxAwait t g w gxTries s
      let c := s.cycle
      match gxReady (tileAt s t) g with
      | none => s
      | some (x, slot, _) =>
        if gxPick c (tileAt s t) g w ≠ some g then s
        else
          let mask := guardMask x w
          match (if gxListed (gOpc w) then sem c mask x s else .fault 0x04 0) with
          | .fault code addr => updTile s t (fun y => gxFault c code g addr x mask (gxIssued c s.us slot g y))
          | .wait p => updTile s t (pendGroup c s.us p g)
          | .hold pipe => updTile s t (gxHeld pipe g)
          | .go s' => updTile s' t (gxIssued c s.us slot g)

/-- The word carries one of the row's codes, or a reserved one. -/
def gxFits (codes : List Nat) (w : Nat) : Bool := codes.contains (gOpc w) || !gxListed (gOpc w)

/-- An instruction whose effect is on its group alone, which goes on behind it. -/
def gxLocal (t g : Nat) (f : Group → Group) (s : State) : GxOut :=
  .go (updTile s t (fun y => updGroup y g (fun x => goTo (x.pc + 8) (f x))))

/-! ### Arithmetic, moves, predicates, cross-lane (R140–R142) -/

/-- Cycles until a vector function's result is available (R140). -/
def vecLatency (n : Nat) : Nat := if 14 ≤ n && n ≤ 18 then 8 else 4

/-- Vector function `n` in GX. In format I the second source is IMM; a third source or a destination format has no
field of its own there, so that value is free. -/
def gxVec (n t g w : Nat) (c mask : Nat) (x : Group) (s : State) : GxOut :=
  let imm := gOpc w ≥ 0x80
  let vf := gFmt w
  let draws := (tileAt s t).ge.draws
  let df := if imm then (Config.tileNat t draws) % 5 else field w 16 14
  let r := regCount x
  let regs := [gD w, gS1 w] ++ (if imm || vecOneSource n then [] else [gS2 w]) ++
    (if vecThirdSource n && !imm then [gS3 w] else [])
  if 5 ≤ vf || !vecFmtOk n vf || (!imm && field w 8 0 ≠ 0) || (n = 9 && !imm && 5 ≤ df) || regs.any (r ≤ ·) then .fault 0x04 0
  else
    let res (i : Nat) : Nat × Nat :=
      vecFn n vf df (gReg x (gS1 w) i) (if imm then gImm w else gReg x (gS2 w) i)
        (if imm then Config.tileNat t (draws + 1 + i) % 2 ^ 32 else gReg x (gS3 w) i)
    let nans := ((lanesOf mask).map (fun i => (res i).2)).sum
    let x' := setReady (writeReg x mask (gD w) (fun i => (res i).1)) [gD w] (c + vecLatency n)
    let used := if imm && (vecThirdSource n || n = 9) then 33 else 0
    .go (updTile s t (fun y =>
      let y := { y with ge := { y.ge with draws := draws + used } }
      fcAdd 5 nans (setGroup y g (some (goTo (x.pc + 8) x')))))

/-- MOVI (R142). -/
def gxMovi (t g w c mask : Nat) (x : Group) (s : State) : GxOut :=
  if regCount x ≤ gD w || 5 ≤ gFmt w then .fault 0x04 0
  else gxLocal t g (fun x => setReady (writeReg x mask (gD w) (fun _ => gImm w)) [gD w] (c + 2)) s

/-- The special value of an index in a lane (R142). -/
def special (s : State) (t c : Nat) (x : Group) (idx lane : Nat) : Nat :=
  let record := (((tileAt s t).ge.cohorts.find? (·.id = x.cohort)).map (·.record)).getD 0
  if idx = 0 then lane
  else if idx = 1 then x.num
  else if idx = 2 then (recTag record).toNat
  else if idx = 3 then t
  else if idx = 4 then partOf s t
  else if idx = 5 then c % 2 ^ 32
  else if idx = 6 then c / 2 ^ 32 % 2 ^ 32
  else recParam record

/-- Reserved bits of format R, and FMT. -/
def rFormOk (w : Nat) : Bool := field w 8 0 = 0 && gFmt w ≤ 4

/-- RDSPEC (R142). -/
def gxRdspec (t g w c mask : Nat) (x : Group) (s : State) : GxOut :=
  if !rFormOk w || regCount x ≤ gD w || 8 ≤ gS1 w then .fault 0x04 0
  else gxLocal t g (fun x => setReady (writeReg x mask (gD w) (fun i => special s t c x (gS1 w) i)) [gD w] (c + 2)) s

/-- SETP (R142). DESIGN CHOICE (log entry 93): bits [7:3] of D are not read. -/
def gxSetp (t g w c mask : Nat) (x : Group) (s : State) : GxOut :=
  let cmp := field w 16 14
  if !rFormOk w || 6 ≤ cmp || regCount x ≤ gS1 w || regCount x ≤ gS2 w then .fault 0x04 0
  else
    let v := (lanesOf mask).foldl (fun acc i =>
      if vecCompare cmp (gFmt w) (gReg x (gS1 w) i) (gReg x (gS2 w) i) then acc + 2 ^ i else acc) 0
    gxLocal t g (fun x => setReady (setPred x (gD w % 8) mask v) [256 + gD w % 8] (c + 2)) s

/-- PLOG (R142). DESIGN CHOICE (log entry 93): bits [7:3] of D, S1 and S2 are not read. -/
def gxPlog (t g w c mask : Nat) (x : Group) (s : State) : GxOut :=
  let op := field w 16 14
  if !rFormOk w || 5 ≤ op then .fault 0x04 0
  else
    let a := gPred x (gS1 w % 8)
    let b := gPred x (gS2 w % 8)
    let all := 2 ^ 32 - 1
    let v := if op = 0 then a &&& b else if op = 1 then a ||| b else if op = 2 then a ^^^ b
      else if op = 3 then a &&& (all - b) else all - a
    gxLocal t g (fun x => setReady (setPred x (gD w % 8) mask v) [256 + gD w % 8] (c + 2)) s

/-- VOTE (R142). -/
def gxVote (t g w c mask : Nat) (x : Group) (s : State) : GxOut :=
  if !rFormOk w || regCount x ≤ gD w then .fault 0x04 0
  else
    let v := gPred x (gS1 w % 8) &&& mask
    gxLocal t g (fun x => setReady (writeReg x mask (gD w) (fun _ => v)) [gD w] (c + 2)) s

/-- SHFL: lane i reads lane j, or itself where j is outside or not active (R142). DESIGN CHOICE (log entry 93): S2 is a 32-bit number
without sign, and i + S2 and i − S2 do not wrap. -/
def gxShfl (t g w c mask : Nat) (x : Group) (s : State) : GxOut :=
  let mode := field w 16 15
  if !rFormOk w || regCount x ≤ gD w || regCount x ≤ gS1 w || regCount x ≤ gS2 w then .fault 0x04 0
  else
    let src (i : Nat) : Nat :=
      let b := gReg x (gS2 w) i
      let j : Int := if mode = 0 then b else if mode = 1 then (i : Int) - b else if mode = 2 then i + b else (i ^^^ b : Nat)
      if 0 ≤ j && j < 32 && mask.testBit j.toNat then gReg x (gS1 w) j.toNat else gReg x (gS1 w) i
    gxLocal t g (fun x' => setReady (writeReg x' mask (gD w) src) [gD w] (c + 4)) s

/-- FP32 ADD of a segment by halves: `vals` the 2^s lane values, h = 2^(k − 1) first (R142). -/
def foldHalves : Nat → List Nat → List Nat
  | 0, vals => vals
  | k + 1, vals =>
    let h := 2 ^ k
    foldHalves k (vals.zipIdx.map (fun p => if p.2 < h then (vecFn 1 0 0 p.1 (vals.getD (p.2 + h) 0) 0).1 else p.1))

/-- The fold of a segment: operation, format, span code, the lanes' values (none: inactive) (R142). -/
def foldSegment (op fmt k : Nat) (vals : List (Option Nat)) : Nat :=
  if op = 0 && fmt = 0 then (foldHalves k (vals.map (·.getD 0))).headD 0
  else
    let n := if op = 0 then 1 else if op = 1 then 5 else if op = 2 then 6 else if op = 3 then 19 else if op = 4 then 20 else 21
    (vals.filterMap id).tail.foldl (fun acc v => (vecFn n fmt 0 acc v 0).1) ((vals.filterMap id).headD 0)

/-- LFOLD (R142). -/
def gxLfold (t g w c mask : Nat) (x : Group) (s : State) : GxOut :=
  let op := field w 16 14
  let k := field w 13 11
  let fmt := gFmt w
  if field w 8 0 ≠ 0 || !(fmt = 0 || fmt = 3) || 6 ≤ op || (fmt = 0 && 3 ≤ op) || k = 0 || 6 ≤ k ||
     regCount x ≤ gD w || regCount x ≤ gS1 w then .fault 0x04 0
  else
    let val (i : Nat) : Option Nat := if mask.testBit i then some (gReg x (gS1 w) i) else none
    let seg (i : Nat) : Nat := foldSegment op fmt k ((List.range (2 ^ k)).map (fun j => val (i / 2 ^ k * 2 ^ k + j)))
    gxLocal t g (fun x' => setReady (writeReg x' mask (gD w) seg) [gD w] (c + (if fmt = 0 then 3 + k else 4))) s

/-! ### Control (R154, R155) -/

/-- NOP (R139). -/
def gxNop (t g w : Nat) (s : State) : GxOut := if !rFormOk w then .fault 0x04 0 else gxLocal t g id s

/-- BR (R154). -/
def gxBr (t g w mask : Nat) (x : Group) (s : State) : GxOut :=
  let tgt := ((x.pc : Int) + 8 * toSigned 24 (field w 47 24)).toNat
  let rpc := ((x.pc : Int) + 8 * toSigned 24 (field w 23 0)).toNat
  let rest := x.active.toNat - mask
  if field w 51 48 ≠ 0 then .fault 0x04 0
  else if mask = 0 then gxLocal t g id s
  else if rest = 0 then .go (updTile s t (fun y => updGroup y g (goTo tgt)))
  else if 32 ≤ x.stack.length then .fault 0x04 0
  else .go (updTile s t (fun y => updGroup y g (fun x =>
    goTo tgt { x with active := BitVec.ofNat 32 mask,
                      stack := ⟨BitVec.ofNat 32 rest, x.pc + 8, rpc, none⟩ :: x.stack })))

/-- EXIT (R155). -/
def gxExit (t g w mask : Nat) (x : Group) (s : State) : GxOut :=
  if !rFormOk w then .fault 0x04 0
  else
    let x' := goTo (x.pc + 8) { x with exited := x.exited ||| BitVec.ofNat 32 mask,
                                       active := x.active &&& ~~~BitVec.ofNat 32 mask }
    if x'.active = 0 then .go (updTile s t (endGroup s.cycle g x')) else .go (updTile s t (fun y => setGroup y g (some x')))

/-! ### Barriers, counters, spawning (R156–R159) -/

/-- An LS store of the group is still in the pipe: a release at any scope waits for it (R265). -/
def storing (y : Tile) (g : Nat) : Bool := y.ge.pipe.any (fun o => o.g = g && !o.load)

/-- The group's writes that have not been performed (R265): a buffered store, or an atomic, LADD, WRU or DISCARD without its reply. -/
def writesOut (y : Tile) (g : Nat) : Bool := y.l1.wbuf.any (fun e => e.gs.contains g) || y.l1.awaits.any (fun a => a.g = g)

/-- BAR (R157): as a release at tile scope it waits for LS stores in the pipe. -/
def gxBar (t g w c mask : Nat) (x : Group) (s : State) : GxOut :=
  let y := tileAt s t
  match y.ge.cohorts.find? (·.id = x.cohort) with
  | none => .fault 0x04 0
  | some co =>
    let e := kernelEntry y (recKernel co.record)
    if !rFormOk w || gS1 w / 16 ≠ 0 || !converged x || residentLimit y e < recGroups co.record then .fault 0x04 0
    else if mask = 0 then gxLocal t g id s
    else if storing y g then .hold false
    else
      let b := gS1 w % 16
      let came := fmGet [] co.bars b ++ [g]
      if came.length = co.live then
        .go (updTile s t (fun y =>
          let y := { y with ge := { y.ge with cohorts := y.ge.cohorts.map (fun z =>
            if z.id = co.id then { z with bars := fmSet [] z.bars b came } else z) } }
          releaseBarriers co.id (updGroup y g (fun x => goTo (x.pc + 8) x))))
      else
        .go (updTile s t (fun y =>
          let y := { y with ge := { y.ge with cohorts := y.ge.cohorts.map (fun z =>
            if z.id = co.id then { z with bars := fmSet [] z.bars b came } else z) } }
          pendGroup c s.us (.barrier b) g (updGroup y g (fun x => goTo (x.pc + 8) x))))

/-- WAITAC (R158): an acquire at device scope; a threshold reached passes at once. DESIGN CHOICE (log entry 93): S1 [7:6] must be 0. -/
def gxWaitac (t g w c mask : Nat) (x : Group) (s : State) : GxOut :=
  if !rFormOk w || 64 ≤ gS1 w || regCount x ≤ gS2 w || !converged x then .fault 0x04 0
  else
    let thr := gReg x (gS2 w) (lowLane x)
    let go (y : Tile) := updGroup y g (fun x => goTo (x.pc + 8) x)
    if mask = 0 || thr ≤ acSeen c (tileAt s t) (gS1 w) then .go (updTile s t go)
    else .go (updTile s t (fun y => pendGroup c s.us (.counter (gS1 w) thr) g (go y)))

/-- RDAC (R158). DESIGN CHOICE (log entry 93): S1 [7:6] must be 0. -/
def gxRdac (t g w c mask : Nat) (x : Group) (s : State) : GxOut :=
  if !rFormOk w || 64 ≤ gS1 w || gD w % 2 = 1 || regCount x ≤ gD w + 1 then .fault 0x04 0
  else
    let v := acNow (tileAt s t) (gS1 w)
    gxLocal t g (fun x => setReady (writeReg (writeReg x mask (gD w) (fun _ => v)) mask (gD w + 1) (fun _ => v / 2 ^ 32))
      [gD w, gD w + 1] (c + 2)) s

/-- MOVEG (R158, R159): a release at device scope, so it waits until the group's writes have been performed (R265); it
waits while the mover holds 16 descriptors; while a prune is pending nothing is queued and ERR is set (R43). DESIGN CHOICE (log entry
93): S1 [7:2] must be 0. -/
def gxMoveg (t g w c mask : Nat) (x : Group) (s : State) : GxOut :=
  let y := tileAt s t
  let m := gS1 w % 4
  let addr := gReg x (gS2 w) (lowLane x)
  if !rFormOk w || 4 ≤ gS1 w || regCount x ≤ gS2 w || !converged x || (mask ≠ 0 && (addr % 64 ≠ 0 || !inLs y addr 64)) ||
     !y.moverGe.getLsbD m then .fault 0x04 0
  else if mask = 0 then gxLocal t g id s
  else if writesOut y g || storing y g then .hold false
  else if pruning y then .go (updTile s t (fun y => updGroup (setErr m y) g (fun x => goTo (x.pc + 8) x)))
  else if 16 ≤ (moverAt y m).queue.length || ((moverAt y m).queue.length = 15 && (moverAt y m).freed = c) then .wait (.mover m)
  else .go (updTile s t (fun y =>
    updGroup (updMover y m (fun z => { z with queue := z.queue ++ [descNew addr (c + 1) (some g) (gxOrigin x.pc g) 2] })) g
      (fun x => goTo (x.pc + 8) x)))

/-- SPAWN (R130, R132, R158). DESIGN CHOICE (log entry 93): an offset that is not 8-byte aligned or lies outside LS, more than 4,096
groups, or a nonzero reserved field of the record is an illegal instruction. -/
def gxSpawn (t g w mask : Nat) (x : Group) (s : State) : GxOut :=
  let y := tileAt s t
  let addr := gReg x (gS1 w) (lowLane x)
  let rec_ : BitVec 64 := BitVec.ofNat 64 (leNat (memRead y.ls addr 8))
  if !rFormOk w || regCount x ≤ gS1 w || !converged x then .fault 0x04 0
  else if mask = 0 then gxLocal t g id s
  else if addr % 8 ≠ 0 || !inLs y addr 8 then .fault 0x04 0
  else if poisoned y addr 8 then .fault 0x02 0
  else if field rec_.toNat 46 44 ≠ 0 || kernelEntry y (recKernel rec_) = 0 || 4096 < recGroups rec_ then .fault 0x04 0
  else if 32 ≤ y.ge.launchQ.length then .wait .spawn
  else .go (updTile (bankAccess t 7 addr 8 s) t (fun y =>
    updGroup (enqueueRecord rec_ (lsRead addr 8 y).2) g (fun x => goTo (x.pc + 8) x)))

/-! ### Group-wide matrix instructions (R160–R162) -/

/-- Fields of a GMMA (R160) as the array takes them, its reads starting in cycle `c`. -/
def gmmaJob (x : Group) (w g c bank : Nat) : MmaJob :=
  let lane := lowLane x
  let reg (r : Nat) : Nat := gReg x r lane / 64 * 64
  { bank := bank, w := none, fa := field w 51 48, fb := field w 47 44, sa := w.testBit 43, sb := w.testBit 42,
    baseA := reg (field w 41 34), baseB := reg (field w 33 26), baseSa := reg (field w 25 18),
    baseSb := reg (field w 25 18 + 1), k := field w 17 2, feed := 0, m := 1, s := 0, i := 0, at_ := c, gotA := [],
    gotB := [], gotSa := [], gotSb := [], ge := some g, by_ := gxOrigin (x.pc - 8) g }

/-- Open cycles left at cycle `c`, counting it, and the lent bank. -/
def openLeft (q : Seq) (c : Nat) : Nat × Nat :=
  match q.grant with
  | some (first, last, b) => if first ≤ c && c ≤ last then (last + 1 - c, b) else (0, 0)
  | none => (0, 0)

/-- A GREAD as the readout path takes it, its snapshot in cycle `c` (R104, R162). -/
def greadJob (x : Group) (w g c bank : Nat) : ReadJob :=
  { bank := bank, mode := field w 51 50, clr := w.testBit 49, wNew := none, dst := gReg x (gD w) (lowLane x) / 64 * 64,
    t := c - 1, beats := [], nextAt := 0, ge := some g, by_ := gxOrigin (x.pc - 8) g }

/-- A GMMA or GREAD `w` that waits for a grant can start in cycle `c` (R161, R162). -/
def lentReady (t : Tile) (c w : Nat) : Bool :=
  let n := (openLeft t.seq c).1
  if gOpc w = 0x70 then field w 17 2 + 7 ≤ n && t.units.mmas.isEmpty && t.seq.arrayBusy ≠ c
  else readBeats (field w 51 50) + 3 ≤ n && t.units.reads.isEmpty

/-- The group-wide matrix instruction that a pending group waits to start. -/
def lentWait (x : Group) : Option Nat :=
  match x.pend with
  | .gmma w => some w
  | .gread w => some w
  | _ => none

/-- Group `g` is the one that starts in cycle `c`: no start has fallen there, and no lower group slot is ready to (R166). -/
def lentTurn (t : Tile) (c g : Nat) : Bool :=
  t.ge.lentAt ≠ c + 1 && !(residents t).any (fun p => p.1 < g && !p.2.stopped && (lentWait p.2).any (lentReady t c))

/-- The instruction starts in cycle `c`: the array or the readout path is its own. -/
def lentStart (g w c : Nat) (x : Group) (t : Tile) : Tile :=
  let b := (openLeft t.seq c).2
  let t := { t with ge := { t.ge with lentAt := c + 1 } }
  if gOpc w = 0x70 then { t with units := { t.units with mmas := [gmmaJob x w g c b] } }
  else { t with units := { t.units with reads := t.units.reads ++ [greadJob x w g c b] } }

/-- A GMMA or GREAD has passed its checks: it starts in the next cycle where that cycle admits it, and waits, pending, for a grant
otherwise (R136, R161, R162). -/
def lentIssue (t g w c : Nat) (s : State) : GxOut :=
  let y := updGroup (tileAt s t) g (fun x => goTo (x.pc + 8) x)
  match groupAt y g with
  | none => .go s
  | some x =>
    if lentReady y (c + 1) w && lentTurn y (c + 1) g then .go (setTile s t (lentStart g w (c + 1) x y))
    else .go (setTile s t (pendGroup c s.us (if gOpc w = 0x70 then .gmma w else .gread w) g y))

/-- GMMA issues: its checks; K = 0 completes at once; otherwise the group needs a grant (R156, R160, R161). -/
def gxGmma (t g w c : Nat) (x : Group) (s : State) : GxOut :=
  let fa := field w 51 48
  let fb := field w 47 44
  let sa := w.testBit 43
  let sb := w.testBit 42
  let n := regCount x
  if 8 ≤ fa || 8 ≤ fb || (sa && 6 ≤ fa) || (sb && 6 ≤ fb) || field w 1 0 ≠ 0 || field w 55 53 ≠ 0 || w.testBit 52 ||
     n ≤ field w 41 34 || n ≤ field w 33 26 || (sa && n ≤ field w 25 18) || (sb && n ≤ field w 25 18 + 1) then .fault 0x04 0
  else if !complete x then .fault 0x03 0
  else if field w 17 2 = 0 then gxLocal t g id s
  else if !mmaInLs (tileAt s t) (gmmaJob x w g c 0) then .fault 0x04 0
  else if storing (tileAt s t) g then .hold false
  else lentIssue t g w c s

/-- GREAD issues: its checks; the group needs a grant (R156, R162). -/
def gxGread (t g w c : Nat) (x : Group) (s : State) : GxOut :=
  let mode := field w 51 50
  let dst := gReg x (gD w) (lowLane x) / 64 * 64
  if mode = 3 || field w 40 0 ≠ 0 || field w 55 53 ≠ 0 || w.testBit 52 || regCount x ≤ gD w then .fault 0x04 0
  else if !complete x then .fault 0x03 0
  else if !inLs (tileAt s t) dst (64 * (readBeats mode + 1)) then .fault 0x04 0
  else if storing (tileAt s t) g then .hold false
  else lentIssue t g w c s

/-- A pending GMMA (`matrix`) or GREAD starts in the cycle after `c`, where that cycle admits it and it is its turn (R161, R162,
R166). -/
def startLent (matrix : Bool) (c g : Nat) (t : Tile) : Tile :=
  match groupAt t g with
  | none => t
  | some x => match lentWait x with
    | none => t
    | some w =>
      if !t.ge.stopped && !x.stopped && (gOpc w = 0x70) = matrix && lentReady t (c + 1) w && lentTurn t (c + 1) g then
        lentStart g w (c + 1) x (updGroup t g (fun x => { x with pend := .released }))
      else t

end Sys2Proof.Machine
end

