-- ==== Sys2Proof/Machine/GroupMem.lean ====
section
/-!
DEFINITION. Memory instructions of the group engine (R143–R153): LD, ST, ATOM, ATOMN and LADD in their three spaces,
with coalescing, the L1, the write buffer, release and acquire (R229–R235, R262, R265).
-/

namespace Sys2Proof.Machine

/-- Alignment of the data register (R143). -/
def dataRegOk (size r : Nat) : Bool := size ≤ 2 || (size = 3 && r % 2 = 0) || (size = 4 && r % 4 = 0)

/-- The 52-bit DM address of a lane, or the base's high word where its bits [31:20] are not zero (R144). -/
def laneVa (x : Group) (a lane : Nat) (ofs : Int) : Nat × Bool :=
  let hi := gReg x (a + 1) lane
  (ofSigned 52 (((hi % 2 ^ 20) * 2 ^ 32 + gReg x a lane : Nat) + ofs), decide (2 ^ 20 ≤ hi))

/-- A lane's access in DM: lane, physical address, range slot. -/
structure LaneAcc where
  lane : Nat
  pa : Nat
  slot : Nat
  deriving DecidableEq, Repr

/-- Lanes translated in ascending order: the accesses, or the address of the first lane that faults (R205, R272). -/
def translateLanes (s : State) (p : Nat) (need : Need) (x : Group) (a : Nat) (ofs : Int) :
    List Nat → Except Nat (List LaneAcc)
  | [] => .ok []
  | i :: rest =>
    let (va, bad) := laneVa x a i ofs
    if bad then .error va
    else match gxRange s p va need with
      | none => .error va
      | some (slot, pa) => (translateLanes s p need x a ofs rest).map (⟨i, pa, slot⟩ :: ·)

/-- Distinct values in order of first occurrence. -/
def distinct (xs : List Nat) : List Nat := xs.foldl (fun acc v => if acc.contains v then acc else acc ++ [v]) []

/-- Sectors of 32 bytes that accesses of `n` bytes at these addresses touch (R148). -/
def sectorsOf (n : Nat) (addrs : List Nat) : Nat := (distinct (addrs.map (fun a => a / 32 * 32))).length * (if n = 0 then 0 else 1)

/-- The L1 is bypassed: CACHE 01 or no L1 (R234). -/
def bypass (t : Tile) (cache : Nat) : Bool := cache = 1 || l1Sets t = 0

/-- A line discarded by group `g`: dropped without write-back, its buffered bytes dropped, DISCARD sent (R262). -/
def discardLine (t g pc lanes line : Nat) (s : State) : State :=
  let s := updTile s t (fun y =>
    let y := updL1 y (fun l => { l with wbuf := l.wbuf.filter (·.line ≠ line) })
    dropLine (addAwait ⟨line, g, false, [], 0, 0, pc, lanes, false⟩ y) line)
  send s (toHome s t tDISCARD (cmsg (partOf s t) line t 0))

/-- The sectors of a line that a load of a lane touches. -/
def loadSectors (l : LaneLoad) : BitVec 4 := maskSectors ((2 ^ l.size - 1) <<< l.off)

/-- The sectors that loads need. -/
def needSectors (ls : List LaneLoad) : BitVec 4 := ls.foldl (fun m l => m ||| loadSectors l) 0

/-- A GETS, or an RDU where the miss entry is one, for sectors of a line (R231, R234). -/
def askSectors (t line : Nat) (unc : Bool) (want : BitVec 4) (s : State) : State :=
  if want = 0 then s
  else
    let s := updTile s t (countEv 0x0B (popCount 4 want.toNat))
    send s (toHome s t (if unc then tRDU else tGETS) (cmsg (partOf s t) line t want))

/-- A fill requested for loads in one line: they join the line's miss entry, or a new one, and the sectors that are neither held nor
asked for yet are requested in one message (R231, R232, R234). -/
def missLine (t line cache : Nat) (loads : List LaneLoad) (s : State) : State :=
  let y := tileAt s t
  let x := l1Line y line
  let want := if x.st = .i then needSectors loads else needSectors loads &&& ~~~x.valid
  match y.l1.miss.find? (fun e => e.line = line) with
  | some e =>
    let e' : MissEntry := { e with loads := e.loads ++ loads, discard := e.discard || cache = 2, smask := e.smask ||| want }
    askSectors t line e.unc (want &&& ~~~e.smask)
      (updTile s t (fun y => updL1 y (fun l => { l with miss := l.miss.map (fun z => if z.line = line then e' else z) })))
  | none =>
    let e : MissEntry := ⟨line, want, loads, false, bypass y cache, cache = 2⟩
    askSectors t line e.unc want (updTile s t (fun y => updL1 y (fun l => { l with miss := l.miss ++ [e] })))

/-- LD from LS or group-local memory: lane addresses in LS, or none where one is outside (R144). -/
def lsLanes (t : Tile) (x : Group) (space a n : Nat) (ofs : Int) (lanes : List Nat) : Option (List (Nat × Nat)) :=
  let addr (i : Nat) : Option Nat :=
    let o : Int := (gReg x a i : Int) + ofs
    if o < 0 then none
    else if space = 1 then (if o.toNat + n ≤ x.glSize then some (x.glBase + o.toNat) else none)
    else if inLs t o.toNat n then some o.toNat else none
  lanes.foldr (fun i acc => match addr i, acc with
    | some v, some vs => some ((i, v) :: vs)
    | _, _ => none) (some [])

/-- Format and register checks of LD and ST (R143, R144, R146, R147). -/
def memOk (load : Bool) (x : Group) (w : Nat) : Bool :=
  let size := mSize w
  size ≤ 4 && mSpace w ≠ 3 && mCache w ≠ 3 && field w 4 0 = 0 && (mOrd w = 0 || mOrd w = (if load then 1 else 2)) &&
  dataRegOk size (gD w) && (spanRegs size (gD w)).all (· < regCount x) && gS1 w < regCount x &&
  (mSpace w ≠ 0 || (gS1 w % 2 = 0 && gS1 w + 1 < regCount x))

/-- An access to LS enters the load/store pipe: one sector a cycle, in the order in which the lanes first name them (R148). -/
def pipePut (load : Bool) (g reg size pc act : Nat) (acq : Bool) (lanes : List (Nat × Nat × List Byte)) (y : Tile) : Tile :=
  let sectors := distinct (lanes.map (fun l => l.2.1 / 32 * 32))
  if lanes.isEmpty then y
  else
    let y := countEv 0x0A sectors.length { y with ge := { y.ge with pipe := y.ge.pipe ++ [⟨g, load, lanes, sectors, reg, size, pc, act, acq⟩] } }
    if load then updGroup y g (fun x => setReady x (spanRegs size reg ++ (if acq then [acqReg] else [])) soon) else y

/-- An access that takes the load/store pipe for `k` cycles from the next one on (R149, R152). -/
def pipeTake (c k : Nat) (y : Tile) : Tile := countEv 0x0A k { y with ge := { y.ge with pipeFree := c + k } }

/-- The group has a write of its own under way to one of these lines, past its write buffer: a load waits for it (R145). -/
def ownWrite (y : Tile) (g : Nat) (lines : List Nat) : Bool := y.l1.awaits.any (fun a => a.g = g && lines.contains a.line)

/-- An LD of DM whose lanes have been translated. A line that is not wholly held is read wholly when it has been filled, so that each line
is seen as it was or as it becomes (R225). -/
def loadLines (t g w c mask : Nat) (x : Group) (as : List LaneAcc) (s : State) : State :=
  let y := tileAt s t
  let size := mSize w
  let n := 2 ^ size
  let acq := mOrd w = 1
  let lines := distinct (as.map (fun a => a.pa / 128))
  let mine (l : Nat) : List LaneAcc := as.filter (fun a => a.pa / 128 = l)
  let loads (l : Nat) : List LaneLoad := (mine l).map (fun a => ⟨g, a.lane, gD w, n, a.pa % 128, x.pc, mask, acq⟩)
  let held (a : LaneAcc) : Option (List Byte) := l1Read y (a.pa / 128) (a.pa % 128) n
  let full := lines.filter (fun l => (mine l).all (fun a => (held a).isSome))
  let part := lines.filter (fun l => !full.contains l)
  let k := sectorsOf n (as.map (·.pa))
  let rs := spanRegs size (gD w) ++ (if acq then [acqReg] else [])
  let s := (distinct (as.map (·.slot))).foldl (fun s i => noteLookup s (partOf s t) t i) s
  let s := updTile s t (fun y =>
    let x' := full.foldl (fun x l => (mine l).foldl (fun x a => putLane x size (gD w) a.lane ((held a).getD [])) x) x
    let x' := if as.isEmpty then x' else setReady x' rs (if part.isEmpty then c + k + 12 else never)
    let y := full.foldl (fun y l => fcAdd 0 (lineErrors (l1Line y l) (needSectors (loads l))).1 (useLine y l)) y
    pipeTake c k (setGroup y g (some (goTo (x.pc + 8) x'))))
  let s := part.foldl (fun s l => missLine t l (mCache w) (loads l) s) s
  if mCache w = 2 then full.foldl (fun s l => discardLine t g x.pc mask l s) s else s

/-- LD (R143–R149). -/
def gxLd (t g w c mask : Nat) (x : Group) (s : State) : GxOut :=
  let y := tileAt s t
  let size := mSize w
  let n := 2 ^ size
  let lanes := lanesOf mask
  if !memOk true x w then .fault 0x04 0
  else if mSpace w ≠ 0 then
    match lsLanes y x (mSpace w) (gS1 w) n (mOfs w) lanes with
    | none => .fault 0x04 0
    | some as =>
      if as.any (fun p => p.2 % n ≠ 0) then .fault 0x04 0
      else .go (updTile s t (fun y =>
        pipePut true g (gD w) size x.pc mask (mOrd w = 1) (as.map (fun p => (p.1, p.2, []))) (updGroup y g (goTo (x.pc + 8)))))
  else
    match translateLanes s (partOf s t) ⟨true, mCache w = 2⟩ x (gS1 w) (mOfs w) lanes with
    | .error va => .fault 0x01 va
    | .ok as =>
      let lines := distinct (as.map (fun a => a.pa / 128))
      let touched (l : Nat) : BitVec 4 :=
        as.foldl (fun m a => if a.pa / 128 = l then m ||| maskSectors ((2 ^ n - 1) <<< (a.pa % 128)) else m) 0
      let fresh := lines.filter (fun l =>
        as.any (fun a => a.pa / 128 = l && (l1Read y l (a.pa % 128) n).isNone) && !y.l1.miss.any (·.line = l))
      if as.any (fun a => a.pa % n ≠ 0) then .fault 0x04 0
      else if ownWrite y g lines then .hold false
      else if 32 < y.l1.miss.length + fresh.length then .hold true
      else if lines.any (fun l => (lineErrors (l1Line y l) (touched l)).2) then .fault 0x02 0
      else .go (loadLines t g w c mask x as s)

/-- The bytes and byte mask a store puts into one line, over its lanes in the order given: where two lanes name one
byte, the later one stands. -/
def storeBytes (x : Group) (size reg line : Nat) (as : List LaneAcc) : List Byte × Nat :=
  as.foldl (fun acc a =>
    if a.pa / 128 = line then
      let m := (2 ^ 2 ^ size - 1) <<< (a.pa % 128)
      (mergeMask acc.1 (zeros (a.pa % 128) ++ laneBytes x size reg a.lane) m, acc.2 ||| m)
    else acc) (zeros 128, 0)

/-- One line of a store at the L1 (R233, R234). -/
def storeLine (t g pc act line cache : Nat) (data : List Byte) (mask : Nat) (s : State) : State :=
  let y := tileAt s t
  let x := l1Line y line
  if x.st = .m || x.st = .e then
    let s := updTile s t (fun y => useLine (storeHit y line data mask) line)
    if cache = 2 then discardLine t g pc act line s else s
  else if bypass y cache then
    let s := updTile s t (fun y => addAwait ⟨line, g, false, [], 0, 0, pc, act, false⟩ (if x.st = .s then dropLine y line else y))
    let m := { cmsg (partOf s t) line t (maskSectors mask) with mask := BitVec.ofNat 128 mask, data := mergeMask (zeros 128) data mask }
    let s := send s (toHome s t tWRU m)
    if cache = 2 then discardLine t g pc act line s else s
  else
    let new := (wbufOf y line).isNone
    let s := updTile s t (fun y => bufferStore y g pc act line data mask (cache = 2))
    if new then send s (toHome s t tGETM (cmsg (partOf s t) line t 15)) else s

/-- A list turned so that it begins at its element `k`: the spec gives no order where two lanes of one ST name one byte, so which lane
comes last is free, by a draw of the tile alone (R18). -/
def turned {α : Type} (k : Nat) (xs : List α) : List α :=
  let k := k % max 1 xs.length
  xs.drop k ++ xs.take k

/-- ST (R143–R149). A release waits until the group's earlier writes have been performed (R146, R265). -/
def gxSt (t g w c mask : Nat) (x : Group) (s : State) : GxOut :=
  let y := tileAt s t
  let size := mSize w
  let n := 2 ^ size
  let lanes := lanesOf mask
  let (y', draw) := drawTile t y
  if !memOk false x w then .fault 0x04 0
  else if mOrd w = 2 && mScope w ≠ 0 && mSpace w = 0 && writesOut y g then .hold false
  else if mSpace w ≠ 0 then
    match lsLanes y x (mSpace w) (gS1 w) n (mOfs w) lanes with
    | none => .fault 0x04 0
    | some as =>
      if as.any (fun p => p.2 % n ≠ 0) then .fault 0x04 0
      else
        let put := (turned draw as).map (fun p => (p.1, p.2, laneBytes x size (gD w) p.1))
        .go (setTile s t (pipePut false g 0 size x.pc mask false put (updGroup y' g (goTo (x.pc + 8)))))
  else
    match translateLanes s (partOf s t) ⟨false, true⟩ x (gS1 w) (mOfs w) lanes with
    | .error va => .fault 0x01 va
    | .ok as =>
      let lines := distinct (as.map (fun a => a.pa / 128))
      let need := lines.filter (fun l =>
        let z := l1Line y l
        !(z.st = .m || z.st = .e) && !bypass y (mCache w) && (wbufOf y l).isNone)
      if as.any (fun a => a.pa % n ≠ 0) then .fault 0x04 0
      else if 32 < y.l1.wbuf.length + need.length then .hold true
      else
        let order := turned draw as
        let s := setTile s t (pipeTake c (sectorsOf n (as.map (·.pa))) (updGroup y' g (goTo (x.pc + 8))))
        let s := (distinct (as.map (·.slot))).foldl (fun s i => noteLookup s (partOf s t) t i) s
        .go (lines.foldl (fun s l => let b := storeBytes x size (gD w) l order; storeLine t g x.pc mask l (mCache w) b.1 b.2 s) s)

/-- A lane's operand of an atomic: one register, or a pair (R150). -/
def laneOperand (x : Group) (size r lane : Nat) : Nat :=
  if size = 2 then gReg x r lane else gReg x r lane + gReg x (r + 1) lane * 2 ^ 32

/-- ATOM (fetch) and ATOMN: the lanes of one address travel as one operation, in ascending lane order (R150–R152). An
ATOMIC that fetches carries 1 in `count`. -/
def gxAtomic (fetch : Bool) (t g w c mask : Nat) (x : Group) (s : State) : GxOut :=
  let size := mSize w
  let n := 2 ^ size
  let aop := aAop w
  let acq := aOrd w % 2 = 1
  let dst := spanRegs size (gD w)
  if !(size = 2 || size = 3) || 11 ≤ aop || (aop = 1 && size ≠ 2) || field w 7 0 ≠ 0 || gS1 w % 2 = 1 ||
     regCount x ≤ gS1 w + 1 || !(spanRegs size (gS2 w)).all (· < regCount x) ||
     (aop = 10 && !(spanRegs size (gS3 w)).all (· < regCount x)) || (fetch && !dst.all (· < regCount x)) then .fault 0x04 0
  else if aOrd w ≥ 2 && aScope w ≠ 0 && writesOut (tileAt s t) g then .hold false
  else match translateLanes s (partOf s t) ⟨true, true⟩ x (gS1 w) 0 (lanesOf mask) with
    | .error va => .fault 0x01 va
    | .ok as =>
      if as.any (fun a => a.pa % n ≠ 0) then .fault 0x04 0
      else
        let addrs := distinct (as.map (·.pa))
        let waits := if as.isEmpty then [] else (if fetch then dst else []) ++ (if acq then [acqReg] else [])
        let s := (distinct (as.map (·.slot))).foldl (fun s i => noteLookup s (partOf s t) t i) s
        let s := updTile s t (fun y =>
          let y := updGroup y g (fun x => goTo (x.pc + 8) (setReady x waits never))
          let y := if aop = 1 then countEv 0x14 1 (fcAdd 7 1 y) else y
          pipeTake c addrs.length y)
        .go (addrs.foldl (fun s pa =>
          let mine := as.filter (fun a => a.pa = pa)
          let ops := mine.map (fun a => (laneOperand x size (gS2 w) a.lane, if aop = 10 then laneOperand x size (gS3 w) a.lane else 0))
          let s := updTile s t (addAwait ⟨pa / 128, g, fetch, mine.map (·.lane), gD w, n, x.pc, mask, acq⟩)
          let m := { cmsg (partOf s t) (pa / 128) t 0 with
            aop := aop, size := n, ord := aOrd w + 4 * aScope w, off := pa % 128, ops := ops, count := bnat fetch }
          send s (toHome s t tATOMIC m)) s)

/-- LADD: lane 0 gives the address, lane i element i, a lane guarded off zero (R153). DESIGN CHOICE (log entry 93): the address comes from lane 0 where that
lane has exited or is guarded off too, and the element of a lane that has exited is zero. -/
def gxLadd (t g w c mask : Nat) (x : Group) (s : State) : GxOut :=
  let fmt := aAop w
  let wide := fmt = 1 || fmt = 2
  let n := regCount x
  if 4 ≤ fmt || field w 7 0 ≠ 0 || gS1 w % 2 = 1 || n ≤ gS1 w + 1 || n ≤ gS2 w || (wide && n ≤ gS2 w + 1) || !converged x then
    .fault 0x04 0
  else if mask = 0 then gxLocal t g id s
  else match translateLanes s (partOf s t) ⟨true, true⟩ x (gS1 w) 0 [0] with
    | .error va => .fault 0x01 va
    | .ok as =>
      let a := as.headD ⟨0, 0, 0⟩
      if a.pa % (if wide then 256 else 128) ≠ 0 then .fault 0x04 0
      else
        let elem (i : Nat) : List Byte :=
          if !mask.testBit i then zeros (if wide then 8 else 4)
          else natLe 4 (gReg x (gS2 w) i) ++ (if wide then natLe 4 (gReg x (gS2 w + 1) i) else [])
        let bytes := (List.range 32).flatMap elem
        let lines := if wide then [(a.pa / 128, bytes.take 128), (a.pa / 128 + 1, bytes.drop 128)] else [(a.pa / 128, bytes)]
        let s := noteLookup s (partOf s t) t a.slot
        let s := updTile s t (fun y =>
          let y := updGroup y g (goTo (x.pc + 8))
          let y := if fmt = 3 then countEv 0x14 1 (fcAdd 7 1 y) else y
          pipeTake c lines.length y)
        .go (lines.foldl (fun s l =>
          let s := updTile s t (addAwait ⟨l.1, g, false, [], 0, 0, x.pc, mask, false⟩)
          send s (toHome s t tLADD { cmsg (partOf s t) l.1 t 15 with info := BitVec.ofNat 3 fmt, data := l.2 })) s)

end Sys2Proof.Machine
end

