-- ==== Sys2Proof/Machine/Snoop.lean ====
section
/-!
DEFINITION. What arrives at a tile's L1 (R231–R235, R241, R247, R252, R256): forwards, invalidations, recalls, data,
acknowledgements, fetched values.
-/

namespace Sys2Proof.Machine

/-- The virtual address of a physical one in a partition's DM ranges, for a fault record (R165); 0 where no range holds
it. -/
def vaOfPa (s : State) (p pa : Nat) : Nat :=
  match (xlAt s p).table.find? (fun x => rTarget x.2 = 0 && rPbase x.2 ≤ pa && pa < rPbase x.2 + rLen x.2 * 4096) with
  | some (_, e) => rStart e * 4096 + (pa - rPbase e)
  | none => 0

/-- A poison fault of a group on a line, raised when its reply comes (R256); 64 is a group that has ended. -/
def poisonGroup (s : State) (t g pc lanes line : Nat) : State :=
  let va := vaOfPa s (partOf s t) (128 * line)
  if g = jobGone then s else updTile s t (fun y => raise s.cycle engGroup 0x02 va pc lanes (if g = 64 then 0xFF else g) y)

/-- A response of a tile to a home or ring agent (R243: TILE is the sender). -/
def tileReply (t : Nat) (m : CMsg) (smask : BitVec 4) : CMsg := cmsg m.part m.line t smask

/-- Where a forward, INV or RECALL is answered: the home of the line, or the ring agent that sent the INV (R246). -/
def replyTo (s : State) (m : CMsg) : NetDst :=
  if 0x1FF0 ≤ m.tile.toNat && m.tile.toNat ≤ 0x1FF3 then .ring (m.tile.toNat - 0x1FF0) else .home (homeOf s m.part m.line)

/-- NOT_PRESENT from a tile, or from the router of a Pruned one (R247). -/
def notPresentFrom (s : State) (t : Nat) (d : NetDst) (m : CMsg) : State :=
  send s (.coh d (some t) tNOTPRES (tileReply t m 0))

/-- The data an owner sends to the requester of a forward; to the home itself where the request came from no tile. -/
def ownerData (s : State) (t : Nat) (m : CMsg) (grant : Nat) (dmask : BitVec 4) (x : L1Line) : State :=
  if m.tile.toNat = 0x1FFF then s
  else send s (.coh (.tile m.tile.toNat) (some t) tDATA
    { cmsg m.part m.line t m.smask with
      info := BitVec.ofNat 3 grant, dmask := dmask, data := packSectors x.data m.smask, poison := (lineErrors x m.smask).2 })

/-- FWD_ACK to the home with the owner's new state (0 I, 1 S, 2 O) and the sectors it carries. -/
def fwdAckFrom (s : State) (t : Nat) (m : CMsg) (info : Nat) (smask : BitVec 4) (x : L1Line) : State :=
  send s (.coh (.home (homeOf s m.part m.line)) (some t) tFWDACK
    { cmsg m.part m.line t smask with
      info := BitVec.ofNat 3 info, dmask := smask, data := packSectors x.data smask, poison := (lineErrors x smask).2 })

/-- A forward served by the L1 that holds the line, once its banks are free (R27, R241); errors found in the sectors read are corrected
or make the data Poison (R30). Data under FWD_M carries the dirty mask; data under FWD_S is clean at the receiver. An S copy answers as
an E copy. -/
def serveForward (s : State) (typ t : Nat) (m : CMsg) : State :=
  let s := l1Access t m.line s
  let x := l1Line (tileAt s t) m.line
  let dirty := x.st = .m || x.st = .o
  let rd := if typ = tFWDS then m.smask else if typ = tFWDM then 15 else if dirty then x.dirty else 0
  let s := updTile s t (fcAdd 0 (lineErrors x rd).1)
  if typ = tFWDS then
    let s := ownerData s t m (if m.count = 1 then 0 else 1) 0 x
    let home := if m.tile.toNat = 0x1FFF then m.smask else 0
    let s := updTile s t (fun y => setLine y m.line { x with st := if dirty then .o else .s })
    fwdAckFrom s t m (if dirty then 2 else 1) home x
  else if typ = tFWDM then
    let s := updTile s t (fun y => dropLine y m.line)
    let s := ownerData s t { m with smask := 15 } 3 (if dirty then x.dirty else 0) x
    fwdAckFrom s t m 0 0 x
  else
    let s := updTile s t (fun y => dropLine y m.line)
    fwdAckFrom s t m 0 (if dirty then x.dirty else 0) x

/-- FWD_S, FWD_M or RECALL at tile `t` (R241, R247, R252). A tile whose own GETM fill is pending, and that does not own
the line, holds the forward, unless the forward names that tile itself. -/
def forwardAt (typ t : Nat) (m : CMsg) (s : State) : State :=
  arrive s (.coh (.tile t) none typ m) (fun s =>
    let y := tileAt s t
    let x := l1Line y m.line
    if y.regs.state = .routerFault then s
    else if y.regs.state = .pruned then notPresentFrom s t (.home (homeOf s m.part m.line)) m
    else if x.st = .m || x.st = .e || x.st = .o then serveForward s typ t m
    else if y.l1.wbs.any (·.line = m.line) then
      send s (.coh (.home (homeOf s m.part m.line)) (some t) tWBIF (tileReply t m 0))
    else if y.l1.wbuf.any (·.line = m.line) && m.tile.toNat ≠ t then
      updTile s t (fun y => updL1 y (fun l => { l with held := l.held ++ [(typ, m)] }))
    else if x.st = .s then serveForward s typ t m
    else notPresentFrom s t (.home (homeOf s m.part m.line)) m)

/-- INV at tile `t`: the copy is dropped, whatever its state; a pending GETS will not install (R252). -/
def invAt (t : Nat) (m : CMsg) (s : State) : State :=
  arrive s (.coh (.tile t) none tINV m) (fun s =>
    let y := tileAt s t
    let d := replyTo s m
    if y.regs.state = .routerFault then s
    else if y.regs.state = .pruned then notPresentFrom s t d m
    else
      let pend := y.l1.miss.any (fun e => e.line = m.line && !e.unc)
      let had := (l1Line y m.line).st ≠ .i
      let s := updTile s t (fun y => updL1 (dropLine y m.line) (fun l =>
        { l with miss := l.miss.map (fun e => if e.line = m.line && !e.unc then { e with invd := true } else e) }))
      if had || pend then send s (.coh d (some t) tINVACK (tileReply t m 0)) else notPresentFrom s t d m)

/-- A load or fetch of group `g` into `reg` is outstanding; an acquire of the group is. -/
def filling (y : Tile) (g reg : Nat) : Bool :=
  y.l1.miss.any (fun e => e.loads.any (fun l => l.g = g && l.reg = reg)) || y.l1.awaits.any (fun a => a.fetch && a.g = g && a.reg = reg)
def acquiring (y : Tile) (g : Nat) : Bool :=
  y.l1.miss.any (fun e => e.loads.any (fun l => l.g = g && l.acq)) || y.l1.awaits.any (fun a => a.g = g && a.acq)

/-- Registers become available in the cycle after the last reply that fills them (R149, R152), and the group's later memory instructions
after its last acquire (R146). -/
def settleReg (c : Nat) (g reg size : Nat) (y : Tile) : Tile :=
  let sizeCode := if size ≤ 4 then 2 else if size = 8 then 3 else 4
  let rs := (if filling y g reg then [] else spanRegs sizeCode reg) ++ (if acquiring y g then [] else [acqReg])
  updGroup y g (fun x => setReady x (rs.filter (fun r => readyAt x r = never)) (c + 1))

/-- Two lanes' loads belong to one instruction. -/
def sameLoad (a b : LaneLoad) : Bool := a.g = b.g && a.pc = b.pc && a.reg = b.reg && a.lanes = b.lanes

/-- The loads of a miss entry that the sectors `mask` serve: all the lanes of an instruction at once (R225). -/
def servable (mask : BitVec 4) (ls : List LaneLoad) : List LaneLoad :=
  ls.filter (fun l => needSectors (ls.filter (sameLoad l)) &&& ~~~mask = 0)

/-- Loads served with a line's bytes in cycle `c`; buffered stores of the tile stand over them (R233). -/
def serveLoads (c line : Nat) (ls : List LaneLoad) (data : List Byte) (y : Tile) : Tile :=
  let data := match wbufOf y line with
    | some b => mergeMask data b.data b.mask
    | none => data
  ls.foldl (fun y l =>
    let code := if l.size = 1 then 0 else if l.size = 2 then 1 else if l.size = 4 then 2 else if l.size = 8 then 3 else 4
    settleReg c l.g l.reg l.size (updGroup y l.g (fun x => putLane x code l.reg l.lane ((data.drop l.off).take l.size)))) y

/-- Every held forward for a line is served once the line is there (R252). -/
def serveHeld (s : State) (t line : Nat) : State :=
  let held := (tileAt s t).l1.held.filter (fun h => h.2.line = line)
  let s := updTile s t (fun y => updL1 y (fun l => { l with held := l.held.filter (fun h => h.2.line ≠ line) }))
  held.foldl (fun s h =>
    if (l1Line (tileAt s t) line).st = .i then notPresentFrom s t (.home (homeOf s h.2.part line)) h.2
    else serveForward s h.1 t h.2) s

/-- The M grant of a GETM: the fill, the buffered stores merged, forwards served, a discarding store's DISCARD (R233,
R241, R252, R262). -/
def grantM (s : State) (t : Nat) (m : CMsg) (b : WbufEntry) : State :=
  let x := l1Line (tileAt s t) m.line
  let base := if m.smask = 0 then x.data else mergeSectors x.data m.data m.smask
  let dirty := (if m.smask = 0 then x.dirty else m.dmask) ||| maskSectors b.mask
  let s := updTile s t (fun y => updL1 y (fun l => { l with wbuf := l.wbuf.filter (·.line ≠ m.line) }))
  let s := install s t m.line .m 15 dirty (mergeMask base b.data b.mask)
  let s := serveHeld s t m.line
  if b.discard then discardLine t (b.gs.headD 64) b.pc b.lanes m.line s else s

/-- The reply `m` to a miss entry, with what of it stands in the L1: the loads whose sectors are there are served; the entry goes when
nothing is left of it, and asks again for the sectors its loads still lack once every reply has come (R232, R252). -/
def fillMiss (s : State) (t : Nat) (m : CMsg) (e : MissEntry) : State :=
  let y := tileAt s t
  let x := l1Line y m.line
  let owned := x.st = .m || x.st = .e || x.st = .o
  let here := if x.st = .i then 0 else x.valid
  let data := if owned then x.data else mergeSectors x.data m.data m.smask
  let done := servable (if owned then 15 else here ||| m.smask) e.loads
  let left := e.loads.filter (fun l => !done.contains l)
  let out := e.smask &&& ~~~m.smask
  let put (f : List MissEntry → List MissEntry) (y : Tile) : Tile := updL1 y (fun l => { l with miss := f l.miss })
  let again := out = 0 && !left.isEmpty
  let want := needSectors left &&& ~~~here
  let e' : MissEntry := { e with loads := left, smask := if again then want else out, invd := e.invd && !again }
  let s := updTile s t (fun y =>
    let y := put (fun es => if left.isEmpty && out = 0 then es.filter (·.line ≠ m.line) else es.map (fun z => if z.line = m.line then e' else z)) y
    serveLoads s.cycle m.line done data y)
  let s := if again then askSectors t m.line e.unc want s else s
  let l := e.loads.headD ⟨64, 0, 0, 0, 0, 0, 0, false⟩
  if left.isEmpty && out = 0 && e.discard then discardLine t l.g l.pc l.lanes m.line s else s

/-- DATA at tile `t`, which has left the network (R231–R234, R252, R256). -/
def dataNow (t : Nat) (m : CMsg) (s : State) : State :=
  let y := tileAt s t
  let miss := y.l1.miss.find? (fun e => e.line = m.line)
  let wb := wbufOf y m.line
  if m.poison then
    match miss, wb with
    | some e, _ =>
      let s := updTile s t (fun y => updL1 y (fun l => { l with miss := l.miss.filter (·.line ≠ m.line) }))
      match e.loads with
      | [] => s
      | l :: _ => poisonGroup s t l.g l.pc l.lanes m.line
    | none, some b =>
      let s := updTile s t (fun y => updL1 y (fun l => { l with wbuf := l.wbuf.filter (·.line ≠ m.line) }))
      if b.mask = 0 then s else poisonGroup s t (b.gs.headD 64) b.pc b.lanes m.line
    | none, none => s
  else if m.info = 3 then
    match wb with
    | none => s
    | some b => grantM (l1Access t m.line s) t m b
  else match miss with
    | none => s
    | some e =>
      let x := l1Line y m.line
      if e.unc || m.info = 0 || e.invd || x.st = .m || x.st = .e || x.st = .o then fillMiss s t m e
      else
        let s := l1Access t m.line s
        let st := if m.info = 2 then L1State.e else .s
        fillMiss (install s t m.line st (x.valid ||| m.smask) 0 (mergeSectors x.data m.data m.smask)) t m e

/-- DATA at tile `t`. A fill that finds no way, or no write-back entry for its victim, waits (R230, R235). -/
def dataAt (t : Nat) (m : CMsg) (s : State) : State :=
  let y := tileAt s t
  let src := if m.tile.toNat < nTiles then some m.tile.toNat else none
  let miss := y.l1.miss.find? (fun e => e.line = m.line)
  let fills := !m.poison && (if m.info = 3 then (wbufOf y m.line).isSome else m.info ≠ 0 && miss.any (fun e => !e.unc && !e.invd))
  if fills && !canInstall y m.line then s else arrive s (.coh (.tile t) src tDATA m) (fun s => drainPruned (dataNow t m s) t)

/-- The first awaited reply for a line outside the miss entries. -/
def awaitOn (y : Tile) (line : Nat) (fetch : Bool) : Option Await :=
  y.l1.awaits.find? (fun a => a.line = line && (a.fetch = fetch))

/-- ACK at the L1 of tile `t`: it frees the write-back entry of the line, or completes the oldest write awaiting one; an
ACK with POISON is the fault of R256. -/
def ackL1 (t : Nat) (m : CMsg) (s : State) : State :=
  arrive s (.coh (.tile t) none tACK m) (fun s =>
    let y := tileAt s t
    let dropA (a : Await) (y : Tile) : Tile := updL1 y (fun l => { l with awaits := l.awaits.erase a })
    if m.poison then
      match y.l1.awaits.find? (fun a => a.line = m.line) with
      | none => s
      | some a => poisonGroup (updTile s t (dropA a)) t a.g a.pc a.act m.line
    else if y.l1.wbs.any (·.line = m.line) then
      drainPruned (updTile s t (fun y => updL1 y (fun l => { l with wbs := l.wbs.filter (·.line ≠ m.line) }))) t
    else match awaitOn y m.line false with
      | none => s
      | some a => updTile s t (fun y => settleReg s.cycle a.g a.reg a.size (dropA a y)))

/-- ATOMR at tile `t`: the lanes' fetched values, in lane order (R151, R244). -/
def atomrAt (t : Nat) (m : CMsg) (s : State) : State :=
  arrive s (.coh (.tile t) none tATOMR m) (fun s =>
    match awaitOn (tileAt s t) m.line true with
    | none => s
    | some a =>
      updTile s t (fun y =>
        let y := updL1 y (fun l => { l with awaits := l.awaits.erase a })
        let code := if a.size = 4 then 2 else 3
        let y := a.lanes.zipIdx.foldl (fun y p =>
          updGroup y a.g (fun x => putLane x code a.reg p.1 (natLe a.size (m.vals.getD p.2 0)))) y
        settleReg s.cycle a.g a.reg a.size y))

/-- CNT at a tile: the bytes counted at its counter in this cycle (R215, R216), nothing at a Pruned tile (R46); then the mover's ACK
leaves (R212). -/
def cntAt (t : Nat) (m : CMsg) (s : State) : State :=
  arrive s (.coh (.tile t) none tCNT m) (fun s =>
    sendAck (updTile s t (fun y => if isPruned y then y else acAdd s.cycle (m.ac % 64) m.count y)) (cntAck m) false)

end Sys2Proof.Machine
end

