-- ==== Sys2Proof/Machine/Movers.lean ====
section
/-!
DEFINITION. The movers (R207–R218): descriptors, their checks, the copies piece by piece, MW and MACK, subtraction,
retirement; and the lookup that a tile makes of itself (R271–R276).
-/

namespace Sys2Proof.Machine

/-- Fields of a descriptor (R207). -/
def dKind (d : Nat) : Nat := field d 63 60
def dSrcSp (d : Nat) : Nat := field d 59 58
def dDstSp (d : Nat) : Nat := field d 57 56
def dDstTile (d : Nat) : Nat := field d 55 43
def dCntTile (d : Nat) : Nat := field d 42 30
def dAc (d : Nat) : Nat := field d 29 24
def dSac (d : Nat) : Nat := if d.testBit 17 then 1 + field d 23 18 else 0
def dSrc (d : Nat) : Nat := field d 127 64
def dDst (d : Nat) : Nat := field d 191 128
def dRows (d : Nat) : Nat := field d 223 204
def dRowLen (d : Nat) : Nat := field d 255 224
def dSrcStride (d : Nat) : Int := toSigned 48 (field d 303 256)
def dDstStride (d : Nat) : Int := toSigned 48 (field d 367 320)
def dAmount (d : Nat) : Nat := field d 431 384

/-- Reserved bits of every descriptor. -/
def dReserved (d : Nat) : Nat := field d 511 432 + field d 383 368 + field d 319 304 + field d 203 192 + field d 16 0

/-- The descriptor copies no byte (R210). -/
def dZero (d : Nat) : Bool := dRowLen d = 0 || dRows d = 0

/-- Address of row `i` of the source and destination. -/
def srcRow (d i : Nat) : Int := (dSrc d : Int) + i * dSrcStride d
def dstRow (d i : Nat) : Int := (dDst d : Int) + i * dDstStride d

/-- The zero bits of an address form (R207): [63:23] of an LS form, [63:52] of a virtual address. -/
def addrFormOk (sp a : Nat) : Bool := if sp = 0 then field a 63 23 = 0 else field a 63 52 = 0

/-- An AC_SUB uses KIND, AC and AMOUNT alone (R207). -/
def subFieldsOk (d : Nat) : Bool :=
  dReserved d = 0 && dSrc d = 0 && dDst d = 0 && dRowLen d = 0 && dRows d = 0 && field d 367 320 = 0 && field d 303 256 = 0 &&
  field d 59 30 = 0 && field d 23 17 = 0

/-- The conditions of R209 that need no translation, for a COPY of tile `t`; each is fault code 0x04. A descriptor of
zero length is spared those on its addresses (R210). DEDUCED (log entry 98): CNT_TILE of an LS destination, which R207 leaves without
use, must lie in the partition all the same. -/
def copyFieldsOk (s : State) (t d : Nat) : Bool :=
  let p := partOf s t
  let z := dZero d
  dKind d = 0 && dSrcSp d ≤ 1 && dDstSp d ≤ 1 && dReserved d = 0 && dAmount d = 0 &&
  (z || (addrFormOk (dSrcSp d) (dSrc d) && addrFormOk (dDstSp d) (dDst d))) && (dDstSp d = 0 || dDstTile d = 0) &&
  (z || (dSrc d % 8 = 0 && dDst d % 8 = 0)) && dRowLen d % 8 = 0 && dSrcStride d % 8 = 0 && dDstStride d % 8 = 0 &&
  (dRows d ≤ 1 || dRowLen d ≤ (dDstStride d).natAbs) && dRowLen d * dRows d ≤ 2 ^ 44 &&
  (if dDstSp d = 0 then inPart s p (dDstTile d) && inPart s p (dCntTile d) else !z || inPart s p (dCntTile d)) &&
  (z || dSrcSp d ≠ 0 || (List.range (dRows d)).all (fun i =>
    0 ≤ srcRow d i && inLs (tileAt s t) (srcRow d i).toNat (dRowLen d)))

/-- The ranges that the bytes [va, va + n) lie in, one after another in one target space, or the first byte that fails
(R209, R272, R275). -/
def xlateSpan (s : State) (p : Nat) (write : Bool) : Nat → Nat → Nat → Option Nat → Except Nat (List (Nat × Nat))
  | 0, va, _, _ => .error va
  | fuel + 1, va, n, sp =>
    match findRange s p va with
    | none => .error va
    | some (i, e) =>
      if !(if write then rWrite e else rRead e) || sp.any (· ≠ rTarget e) then .error va
      else
        let top := (rStart e + rLen e) * 4096
        if va + n ≤ top then .ok [(i, e)]
        else (xlateSpan s p write fuel top (n - (top - va)) (some (rTarget e))).map ((i, e) :: ·)

/-- The ranges of rows at the given addresses. -/
def xlateRows (s : State) (p : Nat) (write : Bool) (n : Nat) : List Int → Except Nat (List (Nat × Nat))
  | [] => .ok []
  | a :: rest =>
    if a < 0 || 2 ^ 52 ≤ a then .error (ofSigned 64 a)
    else match xlateSpan s p write ((xlAt s p).table.length + 1) a.toNat n none with
      | .error v => .error v
      | .ok xs => (xlateRows s p write n rest).map (xs ++ ·)

/-- The entry, among those a descriptor found, that a virtual address falls in; 0 where none. -/
def entryFor (ents : List (Nat × Nat)) (va : Nat) : Nat := ((ents.find? (fun x => rHits x.2 va)).map (·.2)).getD 0

/-- The space of a row (R208): 0 LS, 1 DM, 2 Seedbank, 3 window. -/
def spaceOf (ents : List (Nat × Nat)) (sp : Nat) (a : Int) : Nat :=
  if sp = 0 then 0 else rTarget (entryFor ents a.toNat) + 1

/-- The pair of a row is one of R208. -/
def pairOk (src dst : Nat) : Bool := src ≤ 1 || (src = 2 && dst ≤ 1)

/-- Port that the route table names for a member (R388, R389): byte m of the table in force. -/
def routeTo (s : State) (m : Nat) : Nat := ((s.gt.routes.getD m 0xFF).toNat)

/-- The route leads to a lockstep port. -/
def routeOk (s : State) (m : Nat) : Bool :=
  let n := routeTo s m
  n < 8 && (fmGet portUnset s.coppice n).role = 1

/-- The conditions that need the translated targets (R209, R389): none, or fault code and address. -/
def targetsFault (s : State) (t d : Nat) (ents : List (Nat × Nat)) : Option (Nat × Nat) :=
  let p := partOf s t
  let rows := List.range (dRows d)
  let src (i : Nat) : Nat := spaceOf ents (dSrcSp d) (srcRow d i)
  let dst (i : Nat) : Nat := spaceOf ents (dDstSp d) (dstRow d i)
  let at_ (i : Nat) : Nat := rAddr (entryFor ents (dstRow d i).toNat) (dstRow d i).toNat
  if rows.any (fun i => !pairOk (src i) (dst i)) then some (0x04, 0)
  else if rows.any (fun i => dst i = 2 && (pbSbOff (at_ i) % 16384 ≠ 0 || dRowLen d % 16384 ≠ 0)) then some (0x04, 0)
  else if rows.any (fun i => (dst i = 1 || dst i = 2) && !inPart s p (dCntTile d)) then some (0x04, 0)
  else match rows.find? (fun i => dst i = 3 && !routeOk s (pbModule (at_ i))) with
    | some i => some (0x01, (dstRow d i).toNat)
    | none => none

/-- The first condition of R209 that a COPY of tile `t` breaks, as fault code and address, or the ranges it uses. -/
def copyCheck (s : State) (t d : Nat) : Except (Nat × Nat) (List (Nat × Nat)) :=
  let p := partOf s t
  let rows := List.range (dRows d)
  if !copyFieldsOk s t d then .error (0x04, 0)
  else if dZero d then .ok []
  else
    let src := if dSrcSp d = 0 then Except.ok [] else xlateRows s p false (dRowLen d) (rows.map (srcRow d))
    match src with
    | .error v => .error (0x01, v)
    | .ok xs =>
      let dst := if dDstSp d = 0 then Except.ok [] else xlateRows s p true (dRowLen d) (rows.map (dstRow d))
      match dst with
      | .error v => .error (0x01, v)
      | .ok ys =>
        match targetsFault s t d (xs ++ ys) with
        | some f => .error f
        | none => .ok (xs ++ ys).dedup

/-- The mover's descriptor in progress: started, with bytes still to send. -/
def current (t : Tile) (m : Nat) : Option Desc := (moverAt t m).queue.find? (fun d => d.started && !d.sent)

/-- A mover's descriptor in progress changed. -/
def updCurrent (t : Tile) (m : Nat) (f : Desc → Desc) : Tile :=
  let isIt (d : Desc) : Bool := d.started && !d.sent
  let go (q : List Desc) : List Desc :=
    match q.findIdx? isIt with
    | some i => modAt f i q
    | none => q
  updMover t m (fun x => { x with queue := go x.queue })

/-- The movers of the tile run: not stopped by a kill, a refusal, or the frame of a prune (R43, R209, R218). -/
def moverRuns (t : Tile) (m : Nat) : Bool :=
  computing t && !(moverAt t m).stopped && (match t.prune with
    | some (_, passed) => !passed
    | none => true)

/-- The cycle after the last one in which the slots of bundles issued before cycle `c` write LS: results, readout and state beats
(R102, R104, R107). -/
def slotWritesEnd (c : Nat) (t : Tile) : Nat :=
  let vecs := (t.units.vecs.filter (fun j => j.t < c)).map (fun j => j.t + 5)
  let reads := (t.units.reads.filter (fun j => j.ge.isNone && j.t < c)).map (fun j => j.t + 4 + readBeats j.mode)
  let copies := (t.units.copies.filter (fun j => j.t < c)).map (fun j => j.t + 3)
  (vecs ++ reads ++ copies).foldl max 0

/-- DESCRIPTOR_START (R212): the next descriptor in issue order, once it has been read and the one before it has sent its
last byte. The MOVE of a sequencer is a release: what its slots wrote before stands in LS first (R220, R222). -/
def startDesc (t m : Nat) (s : State) : State :=
  let q := (moverAt (tileAt s t) m).queue
  match q.findIdx? (fun d => !d.started) with
  | none => s
  | some i =>
    let d := q.getD i (descNew 0 0 none byNone 0)
    if !moverRuns (tileAt s t) m || !(q.take i).all (·.sent) then s
    else
      let s := advanceTo s (max (d.readAt + 1) (if d.ge.isNone then slotWritesEnd (d.readAt - 1) (tileAt s t) else 0))
      updTile s t (fun y => traceAdd s.cycle 0x04 (engMover m) m
        (updMover y m (fun x => { x with queue := modAt (fun d => { d with started := true }) i x.queue })))

/-- A descriptor refused, or ended by a fault: recorded at the tile; the mover stops (R209, R218). -/
def descFault (s : State) (t m code addr : Nat) (d : Desc) : State :=
  updTile s t (fun y => raise s.cycle (engMover m) code addr 0 0 (d.ge.getD 0xFF) y)

/-- What a reply answers for (R212): an LS offset of a tile, a line, a page, or a cell to a member. -/
def keyLs (tile off : Nat) : Nat := 4 * lsDest tile off
def keyLine (line : Nat) : Nat := 4 * line + 1
def keyPage (ext page : Nat) : Nat := 4 * (ext * 2 ^ 34 + page) + 2
def keyCell (m : Nat) : Nat := 4 * m + 3

/-- The replies that bytes to a destination will bring. -/
def keysOf (d : Dest) (n : Nat) : List Nat :=
  if d.kind = 0 then (pieces 128 (n + 1) (lsDestOff d.addr) n).map (fun q => keyLs (d.addr / 2 ^ 64) q.1)
  else if d.kind = 1 then (pieces 128 (n + 1) d.addr n).map (fun q => keyLine (q.1 / 128))
  else if d.kind = 2 then [keyPage (d.addr / 2 ^ 48) (d.addr % 2 ^ 48 / 16384)]
  else (pieces 64 (n + 1) (pbWinOff d.addr) n).map (fun _ => keyCell (pbModule d.addr))

/-- Keys joined to those outstanding; a page has one reply for all its bytes. -/
def joinKeys (old new : List Nat) : List Nat :=
  old ++ new.filter (fun k => k % 4 ≠ 2 || !old.contains k)

/-- Where byte `pos` of a COPY goes, as a destination. -/
def destAt (d : Nat) (ents : List (Nat × Nat)) (pos : Nat) : Dest :=
  let a := (dstRow d (pos / dRowLen d)).toNat + pos % dRowLen d
  let e := entryFor ents a
  let at_ := rAddr e a
  if dDstSp d = 0 then ⟨0, lsDest (dDstTile d) (ofSigned 64 (dstRow d (pos / dRowLen d)) + pos % dRowLen d), dDstTile d, dAc d, dSac d⟩
  else if rTarget e = 0 then ⟨1, at_, dCntTile d, dAc d, dSac d⟩
  else if rTarget e = 1 then ⟨2, pbExtent at_ * 2 ^ 48 + pbSbOff at_, dCntTile d, dAc d, dSac d⟩
  else ⟨3, at_, dCntTile d, dAc d, dSac d⟩

/-- Bytes from a virtual address to the end of its range. -/
def leftIn (ents : List (Nat × Nat)) (sp va : Nat) : Nat :=
  if sp = 0 then 2 ^ 44 else (rStart (entryFor ents va) + rLen (entryFor ents va)) * 4096 - va

/-- The next piece of a COPY: it ends with the row, with a range, with a line of DM, with a page of the Seedbank, and,
from LS, within 128 bytes. -/
def pieceLen (d : Nat) (ents : List (Nat × Nat)) (pos : Nat) : Nat :=
  let row := pos / dRowLen d
  let a := (srcRow d row).toNat + pos % dRowLen d
  let b := (dstRow d row).toNat + pos % dRowLen d
  let dst_ := destAt d ents pos
  let src := if dSrcSp d = 0 then 128
    else if rTarget (entryFor ents a) = 0 then 128 - rAddr (entryFor ents a) a % 128
    else 16384 - rAddr (entryFor ents a) a % 16384
  let dst := if dSrcSp d = 1 && rTarget (entryFor ents a) = 1 then 16384
    else if dst_.kind = 2 then 16384 - dst_.addr % 16384
    else if dst_.kind = 3 then 128
    else 128 - dst_.addr % 128
  min (dRowLen d - pos % dRowLen d) (min (min (leftIn ents (dSrcSp d) a) (leftIn ents (dDstSp d) b)) (min src dst))

/-- The modules that a COPY's destination rows go to, where they go to windows (R270). -/
def windowsOf (s : State) (t d : Nat) : List Nat :=
  if dKind d ≠ 0 || dDstSp d = 0 || dZero d then []
  else ((List.range (dRows d)).filterMap (fun i =>
    match findRange s (partOf s t) (dstRow d i).toNat with
    | some (_, e) => if rTarget e = 2 then some (pbModule (rAddr e (dstRow d i).toNat)) else none
    | none => none)).dedup

/-- An earlier window descriptor of the same engine to the same module, on any mover of the tile, has bytes that no port has accepted
yet: those of a MOVE at lockstep-group scope, or of a MOVEG, follow them (R222). -/
def windowWaits (s : State) (t : Nat) (x : Desc) : Bool :=
  let ks := windowsOf s t (x.raw.getD 0)
  (x.ge.isSome || x.scope = 3) && !ks.isEmpty && (List.range 4).any (fun m => (moverAt (tileAt s t) m).queue.any (fun y =>
    y.ge.isSome = x.ge.isSome && y.readAt < x.readAt && (!y.sent || !y.replies.isEmpty) &&
    (windowsOf s t (y.raw.getD 0)).any ks.contains))

/-- A piece of a COPY that leaves LS (R30, R213): its bytes are read in the cycle in which the mover has their banks (R27). -/
def copyFromLs (t m : Nat) (x : Desc) (a n : Nat) (dst : Dest) (moved : State → State) (s : State) : State :=
  let s := bankAccess t (3 + m) a n s
  let y := tileAt s t
  if poisoned y a n then descFault s t m 0x02 0 x
  else
    let (bs, y) := lsRead a n y
    let s := noteSource (moved (setTile s t y)) t n dst.sac
    if dst.kind = 0 then send s (.mw ⟨mwHdr t m (dst.addr / 2 ^ 64) (lsDestOff dst.addr) n dst.ac, bs, false, 0⟩ none)
    else if dst.kind = 1 then send s (toHome s t tDMW (dmwMsg (partOf s t) t m dst.addr bs dst false))
    else deliver s (partOf s t) t m (dieOf t) bs false dst

/-- One piece of a COPY requested or sent (R208, R212, R213): from LS the bytes leave at once; a line of DM is asked of its
home, which sends the bytes on; a page of the Seedbank waits for its read. -/
def copyPiece (t m : Nat) (x : Desc) (d : Nat) (s : State) : State :=
  let p := partOf s t
  let n := pieceLen d x.ents x.pos
  let a := (srcRow d (x.pos / dRowLen d)).toNat + x.pos % dRowLen d
  let dst_ := destAt d x.ents x.pos
  let moved (s : State) : State :=
    updTile s t (fun y => updCurrent y m (fun z =>
      { z with pos := z.pos + n, sent := decide (z.pos + n = dRowLen d * dRows d), replies := joinKeys z.replies (keysOf dst_ n) }))
  if dSrcSp d = 0 then copyFromLs t m x a n dst_ moved s
  else
    let at_ := rAddr (entryFor x.ents a) a
    if rTarget (entryFor x.ents a) = 0 then
      let hdr := mwHdr t m (if dst_.kind = 0 then dDstTile d else t) (if dst_.kind = 0 then lsDestOff dst_.addr else 0) n (dAc d)
      let msg := { cmsg p (at_ / 128) t 0 with off := at_ % 128, mw := hdr, mover := m, vals := destVals dst_ }
      send (moved s) (toHome s t tMRD msg)
    else
      let off := pbSbOff at_
      let dst := if dst_.kind = 0 then CopyDst.ls (dDstTile d) (lsDestOff dst_.addr) else CopyDst.dm dst_.addr
      let r : SeedRead :=
        { tile := t, mover := m, part := p, ext := pbExtent at_, page := off / 16384, off := off % 16384, len := n,
          dst := dst, ac := dAc d, cntTile := dst_.cntTile, sac := dSac d }
      let s := moved s
      { s with seed := { s.seed with reads := s.seed.reads ++ [r] } }

/-- COPY (R208–R212): the descriptor's checks before its first byte, then one piece of it at a time. -/
def copyStep (t m : Nat) (s : State) : State :=
  match current (tileAt s t) m with
  | none => s
  | some x =>
    let d := x.raw.getD 0
    if !moverRuns (tileAt s t) m || dKind d = 1 || windowWaits s t x then s
    else if x.pos = 0 then
      match copyCheck s t d with
      | .error (code, addr) => descFault s t m code addr x
      | .ok ents =>
        let s := ents.foldl (fun s e => noteLookup s (partOf s t) t e.1) s
        let x := { x with ents := ents }
        if dZero d then updTile s t (fun y => updCurrent y m (fun z => { z with sent := true }))
        else copyPiece t m x d (updTile s t (fun y => updCurrent y m (fun z => { z with ents := ents })))
    else copyPiece t m x d s

/-- AC_SUB (R207, R209, R216): the subtraction, beside the landings of its cycle, with a floor of 0 that sets ERR. -/
def subStep (t m : Nat) (s : State) : State :=
  match current (tileAt s t) m with
  | none => s
  | some x =>
    let d := x.raw.getD 0
    if !moverRuns (tileAt s t) m || dKind d ≠ 1 then s
    else if !subFieldsOk d then descFault s t m 0x04 0 x
    else updTile s t (fun y => updCurrent (acSub s.cycle m (dAc d) (dAmount d) y) m (fun z => { z with sent := true }))

/-- DESCRIPTOR_RETIRE (R212): the oldest descriptor, once all is sent and answered, and what an AC_SUB takes has been taken. -/
def retireDesc (t m : Nat) (s : State) : State :=
  let y := tileAt s t
  match (moverAt y m).queue with
  | [] => s
  | d :: rest =>
    if !d.sent || !d.replies.isEmpty || (moverAt y m).stopped then s
    else
      let s := if y.acs.subs.isEmpty then s else advanceTo s (y.acs.stamp + 1)
      updTile s t (fun y =>
        let y := settleAcs s.cycle y
        traceAdd s.cycle 0x05 (engMover m) (m + (if y.regs.moverErr.getLsbD m then 2 ^ 31 else 0))
          (updMover y m (fun x => { x with queue := rest, freed := s.cycle })))

/-- A reply for a mover's descriptor: the oldest one that awaits it. -/
def reply (m key : Nat) (t : Tile) : Tile :=
  let q := (moverAt t m).queue
  match q.findIdx? (fun d => d.replies.contains key) with
  | none => t
  | some i => updMover t m (fun x => { x with queue := modAt (fun d => { d with replies := d.replies.erase key }) i x.queue })

/-- MACK of the destination router (R213). -/
def mackFor (h : MwHdr) (status : Nat) : NetMsg := .mack { h with cnt := false, status := status }

/-- The requester whose turn an MW takes at the banks of its destination (R27, R215): a dynamic landing, or the tile's own mover. -/
def landKey (x : MwPacket) (attach : Option Nat) : Nat :=
  if attach.isNone && x.hdr.srcTile = x.hdr.dst then 3 + x.hdr.mover % 4 else 2

/-- The bytes of an MW written and counted. Where the header's CNT is 0, the memory attach counts them by a CNT to the tile that the
packet names as its source (log entry 98). -/
def mwWrite (x : MwPacket) (attach : Option Nat) (s : State) : State :=
  let h := x.hdr
  let s := bankAccess h.dst (landKey x attach) h.off (8 * h.len8) s
  let bs := x.data.take (8 * h.len8)
  let land (y : Tile) : Tile :=
    lsWrite (h.off + 64) (bs.drop 64) (x.poison && !x.clean.getLsbD 1) (lsWrite h.off (bs.take 64) (x.poison && !x.clean.getLsbD 0) y)
  let s := updTile s h.dst (fun y => if h.cnt then acAdd s.cycle (h.ac % 64) (8 * h.len8) (land y) else land y)
  let s := if h.cnt then s
    else send s (.coh (.tile h.srcTile) none tCNT { cmsg (partOf s h.dst) 0 0x1FFF 0 with ac := h.ac, count := 8 * h.len8, cntTile := 0x1FFF })
  send s (mackFor h 0)

/-- MW at its destination (R213, R215, R46): landed and counted, or answered with a status. A tile set to RouterFault
answers nothing. -/
def mwLand (x : MwPacket) (s : State) : State :=
  let from_ (m : NetMsg) : Bool := match m with
    | .mw y _ => y = x
    | _ => false
  let m := (s.net.find? from_).getD (.mw x none)
  let attach := match m with
    | .mw _ a => a
    | _ => none
  arrive s m (fun s =>
    let h := x.hdr
    let y := tileAt s h.dst
    if !decide (h.dst < nTiles) || y.regs.state = .routerFault then s
    else if isPruned y then send s (mackFor h 1)
    else if h.len8 = 0 then send s (mackFor h 0)
    else if !inLs y h.off (8 * h.len8) then send s (mackFor h 2)
    else mwWrite x attach s)

/-- MACK at the issuing tile (R46, R209, R212); one for the memory attach ends there. -/
def mackLand (h : MwHdr) (s : State) : State :=
  arrive s (.mack h) (fun s =>
    let key := keyLs h.dst h.off
    let m := h.mover % 4
    let y := tileAt s h.srcTile
    if !decide (h.srcTile < nTiles) || 4 ≤ h.mover then s
    else match (moverAt y m).queue.find? (fun d => d.replies.contains key) with
      | none => s
      | some d =>
        if h.status = 2 then descFault s h.srcTile m 0x01 h.off d
        else updTile s h.srcTile (fun y => reply m key (if h.status = 1 then setErr m y else y)))

/-- ACK of a mover's line write (R212, R256). -/
def ackMover (t m : Nat) (c : CMsg) (s : State) : State :=
  arrive s (.coh (.tile t) none tACK c) (fun s =>
    let key := keyLine c.line
    match (moverAt (tileAt s t) m).queue.find? (fun d => d.replies.contains key) with
    | none => s
    | some d => if c.poison then descFault s t m 0x02 0 d else updTile s t (reply m key))

/-- RANGE_LOOKUP: a lookup by the tile's group engine, completed in this cycle (R271–R276); one that finds no range is a
translation fault (R272). -/
def lookupAt (t va : Nat) (s : State) : State :=
  let p := partOf s t
  match (if va < 2 ^ 52 then findRange s p va else none) with
  | some (i, _) => noteLookup s p t i
  | none => if computing (tileAt s t) then updTile s t (fun y => raise s.cycle engGroup 0x01 va 0 0 0xFF y) else s

/-! ### The drain of a withdrawal (R282–R284) -/

/-- The tile still uses a slot or an entry that has left: a mover's descriptor, or a line of an entry that the group
engine waits for. -/
def usesGone (t : Tile) (wd : Withdrawal) : Bool :=
  let inGone (line : Nat) : Bool := wd.gone.any (fun e =>
    rTarget e = 0 && rPbase e ≤ 128 * line && 128 * line < rPbase e + rLen e * 4096)
  (List.range 4).any (fun m => !(moverAt t m).stopped &&
    (moverAt t m).queue.any (fun d => d.ents.any (fun e => wd.slots.contains e.1))) ||
  (!t.ge.stopped && (t.l1.miss.any (fun e => inGone e.line) || t.l1.wbuf.any (fun e => inGone e.line) ||
    t.l1.awaits.any (fun e => inGone e.line)))

/-- A tile's drain report (R282). -/
def drainFrom (p t : Nat) (s : State) : State :=
  match (xlAt s p).withdrawal with
  | none => s
  | some wd =>
    if !wd.done || !wd.waiting.contains t || (!wd.window && usesGone (tileAt s t) wd) then s
    else withdrawDone (updXl s p (fun x => { x with withdrawal := some { wd with waiting := wd.waiting.erase t } })) p

end Sys2Proof.Machine
end

