-- ==== Sys2Proof/Machine/Router.lean ====
section
/-!
DEFINITION. Espalier's routers (R108–R113, R167–R193): slot tables, injection, hops, landings, dynamic cycles, swaps, the
memory attach's side of a memory port (R182, R374, R501), and the parity checks of a Graft seam (R346).
-/

namespace Sys2Proof.Machine

/-! ### Injection (R45, R110, R111, R113, R500) -/

/-- The trace flit of a trace slot: the four oldest entries, or an empty flit (R500). -/
def traceFlit (t : Tile) : Flit × Tile :=
  match t.cnt.trace with
  | [] => (emptyFlit 64, countEv 0x11 1 t)
  | es => (schedFlit (fit 0 64 (es.take 4).flatten) false, countEv 0x10 1 { t with cnt := { t.cnt with trace := es.drop 4 } })

/-- What the local port (0) or a lane (1 to 4) injects in cycle `c`: null where null outputs are in force, the head of the
queue if it was placed before this cycle (R128), an empty flit otherwise. Codes 0x10 and 0x11 of R490 count flits, not units of a lane. -/
def injectFrom (c p : Nat) (t : Tile) : Flit × Tile :=
  let n := unitBytes p
  let note (code : Nat) (t : Tile) : Tile := if p = 0 then countEv code 1 t else t
  if t.nullOut then (nullFlit n, t)
  else if p = 0 && t.cnt.traced && t.cnt.traceSlots.contains (c % 512) then traceFlit t
  else match (portAt t p).sendq with
    | [] => (emptyFlit n, note 0x11 t)
    | e :: rest =>
      if e.at_ < c then
        let t := touchBanks c byNone e.addr n t
        let poison := poisoned t e.addr n
        let (bs, t) := lsRead e.addr n t
        (schedFlit bs poison, note 0x10 (updPort t p (fun q => { q with sendq := rest })))
      else (emptyFlit n, note 0x11 t)

/-! ### Seams (R185, R186, R341, R346) -/

/-- A hop leaves the die. -/
def crosses (t u : Nat) : Bool := dieOf t ≠ dieOf u

/-- The seam of a hop and its crossing (R341): seams 0 H0·H1, 1 H2·H3, 2 H0·H2, 3 H1·H3. -/
def crossing (t u : Nat) : Nat × Nat :=
  if rowOf t = rowOf u then (if rowOf t < 24 then (0, rowOf t) else (1, rowOf t - 24))
  else (if colOf t < 22 then (2, colOf t) else (3, colOf t - 22))

/-- The class of a crossing (R186). -/
def seamClass (s : State) (x : Nat × Nat) : Nat := fmGet 0 s.esp.seams (32 * x.1 + x.2)

/-- The row-role bundle that carries a crossing: the one whose record names it, or names the lower crossing of its class 1
pair (R361). -/
def bundleOf (s : State) (x : Nat × Nat) : Option Nat :=
  (List.range 64).find? (fun b =>
    let y := bundleAt s x.1 b
    y.role = 0 && (y.cross = x.2 || (y.class_ = 1 && y.cross = x.2 / 2 * 2)))

/-- Direction of a hop over a seam: 0 from the seam's first die. -/
def seamDir (t u : Nat) : Nat := if t < u then 0 else 1

/-- A failed check counted at the bundle of a crossing (R346, R347). -/
def countErr (s : State) (x : Nat × Nat) (dir n : Nat) : State :=
  match bundleOf s x with
  | none => if n = 0 then s else errSecond s
  | some b => bundleErr s x.1 b dir n

/-- What the checks of a receiver make of a flit that crosses a seam: a POISON flit, or none where it is discarded. A
bundle whose last clock wire has failed acts as a failed SPAR (R346, R362). -/
def checkFlit (s : State) (t u : Nat) (k : LinkCheck) (f : Flit) : State × Option Flit :=
  if !crosses t u then (s, some f)
  else
    let x := crossing t u
    let dir := seamDir t u
    let dead := match bundleOf s x with
      | some b => if dir = 0 then (bundleAt s x.1 b).dead0 else (bundleAt s x.1 b).dead1
      | none => false
    let s := countErr s x dir (bnat k.dpar + bnat (k.spar || dead))
    let bad := f.kind = 1 || f.kind = 2
    if k.spar || dead then
      if f.kind = 2 then (s, none) else (s, some { f with kind := 1, poison := true })
    else if k.dpar && bad then (s, some { f with poison := true })
    else (s, some f)

/-! ### The memory attach behind a memory port (R182, R372–R374, R501) -/

/-- A position of a lockstep frame that begins in cycle `c`, if one does (R369): frames begin where the group cycle is a
multiple of 512. -/
def positionAt (s : State) (c : Nat) : Option Nat := if groupCycle s c % 2 = 0 then some (groupCycle s c % 512 / 2) else none

/-- A send entry takes what the router of tile `t` puts on its memory port in cycle `c`. -/
def lockstepTakes (s : State) (t c : Nat) : Bool :=
  match positionAt s (c + 24) with
  | none => false
  | some p => s.coppice.any (fun n => n.2.role = 1 && entryEdge (fmGet (0 : BitVec 16) n.2.sendA p).toNat = some t)

/-- The partition whose trace list names a memory-port cycle (R499). -/
def traceOwner (s : State) (t c : Nat) : Option Nat :=
  (s.parts.find? (fun p => (p.2.job.any (·.traced)) && (p.2.image.any (fun i => i.traced.contains (t, c % 512))))).map (·.1)

/-- A trace flit appended to the partition's trace buffer, two flits a line; a full buffer in stop mode loses its entries
(R501). -/
def traceAppend (s : State) (p : Nat) (data : List Byte) : State :=
  let x := partAt s p
  match x.job.bind (·.trace) with
  | none => s
  | some (base, size, wrap) =>
    let lost := ((chunks 16 4 data).filter (fun e => leAt e 6 1 ≠ 0)).length
    let off := x.traceOff
    if size ≤ off then pcountAdd s p 14 lost
    else if x.traceHalf.isEmpty then updPart s p (fun y => { y with traceHalf := data })
    else
      let s := ownLine s p 0x1FFF (x.dmBase + base + off) (x.traceHalf ++ data)
      let next := if wrap then (off + 128) % size else off + 128
      updPart (pcountAdd s p 15 128) p (fun y => { y with traceHalf := [], traceOff := next, traceBytes := y.traceBytes + 128 })

/-- A scheduled flit at the memory attach. -/
def attachFlit (s : State) (t c : Nat) (f : Flit) : State :=
  match traceOwner s t c with
  | some p => if f.kind = 1 then traceAppend s p f.data else s
  | none =>
    if lockstepTakes s t c then { s with wires := s.wires ++ [⟨t, 10, c + 24, f⟩] }
    else if f.kind = 1 || f.kind = 3 then misrouteAt s t
    else s

/-! ### SLOT_TABLE_ENTRY and FLIT_LANDING -/

/-- The flit that arrives at an input in cycle `c`. -/
def wireAt (s : State) (t input c : Nat) : Option Wire :=
  s.wires.find? (fun w => w.tile = t && w.input = input && w.at_ = c && w.flit.kind ≠ 2)

/-- A flit or unit leaves an output in cycle `c`. -/
def leave (s : State) (t o c : Nat) (k : LinkCheck) (f : Flit) : State :=
  if f.kind = 0 then s
  else if o = 8 then landFlit s t 0 f
  else if o = 9 then attachFlit s t c f
  else match outTile t o with
    | none => misrouteAt s t
    | some u =>
      let input := if o < 4 then (o + 2) % 4 else 4 + (o - 4 + 2) % 4
      match checkFlit s t u k f with
      | (s, none) => s
      | (s, some f) => { s with wires := s.wires ++ [⟨u, input, c + (if crosses t u then 6 else 2), f⟩] }

/-- A lane across a seam carries a unit in this cycle: in every cycle of class 3, in even cycles of class 2, never below
(R186). -/
def laneCarries (s : State) (t o c : Nat) : Bool :=
  match outTile t o with
  | none => false
  | some u => inPart s (partOf s t) u && (!crosses t u || seamClass s (crossing t u) = 3 ||
      (seamClass s (crossing t u) = 2 && c % 2 = 0))

/-- A mesh link across a seam works from class 1 up. -/
def meshCarries (s : State) (t o : Nat) : Bool :=
  match outTile t o with
  | none => false
  | some u => !crosses t u || seamClass s (crossing t u) ≠ 0

/-- SLOT_TABLE_ENTRY (R110–R113, R171): output `o` of tile `t` obeys its entry in the present cycle, once. -/
def slotEntry (t o : Nat) (k : LinkCheck) (s : State) : State :=
  let c := s.cycle
  let y := tileAt s t
  let e := entryAt s t o c
  let src := field e 5 3
  if fmGet 0 y.router.served o = c + 1 || field e 7 6 ≠ 1 || (o = 9 && !edgeRouter t) || y.regs.state = .off then s
  else
    let s := updTile s t (fun y => { y with router := { y.router with served := fmSet 0 y.router.served o (c + 1) } })
    if 4 ≤ o && o < 8 then
      if src ≠ 4 || !laneCarries s t o c then s
      else
        let (f, y) := injectFrom c (o - 3) (tileAt s t)
        leave (setTile s t y) t o c k f
    else if o < 4 && !meshCarries s t o then s
    else if src = 4 then
      let (f, y) := injectFrom c 0 (tileAt s t)
      leave (setTile s t y) t o c k f
    else match wireAt s t (if src = 5 then 9 else src) c with
      | none => s
      | some w =>
        let s := dropWire s w
        let s := if o = 8 then s else updTile s t (countEv 0x80 1)
        leave s t o c k w.flit

/-- FLIT_LANDING (R112, R113): a flit arrives in an ejection slot, or a unit over a lane, in the cycle in which the lane brings it
(R170). -/
def flitLanding (t : Nat) (lane : Option Nat) (f : Flit) (s : State) : State :=
  match lane with
  | none => landFlit s t 0 f
  | some d =>
    match s.wires.find? (fun w => w.tile = t && w.input = 4 + d && w.flit = f) with
    | some w => let s := advanceTo s w.at_; if s.wires.contains w then landLane s w else s
    | none => landFlit s t (1 + d) f

/-! ### DYNAMIC_CYCLE (R178–R181) -/

/-- Key of the packet in progress at an output, for the partition that owns it. -/
def progKey (o owner : Nat) : Nat := 32 * o + owner

/-- The header word of a flit. -/
def flitHeader (f : Flit) : Nat := leAt f.data 0 8

/-- The output that a packet's header flit heads for at tile `t` (R178). -/
def routeOut (t : Nat) (f : Flit) : Nat :=
  let d := f.dest.toNat
  if d < nTiles then
    if colOf d < colOf t then 3 else if colOf t < colOf d then 1
    else if rowOf d < rowOf t then 0 else if rowOf t < rowOf d then 2 else 8
  else
    let h := flitHeader f
    let col := if 0x20 ≤ field h 63 58 then true else columnCorridor (field h 57 24)
    let dir := if col then (if rowOf t < 24 then 0 else 2) else (if colOf t < 22 then 3 else 1)
    if (outerDirs t).contains dir then 9 else dir

/-- The output serves a header flit: its own link, or the lane in the same direction inside a die. -/
def serves (t o : Nat) (f : Flit) : Bool :=
  let r := routeOut t f
  r = o || (4 ≤ o && o < 8 && r = o - 4 && (match outTile t o with
    | some u => !crosses t u
    | none => false))

/-- The output may carry dynamic flits: a mesh link that works, a lane inside one partition (R170, R186). -/
def dynCarries (s : State) (t o : Nat) : Bool :=
  if o < 4 then meshCarries s t o
  else match outTile t o with
    | some u => (tileAt s t).regs.partValid && inPart s (partOf s t) u && !crosses t u
    | none => true

/-- The next router's buffer has room for another flit of the channel: 8 flits, those on the way included (R179). -/
def hasCredit (s : State) (t o vc : Nat) : Bool :=
  match outTile t o with
  | none => true
  | some u =>
    let input := if o < 4 then (o + 2) % 4 else 4 + (o - 4 + 2) % 4
    let flying := (s.wires.filter (fun w => w.tile = u && w.input = input && w.flit.kind = 2 && w.flit.vc.toNat = vc)).length
    (dynBuf (tileAt s u).router input vc).length + flying < 8

/-- The input and channel that an output serves next for an owner: the owner's packet in progress there, else round robin over the
inputs after the last winner, response before forward before request (R179, R180). -/
def pickDyn (s : State) (t o owner : Nat) : Option (Nat × Nat) :=
  let r := (tileAt s t).router
  let mine (i vc : Nat) : Bool := (dynBuf r i vc).head?.any (fun f => f.part.toNat = owner)
  match fmGet none r.prog (progKey o owner) with
  | some k => if mine (k / 4) (k % 4) then some (k / 4, k % 4) else none
  | none =>
    let last := fmGet 9 r.lastWin o
    let inputs := (List.range 10).map (fun i => (last + 1 + i) % 10)
    let busy (i vc : Nat) : Bool := r.prog.any (fun x => x.1 % 32 = owner && x.2 = some (4 * i + vc))
    let ok (i vc : Nat) : Bool :=
      !(i = 8 && r.fence) && !busy i vc && mine i vc && (dynBuf r i vc).head?.any (serves t o)
    inputs.findSome? (fun i => ([2, 1, 0].find? (ok i)).map (fun vc => (i, vc)))

/-- One dynamic flit leaves an output: the packet stays with the output until its last flit. A packet whose header has a reserved MTYPE
is discarded where it leaves the mesh, and counted as a misroute (R213, R244). -/
def dynLeave (s : State) (t o i vc : Nat) (k : LinkCheck) : State :=
  let c := s.cycle
  match dynBuf (tileAt s t).router i vc with
  | [] => s
  | f :: rest =>
    let key := progKey o f.part.toNat
    let first := (fmGet none (tileAt s t).router.prog key).isNone
    let s := updTile s t (fun y =>
      let r := setDyn y.router i vc rest
      let r := { r with prog := fmSet none r.prog key (if f.last then none else some (4 * i + vc)), lastWin := fmSet 9 r.lastWin o i }
      countEv (if i = 8 then 0x12 else 0x81) (bnat (i = 8 || o ≠ 8)) { y with router := r })
    let s := if first && 8 ≤ o && mtypeReserved (field (flitHeader f) 63 58) then misrouteAt s t else s
    match outTile t o with
    | none => s
    | some u =>
      let input := if o < 4 then (o + 2) % 4 else 4 + (o - 4 + 2) % 4
      match checkFlit s t u k f with
      | (s, none) => { s with net := s.net.eraseP (fun m => (flitsOf f.part.toNat m).contains f) }
      | (s, some g) =>
        let mark (m : NetMsg) : NetMsg :=
          let fs := flitsOf f.part.toNat m
          if fs.contains f then
            (match m with
              | .coh d src typ x => .coh d src typ { x with poison := true }
              | .mw x b => .mw (if fs.findIdx (· = f) = 0 then { x with poison := true, clean := 0 } else poisonFlit (fs.findIdx (· = f) - 1) x) b
              | .mack h => .mack h)
          else m
        let s := if g = f then s else { s with net := s.net.map mark }
        { s with wires := s.wires ++ [⟨u, input, c + (if crosses t u then 6 else 2), g⟩] }

/-- A dynamic cycle that carries an empty flit (R490 code 0x82, 0x8030). -/
def emptyCycle (s : State) (t : Nat) : State :=
  updTile { s with devCount := fmUpd 0 s.devCount 3 (fun v => satAdd (2 ^ 64 - 1) v 1) } t (countEv 0x82 1)

/-- Up to `n` flits of owner `p` leave an output in one cycle. -/
def dynFlits (t o p : Nat) (k : LinkCheck) : Nat → State → State
  | 0, s => s
  | n + 1, s => match pickDyn s t o p with
    | none => s
    | some (i, vc) => if hasCredit s t o vc then dynFlits t o p k n (dynLeave s t o i vc k) else s

/-- The output serves its dynamic entry of the present cycle, if it has one and has not yet: one flit over a mesh link or the local port,
two of one packet over a lane (R170), 384 bytes over a memory port (R182); with none ready the cycle carries an empty flit (R180). -/
def serveDyn (t o : Nat) (k : LinkCheck) (s : State) : State :=
  let c := s.cycle
  let e := entryAt s t o c
  let p := field e 5 1
  let y := tileAt s t
  if fmGet 0 y.router.served o = c + 1 || field e 7 6 ≠ 2 || y.regs.state = .off then s
  else
    let s := updTile s t (fun y => { y with router := { y.router with served := fmSet 0 y.router.served o (c + 1) } })
    if !dynCarries s t o then s
    else match pickDyn s t o p with
      | none => emptyCycle s t
      | some (i, vc) =>
        if !hasCredit s t o vc then emptyCycle s t
        else
          let s := dynLeave s t o i vc k
          if o = 9 then dynFlits t o p k 5 s
          else if 4 ≤ o && o < 8 && (fmGet none (tileAt s t).router.prog (progKey o p)).isSome then dynFlits t o p k 1 s
          else s

/-- DYNAMIC_CYCLE (R178–R180): a lane's cycle comes after that of the mesh link in its direction, where both are dynamic (R178). -/
def dynamicCycle (t o : Nat) (k : LinkCheck) (s : State) : State :=
  serveDyn t o k (if 4 ≤ o && o < 8 then serveDyn t (o - 4) ⟨false, false⟩ s else s)

/-! ### Swaps (R175) -/

/-- SWAP: a frame named for a partition's tables. -/
def swapAt (p frame : Nat) (s : State) : State := { s with esp := { s.esp with swaps := fmSet none s.esp.swaps p (some frame) } }

/-- SWAP_FRAME: the first cycle of the frame that the partition's last SWAP named; the swap falls in it whatever passes the time. -/
def swapFrame (p : Nat) (s : State) : State :=
  match fmGet none s.esp.swaps p with
  | none => s
  | some f => dueSwaps (advanceTo s (512 * f))

/-- The router has the output (R173, R182). -/
def hasOutput (t o : Nat) : Bool := if o < 8 then (neighbour t (o % 4)).isSome else if o = 9 then edgeRouter t else o = 8

/-- TABLE_WR (R175, R197): the first word gives output and first entry, the others four entries each; entries past the
table and outputs that the router does not have are left. -/
def tableWr (t : Nat) (words : List (BitVec 32)) (s : State) : State :=
  match words.take 7 with
  | [] => s
  | w :: rest =>
    let o := field w.toNat 12 9
    let first := field w.toNat 8 0
    let es := rest.flatMap (fun x => (List.range 4).map (fun i => BitVec.ofNat 8 (x.toNat >>> (8 * i))))
    if !hasOutput t o then s
    else
      let put (r : Router) (e : BitVec 8 × Nat) : Router :=
        if first + e.2 < 512 then { r with shadow := fmSet 0 r.shadow (slotKey o (first + e.2)) e.1 } else r
      updTile s t (fun y => { y with router := es.zipIdx.foldl put y.router })

/-- FENCE_DONE: no packet of the tile is part way out of its router (R197, R202). -/
def fenceDoneAt (t : Nat) (s : State) : State :=
  let r := (tileAt s t).router
  if r.fence && !r.prog.any (fun x => (x.2.map (· / 4)) = some 8) then
    updTile s t (fun y => { y with reports := y.reports ++ [.fenceDone] })
  else s

end Sys2Proof.Machine
end

