-- ==== Sys2Proof/Machine/Launch.lean ====
section
/-!
DEFINITION. Job launch (R24, R31, R40, R45, R84, R88, R89, R129, R173, R187, R373, R383, R449, R499, R571), phases
(R125), the close of a job (R124), and the parts of a kill that act on tiles (R163–R165, R218).
-/

namespace Sys2Proof.Machine

/-! ### Copies of the caches (R31, R226, R240) -/

/-- Messages of tiles of partition `p` on their way to homes arrive there, in the order sent, and the slices serve them: responses at
once, requests in their turn. -/
def landHomes (s : State) (p : Nat) : State :=
  let s := s.net.foldl (fun s m => match m with
    | .coh (.home h) (some t) typ c =>
      if !inPart s p t || !s.net.contains m then s
      else if lostOnLink s m then loseMsg s m
      else if typ = tWB then homeServe h typ c (takeOff s m)
      else updSlice (takeOff s m) h (fun x => { x with inbox := x.inbox ++ [(s.cycle, typ, c)] })
    | _ => s) s
  (sliceList s p).foldl (fun s h => (List.range (sliceAt s h).inbox.length).foldl (fun s _ => serveSlice s h) s) s

/-- ACKs of write-backs on their way to tiles of `p` arrive. -/
def landAcks (s : State) (p : Nat) : State :=
  s.net.foldl (fun s m => match m with
    | .coh (.tile t) none typ c =>
      if typ = tACK && inPart s p t && (tileAt s t).l1.wbs.any (·.line = c.line) && s.net.contains m then ackL1 t c (takeOff s m) else s
    | _ => s) s

/-- Tiles of a partition whose L1 can write back: a RouterFault tile's lines are left to the home timeout (R240, R253). -/
def wbTiles (s : State) (p : Nat) : List Nat := (partTiles s p).filter (fun t => (tileAt s t).regs.state ≠ .routerFault)

/-- Rounds of write-backs, 8 entries to a tile at a time (R235). -/
def writeBackRounds (p : Nat) : Nat → State → State
  | 0, s => s
  | fuel + 1, s =>
    let s := landAcks (landHomes ((wbTiles s p).foldl writeBackSome s) p) p
    if (wbTiles s p).all (fun t => (dirtyLines (tileAt s t)).isEmpty) then s else writeBackRounds p fuel s

/-- Every dirty L1 line of a partition written back to its home by WB, those in flight first (R31, R235, R240); the L1s are empty
then. -/
def writeBackAll (s : State) (p : Nat) : State :=
  let s := landAcks (landHomes s p) p
  let n := ((wbTiles s p).map (fun t => (dirtyLines (tileAt s t)).length)).foldl max 0
  let s := writeBackRounds p (n / 8 + 1) s
  updTiles s (wbTiles s p) (fun y => { y with l1 := { y.l1 with lines := [], plru := [] } })

/-- A line's copies in the partition's L1s merged at the home and dropped, for a copy engine of the Husk (R226). -/
def flushLine (s : State) (p line : Nat) : State :=
  let h := homeOf s p line
  let e := dirAt s h line
  if e.st = .i || e.st = .p then s
  else
    let holders := match e.vec with
      | some _ => partTiles s p
      | none => e.sharers ++ e.owner.toList
    let s := holders.foldl (fun s t =>
      let x := l1Line (tileAt s t) line
      let s := if x.st = .m || x.st = .o then homeMerge s h line x.dirty (packSectors x.data x.dirty) (lineErrors x x.dirty).2 else s
      updTile s t (fun y => dropLine y line)) s
    clearEntry s h line

/-- A line of a partition's DM as a copy engine reads it. -/
def huskLine (s : State) (p line : Nat) : State × List Byte × Bool :=
  homeRead (flushLine s p line) (homeOf s p line) line

/-- `n` bytes of a partition's DM from `pa` as a copy engine reads them, and whether any is Poison; `fuel` bounds the
lines. -/
def huskRead (p : Nat) : Nat → State → Nat → Nat → State × List Byte × Bool
  | 0, s, _, _ => (s, [], false)
  | fuel + 1, s, pa, n =>
    if n = 0 then (s, [], false)
    else
      let k := min n (128 - pa % 128)
      let (s, line, bad) := huskLine s p (pa / 128)
      let (s, rest, bad') := huskRead p fuel s (pa + k) (n - k)
      (s, (line.drop (pa % 128)).take k ++ rest, bad || bad')

/-- Bytes that a copy engine writes to a partition's DM: each line is one update, and is logged (R224, R286). -/
def huskWrite (s : State) (p pa : Nat) (bs : List Byte) (poison : Bool) : State :=
  (pieces 128 (bs.length + 1) pa bs.length).foldl (fun s q =>
    let line := q.1 / 128
    let s := flushLine s p line
    let h := homeOf s p line
    let new := cut pa bs q
    if poison then dlogNote (makePoison s h line) p line
    else if q.2 = 128 then homeWrite (setDir s h line dirReset) h line new
    else
      let (s, old, bad) := homeRead s h line
      if bad then s else homeWrite s h line (old.take (q.1 % 128) ++ new ++ old.drop (q.1 % 128 + q.2))) s

/-! ### The checks of a launch (R571) -/

/-- Bytes of LS that a tile will have. -/
def lsNext (s : State) (t : Nat) : Nat := lsSizeOf (tileAt s t).regs.splitNext

/-- LS contents inside the LS the tile will have. -/
def chunksOk (s : State) (t : Nat) (cs : List (Nat × List Byte)) : Bool := cs.all (fun c => c.1 + c.2.length ≤ lsNext s t)

/-- Kernel table entries (R129, R571). -/
def kernelsOk (s : State) (x : TileImage) : Bool :=
  x.kernels.length ≤ 16 && x.kernels.all (fun k => k.length = 8 && (kRpt (leNat k) = 0 || (2 ≤ kRpt (leNat k) && kRpt (leNat k) ≤ 32))) &&
  x.kernelOff + 8 * x.kernels.length ≤ lsNext s x.tile

/-- Sheller tables (R84, R571). -/
def tablesOk (x : TileImage) : Bool := x.tables.length ≤ 16 && x.tables.all (fun t => t.length = 128 && kraft t ≤ 2 ^ 15)

/-- The group-local area of tile `t` fits above `n` bytes of static program (R40, R53). -/
def areaOk (s : State) (t n : Nat) : Bool :=
  let a := (tileAt s t).regs.glNext.toNat
  a ≤ 128 && n ≤ lsNext s t && a * 65536 ≤ lsNext s t - n

/-- The group-local area fits on every tile that a launch zeroes, those that the image does not name among them. -/
def areasOk (s : State) (p : Nat) (img : Image) : Bool :=
  (partTiles s p).all (fun t => let st := (tileAt s t).regs.state
    st = .pruned || st = .pruning || st = .routerFault ||
    areaOk s t (((img.tiles.find? (·.tile = t)).map (·.staticLs)).getD 0))

/-- One tile's part of an image. A tile that is pruned asks a prune-tolerant image, and a RouterFault tile takes none
(R48, R49). -/
def tileImageOk (s : State) (p : Nat) (tolerant : Bool) (x : TileImage) : Bool :=
  let st := (tileAt s x.tile).regs.state
  inPart s p x.tile && (st = .idle || (tolerant && (st = .pruned || st = .pruning))) && chunksOk s x.tile x.chunks &&
  x.entry % 32 = 0 && x.entry + 32 ≤ lsNext s x.tile && tablesOk x && kernelsOk s x &&
  x.movers.length = 4 && x.movers.all (· ≤ 1) && x.traceSlots.all (· < 512)

/-- One slot-table entry (R172, R173). -/
def slotEntryOk (x : SlotEntry) : Bool :=
  let e := x.entry.toNat
  x.tile < nTiles && x.slot < 512 && hasOutput x.tile x.out &&
  (if field e 7 6 = 0 then field e 5 0 = 0
   else if field e 7 6 = 1 then
     field e 2 0 = 0 && field e 5 3 ≤ 5 && (!(4 ≤ x.out && x.out < 8) || field e 5 3 = 4) &&
     (4 ≤ field e 5 3 || (neighbour x.tile (field e 5 3)).isSome) && (field e 5 3 ≠ 5 || edgeRouter x.tile)
   else if field e 7 6 = 2 then !e.testBit 0
   else false)

/-- The input that an entry of a router names, if it is scheduled; a lane's queue is its own input (R173). -/
def entryInput (o : Nat) (e : BitVec 8) : Option Nat :=
  if field e.toNat 7 6 ≠ 1 then none else some (if 4 ≤ o && o < 8 then 10 + o else field e.toNat 5 3)

/-- Another partition's table, in force or about to be, names input `i` of tile `t` in slot `k` (R173). -/
def othersName (s : State) (p t k i : Nat) : Bool :=
  let r := (tileAt s t).router
  (r.active ++ r.shadow).any (fun e => e.1 % 512 = k && !ownsSlot s p t (e.1 / 512) k && entryInput (e.1 / 512) e.2 = some i)

/-- No two scheduled entries of a router name one input in one cycle, those of other partitions among them (R173). -/
def inputsOk (s : State) (p : Nat) (xs : List SlotEntry) : Bool :=
  let names := xs.filterMap (fun x => (entryInput x.out x.entry).map (fun i => (x.tile, x.slot, i)))
  let outs := xs.map (fun x => (x.tile, x.out, x.slot))
  names.Nodup && outs.Nodup && names.all (fun n => !othersName s p n.1 n.2.1 n.2.2)

/-- A set of slot tables of partition `p`. -/
def slotsOk (s : State) (p : Nat) (xs : List SlotEntry) : Bool := xs.all slotEntryOk && inputsOk s p xs

/-- Seam classes needed are in force (R187). -/
def needsOk (s : State) (img : Image) : Bool := img.needs.all (fun n => n.2.2 ≤ seamClass s (n.1, n.2.1))

/-- Cycle of the frame in which a lockstep entry uses its edge router's memory port (R374, R375), `f` the flight declared for its port. -/
def entryCycle (f : Nat) (x : PortEntry) : Nat := if x.send then (2 * x.pos + 512 - 24) % 512 else (2 * x.pos + 64 * (f + 16) + 24) % 512

def portCycleOf (img : Image) (x : PortEntry) : Nat := entryCycle (((img.declF.find? (·.1 = x.port)).map (·.2)).getD 0) x

/-- The scheduled entries of the ports of other partitions, in force or loaded, with the cycle that each uses. -/
def othersPorts (s : State) (p : Nat) : List (PortEntry × Nat) :=
  (s.coppice.filter (fun n => n.2.part ≠ some p)).flatMap (fun n =>
    let of_ (send : Bool) (m : FMap (BitVec 16)) : List PortEntry := m.map (fun y => { port := n.1, send := send, pos := y.1, entry := y.2 })
    let all := of_ true n.2.sendA ++ of_ false n.2.landA ++ of_ true n.2.sendS ++ of_ false n.2.landS
    (all.filter (fun y => field y.entry.toNat 15 14 = 1)).dedup.map (fun y => (y, entryCycle n.2.declF y)))

/-- Working memory-role bundles of K·Hd (R345). -/
def memBundles (s : State) (d : Nat) : Nat :=
  ((List.range 8).filter (fun b => (bundleAt s (4 + d) b).role = 1)).length

/-- The lockstep tables (R373). -/
def portsOk (s : State) (p : Nat) (img : Image) : Bool :=
  let ok (x : PortEntry) : Bool :=
    let e := x.entry.toNat
    x.port < 8 && x.pos < 256 && field e 15 14 ≤ 1 && field e 11 6 ≤ 44 && field e 5 0 = 0 && (field e 15 14 = 1 || field e 13 6 = 0)
  let used := (img.ports.filter (fun x => field x.entry.toNat 15 14 = 1)).map (fun x => (x, portCycleOf img x)) ++ othersPorts s p
  let names := used.map (fun x => (x.1.send, field x.1.entry.toNat 13 6, x.2))
  let die (x : PortEntry) : Nat := field x.entry.toNat 13 12
  let load (y : PortEntry × Nat) : Nat :=
    (used.filter (fun x => x.1.send = y.1.send && die x.1 = die y.1 && x.2 = y.2)).length
  img.ports.all ok && names.Nodup && used.all (fun x => load x ≤ 2 * memBundles s (die x.1))

/-- Declared flights of a lockstep image: one for each port that it uses (R383). -/
def flightsOk (s : State) (img : Image) : Bool :=
  img.ports.all (fun x => field x.entry.toNat 15 14 ≠ 1 || img.declF.any (·.1 = x.port)) && img.declF.all (fun x =>
    let n := fmGet portUnset s.coppice x.1
    1 ≤ x.2 && x.2 ≤ 32 && n.state = 4 && n.measured && n.fMin ≤ x.2)

/-- Sum of the declared peak currents of the running jobs on a die, in A at point 0. -/
def declared (s : State) (d : Nat) : Nat :=
  ((s.parts.filter (fun p => p.2.job.isSome)).map (fun p => (p.2.image.map (fun i => i.peak.getD d 0)).getD 0)).sum

/-- Core current (R449): the scaled sum within the rating at the point in force, and within that of a point named for the
next epoch. -/
def currentOk (s : State) (img : Image) : Bool :=
  (List.range 4).all (fun d =>
    let sum := declared s d + img.peak.getD d 0
    sum ≤ 1400 && s.gt.freq.all (fun f => f.1 ≠ groupCycle s s.cycle / 2 ^ 20 + 1 || sum * pointMhz s.point ≤ 1400 * pointMhz f.2))

/-- No listed trace cycle coincides with a lockstep send entry on the same output (R499). -/
def tracedOk (img : Image) : Bool :=
  img.traced.all (fun x => !img.ports.any (fun q => q.send && entryEdge q.entry.toNat = some x.1 && portCycleOf img q = x.2))

/-- The longest session, in tokens (R16, R408). -/
def maxTokens : Nat := 2097152

/-- Every check of a launch (R571); `lock` says a lockstep launch. -/
def launchOk (s : State) (p : Nat) (img : Image) (lock : Bool) : Bool :=
  img.layoutOk && !img.tiles.isEmpty && (img.tiles.map (·.tile)).Nodup && img.tiles.all (tileImageOk s p img.tolerant) &&
  img.phases.all (fun ph => ph.all (fun x => inPart s p x.tile && chunksOk s x.tile x.chunks && x.entry % 32 = 0 && x.a.length ≤ 32 && x.l.length ≤ 8)) &&
  slotsOk s p img.slots && img.laterSlots.all (slotsOk s p) && needsOk s img && portsOk s p img && (!lock || flightsOk s img) &&
  currentOk s img && tracedOk img && areasOk s p img && img.svc.ctxMax ≤ maxTokens

/-! ### Loading -/

/-- LS contents written, without counters or faults (R226). -/
def loadChunks (cs : List (Nat × List Byte)) (t : Tile) : Tile := cs.foldl (fun t c => lsWrite c.1 c.2 false t) t

/-- A tile of the partition zeroed at launch (R31, R39, R65, R88, R488, R491): registers and units at their launch values,
the split and the group-local area taken from their next values. DEDUCED (log entry 106): the command that a launch opens counts by the
selections that then stand (R487, R490). -/
def zeroTile (t : Tile) : Tile :=
  { t with
    regs := { t.regs with splitCur := t.regs.splitNext, glCur := t.regs.glNext, mflags := 0, faultOp := 0, faultCode := 0,
                          moverErr := 0 },
    ls := [], marks := [], sbe := [], dbe := [], nbr := 0, seq := seqReset, units := unitsReset, ports := [], movers := [], acs := acsReset,
    ge := geReset, l1 := { quietL1 t.l1 with lines := [], plru := [] },
    router := { t.router with fence := false },
    cnt := { countersReset with sel := t.cnt.sel, selUse := t.cnt.sel,
                                fc := fmSet 0 (fmSet 0 [] 0 (fmGet 0 t.cnt.fc 0)) 8 (fmGet 0 t.cnt.fc 8) },
    tables := [], kernOff := 0, kernN := 0, moverGe := 0, look := [], reports := [], nullOut := false }

/-- A tile loaded with its part of the image; `nbr` are its lanes that lead to tiles of the partition. -/
def loadTile (nbr : BitVec 4) (x : TileImage) (stream traced : Bool) (t : Tile) : Tile :=
  let t := loadChunks x.chunks t
  let t := loadChunks [(x.kernelOff, x.kernels.flatten)] t
  let ge := (List.range 4).foldl (fun v m => if x.movers.getD m 0 = 1 then v + 2 ^ m else v) 0
  { t with
    regs := { t.regs with state := .loading }, nbr := nbr,
    seq := { t.seq with pc := x.entry, layer := 0xFFFF, opid := 0xFFFF },
    tables := x.tables.zipIdx.foldl (fun m e => fmSet [] m e.2 e.1) [],
    kernOff := x.kernelOff, kernN := x.kernels.length, moverGe := BitVec.ofNat 4 ge,
    cnt := { t.cnt with stream := stream, traced := traced, traceSlots := x.traceSlots } }

/-- Shadow slot tables of a partition loaded: its entries of every table take the image's (R175). -/
def loadSlots (s : State) (p : Nat) (xs : List SlotEntry) : State :=
  let transit := (fmGet [] s.esp.grants p).map (fun x => x.1 / 16)
  let ts := (partTiles s p ++ transit).dedup
  let clean (t : Nat) (y : Tile) : Tile :=
    { y with router := { y.router with shadow := y.router.shadow.filter (fun e => !ownsSlot s p t (e.1 / 512) (e.1 % 512)) } }
  let s' := ts.foldl (fun s t => updTile s t (clean t)) s
  xs.foldl (fun s x => updTile s x.tile (fun y =>
    { y with router := { y.router with shadow := fmSet 0 y.router.shadow (slotKey x.out x.slot) x.entry } })) s'

/-- Shadow port tables and declared flights of a partition's ports loaded for a lockstep job (R372, R383). -/
def loadPorts (s : State) (p : Nat) (img : Image) : State :=
  let put (n : Nat) (x : Port) : Port :=
    let mine := img.ports.filter (·.port = n)
    let tab (send : Bool) : FMap (BitVec 16) :=
      (mine.filter (·.send = send)).foldl (fun m e => fmSet 0 m e.pos e.entry) []
    { x with sendS := tab true, landS := tab false, declF := ((img.declF.find? (·.1 = n)).map (·.2)).getD x.declF }
  { s with coppice := (List.range 8).foldl (fun m n =>
      if (fmGet portUnset m n).part = some p then fmUpd portUnset m n (put n) else m) s.coppice }

/-- The settings a launch takes from the dictionary (R121, R263, R464, R497, R501). -/
def jobFor (s : State) (p : Nat) (img : Image) (lock : Option (Nat × Nat)) : Job :=
  let st := (dictVal s 0x8010 (p + 1)).getD []
  let tr := (dictVal s 0x8040 (p + 1)).getD []
  { lockstep := lock.isSome, tag := (lock.map (·.2)).getD 0, t0 := (lock.map (·.1)).getD 0,
    waitUs := dictNat s 0x3070 (p + 1) 10000, forwardUs := dictNat s 0x9010 (p + 1) 20000,
    watchdogMs := dictNat s 0x9011 (p + 1) 1000,
    stream := if leAt st 8 1 = 0 then none else some (leAt st 0 8, leAt st 8 1),
    trace := if leAt tr 8 4 = 0 then none else some (leAt tr 0 8, leAt tr 8 4 * 4096, leAt tr 12 1 = 0),
    traced := !img.traced.isEmpty || img.tiles.any (fun t => !t.traceSlots.isEmpty), step := 0, open_ := [], phase := 0,
    readyAt := s.cycle + 4096, started := false }

/-- The lanes of a tile that lead to a tile of its partition, bit by direction (R170). -/
def ownLanes (s : State) (t : Nat) : BitVec 4 := BitVec.ofNat 4 (((List.range 4).map (fun d => if laneOk s t d then 2 ^ d else 0)).sum)

/-- The launch itself, its checks passed: dirty L1 lines of the job before are written back, every tile of the partition
that is neither pruned nor RouterFault is zeroed, and the image's tiles load (R31). -/
def launchNow (s : State) (p : Nat) (img : Image) (lock : Option (Nat × Nat)) : State :=
  let s := writeBackAll s p
  let job := jobFor s p img lock
  let out (y : Tile) : Bool := y.regs.state = .pruned || y.regs.state = .pruning || y.regs.state = .routerFault
  let lost := (((partTiles s p).filter (fun t => !out (tileAt s t))).map (fun t => fmGet 0 (tileAt s t).cnt.fc 2)).sum
  let s := { s with devCount := fmUpd 0 s.devCount 1 (fun v => satAdd (2 ^ 64 - 1) v lost) }
  let s := updTiles s (partTiles s p) (fun y =>
    { (if out y then { y with nullOut := false } else zeroTile y) with tolerant := img.tolerant })
  let s := img.tiles.foldl (fun s x => updTile s x.tile (fun y =>
    if out y then y else loadTile (ownLanes s x.tile) x job.stream.isSome job.traced y)) s
  let s := loadSlots s p img.slots
  let s := if job.lockstep then loadPorts s p img else s
  updPart s p (fun x => { x with
    image := some img, job := some job, state := 3, rho := 65536, faults := faultLogReset,
    discPoison := dictNat s 0x3060 (p + 1) 0 = 1, traceHalf := [], traceOff := 0, traceBytes := 0, outputs := 0 })

/-- LAUNCH: a refused image changes nothing (R571). A partition that runs a job, or that does not exist, launches none. -/
def launch (p : Nat) (img : Image) (s : State) : State :=
  if partExists s p && (partAt s p).job.isNone && launchOk s p img false then launchNow s p img none else s

/-- The tiles of the job's image. -/
def jobTiles (s : State) (p : Nat) : List Nat := ((partAt s p).image.map (fun i => i.tiles.map (·.tile))).getD []

/-- A model switch is over: its time on the partition's tiles and its energy go to the switch account (R429, R455). -/
def switchDone (tiles us : Nat) (x : Part) : Part :=
  match x.switchFrom with
  | none => x
  | some (u, e) =>
    { x with account := fmUpd 0 x.account 17 (fun v => satAdd (2 ^ 64 - 1) v (tiles * (us - u))),
             energy := fmUpd 0 x.energy 17 (fun v => satAdd (2 ^ 64 - 1) v (fmGet 0 x.energy 18 - e)), switchFrom := none }

/-- The tiles that take part in the job's next first bundle: those of the image that load or run, and those that a prune has not
halted yet (R43, R89). -/
def jobLive (s : State) (p : Nat) : List Nat :=
  (jobTiles s p).filter (fun t =>
    let y := tileAt s t
    y.regs.state = .loading || y.regs.state = .running || (y.regs.state = .pruning && (match y.seq.stream with
      | .armed _ => true
      | _ => false)))

/-- FIRST_BUNDLE (R89, R125, R175): the frame that START named at every tile of the job begins; tables swap, the tiles issue in one
cycle, and a pruned tile's slots carry null flits from here on (R45). -/
def firstBundle (p : Nat) (s : State) : State :=
  match (partAt s p).job with
  | none => s
  | some job =>
    match jobLive s p with
    | [] => s
    | t :: ts =>
      let f := match (tileAt s t).seq.stream with
        | .armed f => f
        | _ => 0
      if 512 * f < job.readyAt || 512 * f < s.cycle || !(t :: ts).all (fun u => (tileAt s u).seq.stream = .armed f) then s
      else
        let s := swapNow (advanceTo s (512 * f)) p
        let go (y : Tile) : Tile :=
          match y.seq.stream with
          | .armed _ =>
            let y := if y.regs.state = .running then y else countEv 0x01 1 y
            { y with regs := { y.regs with state := if y.regs.state = .loading then .running else y.regs.state },
                     seq := { y.seq with stream := .issuing, nextIssue := 512 * f } }
          | _ => y
        let s := updTiles s (t :: ts) go
        let s := updTiles s (partTiles s p) (fun y => if y.regs.state = .pruned || y.prune.any (·.2) then { y with nullOut := true } else y)
        updPart s p (fun x => switchDone (16 * x.blocks.length) s.us { x with state := 4, job := some { job with started := true } })

/-- START at a tile (R89, R197): the first bundle is armed for a frame, before a first bundle or between phases. -/
def armTile (f : Nat) (t : Tile) : Tile :=
  if (t.regs.state = .loading || t.regs.state = .running) && (t.seq.stream = .idle) then
    { t with seq := { t.seq with stream := .armed f } }
  else t

/-- A tile between phases: address registers, loop counters, pointer, scope and envelope limit of the phase image, queues empty;
split, banks, flags, counters and L1 kept (R88, R125). -/
def phaseTile (x : PhaseTile) (t : Tile) : Tile :=
  let t := loadChunks x.chunks t
  let q := { seqReset with pc := x.entry, scope := x.scope, env := x.env, layer := t.seq.layer, opid := t.seq.opid }
  let q := x.a.zipIdx.foldl (fun q v => setA q v.2 v.1.toNat) q
  { t with ports := [], seq := x.l.zipIdx.foldl (fun q v => setL q v.2 v.1.toNat) q }

/-- PHASE_RELOAD (R125): every running tile has reported the end of its phase; the next images load. -/
def phaseReload (p : Nat) (s : State) : State :=
  match (partAt s p).job, (partAt s p).image with
  | some job, some img =>
    let ts := (jobTiles s p).filter (fun t => (tileAt s t).regs.state = .running)
    if ts.isEmpty || !ts.all (fun t => (tileAt s t).seq.stream = .phaseEnd true) then s
    else match img.phases[job.phase]? with
      | none => s
      | some ph =>
        let s := ph.foldl (fun s x => updTile s x.tile (phaseTile x)) s
        let s := match img.laterSlots[job.phase]? with
          | some xs => loadSlots s p xs
          | none => s
        updPart s p (fun y => { y with job := some { job with phase := job.phase + 1 } })
  | _, _ => s

/-! ### Ends of jobs -/

/-- A tile whose job ends: Running and Loading become Idle, Pruned and RouterFault stay; its outputs carry empty flits
(R45, R53). -/
def idleTile (t : Tile) : Tile :=
  { t with
    regs := { t.regs with state := if t.regs.state = .running || t.regs.state = .loading then .idle else t.regs.state },
    nullOut := false, frozen := false,
    seq := { t.seq with stream := .idle, slots := [], queue := [], hold := .none } }

/-- A tile whose job is killed (R163, R218): the units, the movers and the group engine stop where they are; descriptors,
queues and writes not yet sent are discarded. -/
def killTile (t : Tile) : Tile :=
  let stop (m : Mover) : Mover := { m with queue := [], stopped := true }
  idleTile { t with
    units := { unitsReset with banks := t.units.banks },
    ports := [],
    movers := (List.range 4).foldl (fun ms m => fmUpd moverReset ms m stop) t.movers,
    ge := { t.ge with stopped := true, groups := [], activeSet := [], launchQ := [], cohorts := [], pipe := [], pipeHeld := 64 },
    l1 := quietL1 t.l1 }

/-- The partition's ports after its job: no tag, every entry free (R372, R387). -/
def freePorts (s : State) (p : Nat) : State :=
  let free (x : Port) : Port := if x.part = some p then { x with sendA := [], landA := [], sendS := [], landS := [], lost := 0 } else x
  { s with coppice := fmMap portUnset free s.coppice }

/-- The partition without its job. The governor of a root forgets every wanted point with a lockstep job (R448). -/
def endJob (s : State) (p : Nat) : State :=
  let s := freePorts s p
  let s := if ((partAt s p).job.any (·.lockstep)) then { s with gov := { s.gov with wanted := [] } } else s
  updPart s p (fun x => { x with job := none, state := if x.state = 3 || x.state = 4 || x.state = 5 then 2 else x.state })

/-- JOB_CLOSE (R124): every tile of the job has reported done, or is pruned or RouterFault. -/
def jobClose (p : Nat) (s : State) : State :=
  if (partAt s p).job.isNone then s
  else
    let done (t : Nat) : Bool :=
      let y := tileAt s t
      y.seq.stream = .ended true || y.regs.state = .pruned || y.regs.state = .routerFault
    if (jobTiles s p).all done then endJob (updTiles s (partTiles s p) idleTile) p else s

/-- Order of faults: earliest cycle, then tile, engine, group slot (R165). -/
def faultBefore (a b : FaultRec) : Bool :=
  a.cycle < b.cycle || (a.cycle = b.cycle && (a.tile < b.tile || (a.tile = b.tile &&
    (a.engine < b.engine || (a.engine = b.engine && a.gslot < b.gslot)))))

/-- A fault put in its place. -/
def insertFault (f : FaultRec) : List FaultRec → List FaultRec
  | [] => [f]
  | g :: gs => if faultBefore f g then f :: g :: gs else g :: insertFault f gs

/-- Faults that the tiles of a partition have still to report, with their tile (R165). -/
def owedFaults (s : State) (p : Nat) : List FaultRec :=
  (partTiles s p).flatMap (fun t => (tileAt s t).reports.filterMap (fun r => match r with
    | .fault f => some { f with tile := t }
    | _ => none))

/-- The fault record of a kill with a cause (R164, R165): the first fault, up to 8 more of its cycle, the number of the
others. -/
def makeRecord (fs : List FaultRec) (cause : Nat) : FaultLog :=
  let sorted := fs.foldl (fun acc f => insertFault f acc) []
  match sorted with
  | [] => ⟨[], 0, cause⟩
  | f :: rest =>
    let same := (rest.filter (·.cycle = f.cycle)).take 8
    ⟨f :: same, capAt 255 (rest.length - same.length), cause⟩

/-- The kill of a job as it acts on the tiles and the record (R163–R165, R218). -/
def killTiles (s : State) (p cause : Nat) : State :=
  let fs := (partAt s p).faults.faults ++ owedFaults s p
  let noFault (r : Report) : Bool := match r with
    | .fault _ => false
    | _ => true
  let s := updTiles s (partTiles s p) (fun y => killTile { y with reports := y.reports.filter noFault })
  endJob (updPart s p (fun x => { x with faults := makeRecord fs cause })) p

end Sys2Proof.Machine
end

