-- ==== Sys2Proof/Machine/Hub.lean ====
section
/-!
DEFINITION. Twig between the hubs and the tiles (R194–R200): headers, routes, latencies, broadcasts, and the order in which reports
reach a hub.
-/

namespace Sys2Proof.Machine

/-- The corner tile at which a die's hub is attached (R194). -/
def hubTile (d : Nat) : Nat := (if d < 2 then 23 else 24) * nCols + (if d % 2 = 0 then 21 else 22)

/-- Fields of a header word (R196). -/
def twType (h : BitVec 32) : Nat := field h.toNat 31 28
def twClass (h : BitVec 32) : Nat := field h.toNat 27 26
def twDest (h : BitVec 32) : Nat := field h.toNat 25 13
def twPart (h : BitVec 32) : Nat := field h.toNat 12 8
def twLen (h : BitVec 32) : Nat := field h.toNat 7 5
def twTag (h : BitVec 32) : BitVec 5 := BitVec.ofNat 5 h.toNat

/-- The numbers from `a` to `b`, whichever is less. -/
def spanOf (a b : Nat) : List Nat := (List.range (max a b + 1 - min a b)).map (· + min a b)

/-- The tiles between the hub of a tile's die and the tile, the hub's own among them: along the hub's row and then the tile's column, or
in the opposite order (R200). -/
def twigPath (opposite : Bool) (t : Nat) : List Nat :=
  let h := hubTile (dieOf t)
  let row := if opposite then rowOf t else rowOf h
  let col := if opposite then colOf h else colOf t
  ((spanOf (colOf h) (colOf t)).map (row * nCols + ·) ++ (spanOf (rowOf h) (rowOf t)).map (· * nCols + col)).filter (· ≠ t)

/-- A Twig node that passes no message on. -/
def nodeDown (y : Tile) : Bool := y.regs.state = .routerFault || !y.regs.twigOk

/-- Every node on a route works. -/
def pathClear (s : State) (opposite : Bool) (t : Nat) : Bool := (twigPath opposite t).all (fun u => !nodeDown (tileAt s u))

/-- The order that messages of a tile take: the normal one, the opposite one around a RouterFault tile, or none (R200). -/
def twigOrder (s : State) (t : Nat) : Option Bool :=
  if pathClear s false t then some false else if pathClear s true t then some true else none

/-- Messages reach the tile and its node answers: the compute clock runs, the node works, and a route leads there (R195, R200). -/
def twigUp (s : State) (t : Nat) : Bool :=
  clockOn s && (tileAt s t).regs.twigOk && (tileAt s t).regs.state ≠ .off && (twigOrder s t).isSome

/-- Hops between a tile and its hub, the same by either order. -/
def twigHops (t : Nat) : Nat :=
  let h := hubTile (dieOf t)
  (max (rowOf t) (rowOf h) - min (rowOf t) (rowOf h)) + (max (colOf t) (colOf h) - min (colOf t) (colOf h))

/-- Cycles from the Husk to a tile for a message of `n` further words (R194, R196): the attachment, two cycles a hop, and the words behind
the header. No message of the other direction is in its way, and the hub sends one at a time. -/
def twigLatency (t n : Nat) : Nat := 64 + 2 * twigHops t + n

/-- The tiles that a hub's message reaches (R196, R199): one tile of its die, or those of PART there. DEDUCED (log entry 99): a broadcast
of any type reaches every tile of PART. -/
def twigTargets (s : State) (d : Nat) (h : BitVec 32) : List Nat :=
  if twDest h = 0x1FFE then (partTiles s (twPart h)).filter (fun t => dieOf t = d)
  else if twDest h < nTiles && dieOf (twDest h) = d then [twDest h] else []

/-- A Twig message discarded and counted at the hub (R196, R197). -/
def twigDrop (s : State) : State := { s with esp := { s.esp with twigDropped := s.esp.twigDropped + 1 } }

/-- The tiles whose nodes a message between the hub and these tiles passes, each once (R199, R200). -/
def twigNodes (s : State) (ts : List Nat) : List Nat :=
  (ts.flatMap (fun t => match twigOrder s t with
    | some o => twigPath o t
    | none => [])).eraseDups

/-- `n` words pass the nodes of these tiles (R490 code 0x83). -/
def twigForward (n : Nat) (us : List Nat) (s : State) : State := us.foldl (fun s u => updTile s u (countEv 0x83 n)) s

/-- A message's words have reached, in this cycle, the nodes `k` hops from the hub: they go on, and `f` is what they do at its tiles. -/
def twigReach (n k : Nat) (nodes ts : List Nat) (f : Nat → State → State) (s : State) : State :=
  let at_ (t : Nat) : Bool := twigHops t = k
  (ts.filter at_).foldl (fun s t => if twigUp s t then f t s else s) (twigForward (1 + n) (nodes.filter at_) s)

/-- Cycles pass to the message's arrival at each of the tiles, the nearest first, and `f` is what it does there. -/
def twigArrive (n : Nat) (ts : List Nat) (f : Nat → State → State) (s : State) : State :=
  let c := s.cycle
  let nodes := twigNodes s ts
  (List.range 46).foldl (fun s k =>
    if (nodes ++ ts).any (fun t => twigHops t = k) then twigReach n k nodes ts f (advanceTo s (c + 64 + 2 * k + n)) else s) s

/-- A message of type `typ` that the hub of die `d` sends: one with a reserved TYPE, or whose CLASS is not the type's, is discarded and
counted (R196, R197); a header of another type is no message of this kind. -/
def hubSend (typ cls d : Nat) (h : BitVec 32) (f : Nat → State → State) (s : State) : State :=
  if twType h = 0xF || (twType h = typ && twClass h ≠ cls) then twigDrop s
  else if twType h ≠ typ then s
  else twigArrive (twLen h) (twigTargets s d h) f s

/-! ### Reports on their way to a hub (R197, R198) -/

/-- Class of a report's message. -/
def reportClass (r : Report) : Nat :=
  match r with
  | .endDone | .phaseEnd | .cohort _ | .fault _ | .fenceDone => 1
  | .regData _ _ => 2
  | .snap _ | .heartbeat _ _ _ => 3

/-- Words of a report's message, its header among them. -/
def reportWords (r : Report) : Nat :=
  match r with
  | .snap ws => 1 + ws.length
  | .heartbeat _ _ _ => 3
  | .fenceDone => 1
  | _ => 2

/-- What waits on a die for its hub: the reports of every tile there, those of a tile that no list names once. -/
def dieReports (s : State) (d : Nat) : List Report :=
  let listed := s.tiles.filter (fun x => x.1 < nTiles && dieOf x.1 = d)
  (listed.filter (fun x => twigUp s x.1)).flatMap (·.2.reports) ++ (if listed.length < 528 then s.tile0.reports else [])

/-- The report is the next of its tile that its hub serves: the first of its class there, with none of a class that goes before it waiting
on the die, and class 3 in its turn once others have taken 15 cycles (R198). -/
def reportTurn (s : State) (t : Nat) (r : Report) : Bool :=
  let d := dieOf t
  let k := reportClass r
  let wait (c : Nat) : Bool := (dieReports s d).any (fun x => reportClass x = c)
  let due := wait 3 && 15 < fmGet 0 s.esp.twigRun d + (if k = 3 then 16 else reportWords r)
  twigUp s t && ((tileAt s t).reports.find? (fun x => reportClass x = k)) = some r &&
  (if due then k = 3 else (List.range k).all (fun c => !wait c))

/-- The first report that `ok` accepts leaves the tile. -/
def takeReport (ok : Report → Bool) (t : Tile) : Tile := { t with reports := t.reports.eraseP ok }

/-- The report `r` of tile `t` has reached the hub. -/
def reportIn (t : Nat) (r : Report) (s : State) : State :=
  let s := twigForward (reportWords r) (twigNodes s [t]) (updTile s t (takeReport (· = r)))
  let d := dieOf t
  let run := if reportClass r = 3 || !(dieReports s d).any (fun x => reportClass x = 3) then 0
    else fmGet 0 s.esp.twigRun d + reportWords r
  { s with esp := { s.esp with twigRun := fmSet 0 s.esp.twigRun d run } }

/-! ### Tiles cut off (R200) -/

/-- Tiles of a die that no order reaches any more. -/
def cutOff (s : State) (d : Nat) : List Nat :=
  (List.range nTiles).filter (fun t => dieOf t = d && (tileAt s t).regs.state ≠ .routerFault && (twigOrder s t).isNone)

/-- A tile whose router has failed, or that is found unfit at a start (R49, R188, R191): RouterFault. -/
def faultTile (t : Tile) : Tile := { t with regs := { t.regs with state := .routerFault } }

end Sys2Proof.Machine
end

