-- ==== Sys2Proof/Machine/TileRegs.lean ====
section
/-!
DEFINITION. The register block and the counter block of a tile (R39, R52–R54, R487–R494), the start of a prune (R43,
R48), and the note a change of a sealed
field leaves (R526).
-/

namespace Sys2Proof.Machine

/-- A sealed field has changed (R526). -/
def sealChanged (s : State) : State := { s with dev := { s.dev with stale := true, armed := false, touched := true } }

/-- The sequencer waits on an arrival counter or a full mover (TILE_STATUS.WAITING). -/
def waiting (t : Tile) : Bool :=
  match t.seq.hold with
  | .counter _ _ => true
  | .mover => true
  | _ => false

/-- TILE_CFG. -/
def tileCfg (t : Tile) : Nat :=
  t.regs.part.toNat * 2 ^ 19 + bnat t.regs.partValid * 2 ^ 18 + t.regs.splitNext.toNat * 2 ^ 16 + t.regs.splitCur.toNat * 2 ^ 14

/-- TILE_STATUS in cycle `c`. -/
def tileStatus (c : Nat) (t : Tile) : Nat :=
  bnat (openIn t.seq c) * 2 ^ 17 + bnat (waiting t) * 2 ^ 16 + bnat t.regs.twigOk * 2 ^ 9 + bnat t.regs.routerOk * 2 ^ 8 +
  stateCode t.regs.state

/-- GE_OCC: resident groups, groups in the active set, registers per thread divided by 8 of the resident kernel. -/
def geOcc (t : Tile) : Nat :=
  let act := (t.ge.activeSet.filter (fun p => p.2.isSome)).length
  (residents t).length * 2 ^ 16 + act * 2 ^ 8 + (((residents t).head?).map (fun p => p.2.rpt)).getD 0

/-- MOVER_STATUS. -/
def moverStatus (t : Tile) : Nat :=
  ((List.range 4).map (fun m =>
    let q := (moverAt t m).queue
    (bnat (q.any (·.started)) * 128 + bnat (t.regs.moverErr.toNat.testBit m) * 32 + q.length % 32) * 2 ^ (8 * m))).sum

/-- A word of the tile's register block as a read returns it. -/
def tileWord (c tile : Nat) (t : Tile) (off : Nat) : Nat :=
  if off = 0x00 then dieOf tile * 2 ^ 30 + rowOf tile * 2 ^ 24 + colOf tile * 2 ^ 18 + tile
  else if off = 0x04 then tileCfg t
  else if off = 0x08 then tileStatus c t
  else if off = 0x10 then t.regs.glCur.toNat * 2 ^ 16 + t.regs.glNext.toNat
  else if off = 0x14 then geOcc t
  else if off = 0x18 then moverStatus t
  else if off = 0x1C then t.regs.acSel.toNat
  else if off = 0x20 then acNow t t.regs.acSel.toNat % 2 ^ 32
  else if off = 0x24 then t.regs.acHi.toNat
  else if off = 0x28 then t.regs.mflags.toNat
  else if off = 0x2C then t.regs.faultOp.toNat * 2 ^ 8 + t.regs.faultCode.toNat
  else 0

/-- A read of AC_VALUE_LO latches the counter's high bits (R39). -/
def latchAc (t : Tile) : Tile :=
  { t with regs := { t.regs with acHi := BitVec.ofNat 16 (acNow t t.regs.acSel.toNat / 2 ^ 32) } }

/-- Masks of the fields of a tile register that are RW, W1C and WO. -/
def tileMasks (off : Nat) : Nat × Nat × Nat :=
  if off = 0x04 then (0x00FF0000, 0, 0)
  else if off = 0x0C then (0, 0, 1)
  else if off = 0x10 then (0xFF, 0, 0)
  else if off = 0x18 then (0, 0x20202020, 0)
  else if off = 0x1C then (0x3F, 0, 0)
  else if off = 0x28 then (0, 0xFFF, 0)
  else (0, 0, 0)

/-- The tile's entry of the health map in NOR: 0 Healthy, 1 Pruned, 2 RouterFault (R50). -/
def healthOf (s : State) (t : Nat) : Nat :=
  let d := dieOf t
  let i := (rowOf t % 24) * 22 + colOf t % 22
  field (leAt ((dictVal s 0x7110 (d + 1)).getD []) (i / 4) 1) (2 * (i % 4) + 1) (2 * (i % 4))

def setHealth (s : State) (t v : Nat) : State :=
  let d := dieOf t
  let i := (rowOf t % 24) * 22 + colOf t % 22
  let old := fit 0 132 ((dictVal s 0x7110 (d + 1)).getD [])
  dictPut s 0x7110 (d + 1) (modAt (fun b => BitVec.ofNat 8 (putField b.toNat (2 * (i % 4) + 1) (2 * (i % 4)) v)) (i / 4) old)

/-- The firmware sends a prune, which the tile's Twig node has still to receive. -/
def askPrune (s : State) (t : Nat) : State :=
  if s.esp.pruneAsked.contains t then s else { s with esp := { s.esp with pruneAsked := s.esp.pruneAsked ++ [t] } }

/-- The tile set to RouterFault, in the health map too (R49). -/
def faultAt (s : State) (t : Nat) : State := setHealth (updTile s t faultTile) t 2

/-- Tiles of a die that both orders cut off are set to RouterFault, and those that they cut off in turn (R200). -/
def faultCut : Nat → Nat → State → State
  | 0, _, s => s
  | fuel + 1, d, s => match cutOff s d with
    | [] => s
    | ts => faultCut fuel d (ts.foldl faultAt s)

/-- Tiles whose heartbeat the firmware watches (R464, R466). -/
def watched (t : Tile) : Bool := t.regs.state = .idle || t.regs.state = .loading || t.regs.state = .running

/-- A prune of a tile (R43, R48): frame F is the first boundary at least 64 cycles on; queued descriptors are
discarded. A tile that is loading ends the launch of a job that does not tolerate it. -/
def pruneTile (t : Nat) (s : State) : State :=
  let s := { s with esp := { s.esp with pruneAsked := s.esp.pruneAsked.erase t } }
  let y := tileAt s t
  if !twigUp s t || !watched y || y.prune.isSome then s
  else
    let keep (m : Mover) : Mover := { m with queue := m.queue.filter (·.started) }
    let s' := updTile s t (fun y =>
      { y with prune := some (frameUp (s.cycle + 64), false), regs := { y.regs with state := .pruning },
               movers := (List.range 4).foldl (fun ms m => fmUpd moverReset ms m keep) y.movers })
    let p := partOf s t
    if y.regs.state = .loading && !y.tolerant then
      endJob (updTiles s' (partTiles s' p) idleTile) p
    else s'

/-- PRUNE at a tile's Twig node: one that the Husk firmware sent for a case of R42. -/
def pruneCmd (t : Nat) (s : State) : State := if s.esp.pruneAsked.contains t then pruneTile t s else s

/-- A tile's registers after a write; TILE_CFG, GE_CFG and TILE_PRUNE take a write of the operator only (R53, R54). -/
def tileRegsWrite (operator : Bool) (off v : Nat) (r : TileRegs) : TileRegs :=
  if off = 0x04 && operator then
    { r with part := BitVec.ofNat 5 (field v 23 19), partValid := v.testBit 18, splitNext := BitVec.ofNat 2 (field v 17 16) }
  else if off = 0x10 && operator then { r with glNext := BitVec.ofNat 8 v }
  else if off = 0x18 then
    let clr := (List.range 4).foldl (fun m i => if v.testBit (8 * i + 5) then m + 2 ^ i else m) 0
    { r with moverErr := r.moverErr &&& ~~~(BitVec.ofNat 4 clr) }
  else if off = 0x1C then { r with acSel := BitVec.ofNat 6 v }
  else if off = 0x28 then { r with mflags := r.mflags &&& ~~~(BitVec.ofNat 12 v) }
  else r

/-- The sealed fields of a tile's registers (R525). -/
def sealedRegs (r : TileRegs) : BitVec 5 × Bool × BitVec 2 × BitVec 8 := (r.part, r.partValid, r.splitNext, r.glNext)

/-- A write to a tile's register block; TILE_PRUNE prunes at once (R43, R53). -/
def tileWrite (operator : Bool) (t off v : Nat) (s : State) : State :=
  if off = 0x0C then if operator && v.testBit 0 then pruneTile t s else s
  else
    let old := (tileAt s t).regs
    let new := tileRegsWrite operator off v old
    let s' := updTile s t (fun y => { y with regs := new })
    if sealedRegs old = sealedRegs new then s' else sealChanged s'

/-- A write that has arrived at a tile's block reaches the register in the next cycle (R523): a W1C clear before what the hardware does in
that cycle, any other value after it (R77, R524, R529). -/
def tileWriteNext (operator : Bool) (t off v : Nat) (s : State) : State :=
  if (tileMasks off).2.1 ≠ 0 then nextCycle (tileWrite operator t off v) s
  else tileWrite operator t off v (advanceTo s (s.cycle + 1))

/-! ### Counter block (R490–R493) -/

/-- A stored selection: reserved codes store 0x00 (R490). -/
def selStore (v : Nat) : Nat := if (0x15 ≤ v && v ≤ 0x7F) || 0x84 ≤ v then 0 else v

/-- A fixed counter as its reader sees it: FC9 to FC15 read 0, FC8 only for the operator (R491, R492). -/
def fcVal (operator : Bool) (t : Tile) (i : Nat) : Nat :=
  if 9 ≤ i || (i = 8 && !operator) then 0 else fmGet 0 t.cnt.fc i

/-- The value that CNT_SEL selects. -/
def cntVal (operator : Bool) (t : Tile) : Nat :=
  let i := t.cnt.cntSel % 16
  if 16 ≤ t.cnt.cntSel then fcVal operator t i
  else if operator then fmGet 0 t.cnt.done.vals i else openVal t.cnt.done i

/-- A word of the tile's counter block as a read returns it. -/
def cntWord (operator : Bool) (t : Tile) (off : Nat) : Nat :=
  if off ≤ 0x0C then
    ((List.range 4).map (fun i =>
      let v := fmGet 0 t.cnt.sel (off + i)
      (if 0x80 ≤ v && !operator then 0 else v) * 2 ^ (8 * i))).sum
  else if off = 0x10 then t.cnt.cntSel
  else if off = 0x14 then cntVal operator t % 2 ^ 32
  else if off = 0x18 then t.cnt.hi
  else if off = 0x1C then t.cnt.tag
  else if off = 0x20 then t.cnt.seqLatch
  else 0

/-- A read of CNT_LO latches CNT_HI, CNT_TAG and CNT_SEQ (R493). -/
def latchCnt (operator : Bool) (t : Tile) : Tile :=
  let fixed := 16 ≤ t.cnt.cntSel
  let d := t.cnt.done
  { t with cnt := { t.cnt with hi := cntVal operator t / 2 ^ 32,
                               tag := if fixed then 0 else d.layer * 2 ^ 16 + d.opid,
                               seqLatch := if fixed then 0 else d.seq } }

def cntMasks (off : Nat) : Nat × Nat × Nat :=
  if off ≤ 0x0C then (0xFFFFFFFF, 0, 0) else if off = 0x10 then (0x1F, 0, 0) else (0, 0, 0)

/-- A write to a tile's counter block: through a virtual function a code from 0x80 up leaves the selection (R492). -/
def cntWrite (operator : Bool) (t off v : Nat) (s : State) : State :=
  if off ≤ 0x0C then
    let old := (tileAt s t).cnt.sel
    let new := (List.range 4).foldl (fun m i =>
      let code := field v (8 * i + 7) (8 * i)
      if 0x80 ≤ code && !operator then m else fmSet 0 m (off + i) (selStore code)) old
    let s' := updTile s t (fun y => { y with cnt := { y.cnt with sel := new } })
    if old = new then s' else sealChanged s'
  else if off = 0x10 then updTile s t (fun y => { y with cnt := { y.cnt with cntSel := v % 32 } })
  else s

/-- The 26 words of a counter snapshot, in messages of 7, 7, 7 and 5 (R494). -/
def snapWords (t : Tile) : List (List (BitVec 32)) :=
  let d := t.cnt.done
  let vals := (List.range 16).flatMap (fun i => natLe 6 (fmGet 0 d.vals i))
  let ws := [BitVec.ofNat 32 d.seq, BitVec.ofNat 32 (d.layer * 2 ^ 16 + d.opid)] ++
    (chunks 4 24 vals).map (fun b => BitVec.ofNat 32 (leNat b))
  chunks 7 4 ws

/-- The tile answers a counter snapshot. -/
def counterSnapshot (t : Tile) : Tile := { t with reports := t.reports ++ (snapWords t).map .snap }

end Sys2Proof.Machine
end

