-- ==== Sys2Proof/Machine/Twig.lean ====
section
/-!
DEFINITION. What tiles send and receive over Twig (R194–R200), pruning (R43–R48, R193, R488), and the events of a tile that
come with time (R29, R77, R97, R123, R131, R136, R161, R162).
-/

namespace Sys2Proof.Machine

/-- HEARTBEAT (R197): a heartbeat of the tile reaches the hub, in its turn; its words stand there. -/
def heartbeat (t : Nat) (s : State) : State :=
  match (tileAt s t).reports.find? isBeat with
  | none => s
  | some r =>
    if !reportTurn s t r then s
    else
      let s := reportIn t r s
      let words := match r with
        | .heartbeat st c pc => [BitVec.ofNat 32 st, c, pc]
        | _ => []
      { s with esp := { s.esp with
        missed := fmSet 0 s.esp.missed t 0, beats := fmSet [] s.esp.beats t words, beatAt := fmSet 0 s.esp.beatAt t s.cycle } }

/-- A probe of the firmware, REG_RD of TILE_STATUS by one order (R466): it reaches the tile where the order leads there. -/
def probe (opposite : Bool) (t : Nat) (s : State) : State :=
  let s := { s with esp := { s.esp with probes := fmSet 0 s.esp.probes t (if opposite then 2 else 1), probeAt := fmSet 0 s.esp.probeAt t s.cycle } }
  if (tileAt s t).regs.twigOk && pathClear s opposite t then
    let s := twigForward 2 (twigPath opposite t).eraseDups (advanceTo s (s.cycle + twigLatency t 1))
    updTile s t (fun y => { y with reports := y.reports ++ [.regData 0 (BitVec.ofNat 32 (tileStatus s.cycle y))] })
  else s

/-- HEARTBEAT_MISS: no heartbeat has come for four periods, 262,144 cycles, and a probe goes out in the normal order (R464, R466). -/
def heartbeatMiss (t : Nat) (s : State) : State :=
  if watched (tileAt s t) && fmGet 0 s.esp.probes t = 0 then
    let s := advanceTo s (fmGet 0 s.esp.beatAt t + 262144)
    probe false t { s with esp := { s.esp with missed := fmSet 0 s.esp.missed t 4 } }
  else s

/-- The probe of a tile is over. -/
def endProbe (t : Nat) (s : State) : State :=
  { s with esp := { s.esp with missed := fmSet 0 s.esp.missed t 0, probes := fmSet 0 s.esp.probes t 0,
                               probeAt := fmSet 0 s.esp.probeAt t 0, beatAt := fmSet 0 s.esp.beatAt t s.cycle } }

/-- A register's value at the hub: the firmware has it; a reply to a probe makes it prune the tile (R466). -/
def regReply (t : Nat) (v : BitVec 32) (s : State) : State :=
  if fmGet 0 s.esp.probes t ≠ 0 then askPrune (endProbe t { s with out := s.out ++ [.regValue v] }) t
  else { s with out := s.out ++ [.regValue v] }

/-- REG_DATA: the value reaches the hub, in its turn. -/
def regData (t : Nat) (tag : BitVec 5) (v : BitVec 32) (s : State) : State :=
  let r := Report.regData tag v
  if !(tileAt s t).reports.contains r || !reportTurn s t r then s else regReply t v (reportIn t r s)

/-- PRUNE (R43): the hub sends it to a tile for which a case of R42 asks it. -/
def prune (d : Nat) (h : BitVec 32) (s : State) : State := hubSend 0x1 0 d h pruneCmd s

/-- FENCE at the tiles it reaches. -/
def fence (d : Nat) (h : BitVec 32) (s : State) : State :=
  hubSend 0x2 0 d h (fun t s => updTile s t (fun y => { y with router := { y.router with fence := true } })) s

/-- FENCE_DONE reaches the hub. -/
def fenceDone (t : Nat) (s : State) : State :=
  let s := fenceDoneAt t s
  if (tileAt s t).reports.contains .fenceDone && reportTurn s t .fenceDone then reportIn t .fenceDone s else s

/-- KILL: job kill at the tiles it reaches. -/
def twigKill (d : Nat) (h : BitVec 32) (s : State) : State := hubSend 0x4 0 d h (fun t s => updTile s t killTile) s

/-- The Husk firmware names a frame at least two frames after it sends (R198). -/
def frameAhead (s : State) (frame : Nat) : Bool := s.cycle / 512 + 2 ≤ frame

/-- START: the frame of the first bundle, at the tiles it reaches; the firmware sends none with a nearer frame. -/
def twigStart (d : Nat) (h : BitVec 32) (frame : Nat) (s : State) : State :=
  if frameAhead s frame then hubSend 0x5 0 d h (fun t s => updTile s t (armTile frame)) s else s

/-- SWAP: a frame named for a partition's tables (R175); the firmware sends none with a nearer frame. -/
def twigSwap (d : Nat) (h : BitVec 32) (frame : Nat) (s : State) : State :=
  if frameAhead s frame then hubSend 0x6 0 d h (fun _ s => s) (if twType h = 0x6 && twClass h = 0 then swapAt (twPart h) frame s else s)
  else s

/-- REG_RD: the tile owes the register's value, with the request's TAG (R196); the read latches as any read of it does. -/
def regRd (d : Nat) (h : BitVec 32) (off : Nat) (s : State) : State :=
  hubSend 0x7 2 d h (fun t s =>
    let v := BitVec.ofNat 32 (tileWord s.cycle t (tileAt s t) off)
    updTile s t (fun y =>
      let y := if off = 0x20 then latchAc y else y
      { y with reports := y.reports ++ [.regData (twTag h) v] })) s

/-- REG_WR: a write of the Husk firmware or of the operator; it reaches the register in the next cycle (R523). -/
def regWr (d : Nat) (h : BitVec 32) (off v : Nat) (s : State) : State :=
  hubSend 0x8 2 d h (tileWriteNext true · off v) s

/-- TABLE_WR at the tile it reaches. -/
def twigTable (d : Nat) (h : BitVec 32) (words : List (BitVec 32)) (s : State) : State :=
  hubSend 0xC 2 d h (fun t s => tableWr t words s) s

/-- A report of the tile is the event named. -/
def isEvent (k : TwigEvent) (r : Report) : Bool :=
  match k, r with
  | .endDone, .endDone => true
  | .phaseEnd, .phaseEnd => true
  | .cohort a, .cohort b => a = b
  | .fault c, .fault f => f.code = c.toNat
  | .internalError, _ => false
  | _, _ => false

/-- A fault that reaches the firmware joins the faults the kill will record, and counts as a later one where the kill is recorded (R165). -/
def noteFault (f : FaultRec) (l : FaultLog) : FaultLog :=
  if l.cause = 0 then { l with faults := l.faults ++ [f] } else { l with later := capAt 255 (l.later + 1) }

/-- The cohort with the image's OUTPUT_TAG is complete: a step's output stands in OUTPUT_AREA (R422). -/
def noteOutput (p tag : Nat) (s : State) : State :=
  if (partAt s p).job.isSome && (partAt s p).image.any (fun i => i.svc.outputTag = tag) then
    updPart s p (fun x => { x with outputs := x.outputs + 1 })
  else s

/-- EVENT: the report reaches the Husk firmware, which keeps a fault for the record of the kill (R165, R197) and reads the step output that a cohort's TAG announces (R422). An unrecoverable
internal error of the compute sub-domain makes it prune the tile (R42); DESIGN CHOICE (log entry 94): an EVENT carries that too. -/
def twigEvent (t : Nat) (k : TwigEvent) (s : State) : State :=
  if k = .internalError then if twigUp s t && watched (tileAt s t) then askPrune s t else s
  else match (tileAt s t).reports.find? (isEvent k) with
  | none => s
  | some r =>
    if !reportTurn s t r then s
    else
      let s := reportIn t r s
      match r with
      | .cohort tag => noteOutput (partOf s t) tag.toNat s
      | .fault f => updPart s (partOf s t) (fun x => { x with faults := noteFault { f with tile := t } x.faults })
      | _ => s

/-- LAUNCH_REC (R130, R132): a record that names an absent kernel, or that finds 32 records, is refused and counted. -/
def launchRec (d : Nat) (h : BitVec 32) (rec_ : BitVec 64) (s : State) : State :=
  hubSend 0xB 2 d h (fun t s => updTile s t (fun y =>
    if kernelEntry y (recKernel rec_) = 0 || 32 ≤ y.ge.launchQ.length then { y with ge := { y.ge with refused := y.ge.refused + 1 } }
    else enqueueRecord rec_ y)) s

/-! ### Snapshots (R475, R479, R494) -/

/-- Code of the hold, the counter waited on and its threshold (R479). -/
def holdFields (c : Nat) (t : Tile) : Nat × Nat × Nat :=
  match t.seq.hold with
  | .counter ac thr => (1, ac, thr)
  | .mover => (2, 0, 0)
  | .sendQueue => (3, 0, 0)
  | .posts => (6, 0, 0)
  | .none =>
    match t.units.mmas with
    | [] => (0, 0, 0)
    | j :: _ =>
      let path := if j.feed = 1 then t.units.pathA else t.units.pathB
      let q := rampAt c t.seq
      if j.ge.isSome || c + 1 < j.at_ then (0, 0, 0)
      else if min q.env (q.rampP + 16) ≤ q.rampB then (5, 0, 0)
      else if j.feed ≠ 0 && path.isEmpty then (4, 0, 0)
      else (0, 0, 0)

/-- Four bytes of a group slot: pointer / 8, empty, active or pending, and the code of the pending wait, which the manual
does not list. -/
def groupFields (free : Nat) (t : Tile) (g : Nat) : Nat :=
  match groupAt t g with
  | none => 0
  | some x =>
    let act := (activeSlot t g).isSome
    x.pc / 8 % 2 ^ 24 + (if act then 1 else 2) * 2 ^ 24 + (if act then 0 else Config.freeNat free % 16) * 2 ^ 28

/-- Free places of a router input's dynamic buffers: inputs N, E, S, W and local, channels in order (R179, R479). -/
def creditBytes (t : Tile) : List Byte :=
  [0, 1, 2, 3, 8].flatMap (fun i => [0, 1, 2].map (fun vc => BitVec.ofNat 8 (8 - (dynBuf t.router i vc).length)))

/-- The tile record at its capture in cycle `c` (R479); byte 3 is the firmware's. -/
def tileRecord (c free tile : Nat) (t : Tile) : List Byte :=
  let h := holdFields c t
  let q := portAt t 0
  let head (m : Nat) : Nat := (((moverAt t m).queue.head?).map (·.addr)).getD 0
  fit 0 1024
    (natLe 2 tile ++ natLe 1 (stateCode t.regs.state) ++ zeros 1 ++ natLe 4 t.seq.pc ++ natLe 8 c ++ natLe 1 h.1 ++ natLe 1 h.2.1 ++
     natLe 6 h.2.2 ++ natLe 2 q.sendq.length ++ natLe 1 q.posts.length ++ natLe 1 q.ring.length ++ natLe 4 (moverStatus t) ++
     (List.range 4).flatMap (fun m => natLe 4 (head m)) ++ zeros 16 ++ (List.range 64).flatMap (fun i => natLe 6 (acNow t i)) ++
     creditBytes t ++ zeros 49 ++ (List.range 64).flatMap (fun g => natLe 4 (groupFields free t g)) ++
     natLe 4 (tileWord c tile t 0x2C) ++ natLe 4 (geOcc t))

/-- A tile stopped by a hang snapshot, its record captured. -/
def freezeTile (c free tile : Nat) (t : Tile) : Tile :=
  if t.frozen then t else { t with captured := tileRecord c free tile t, frozen := true }

/-- SNAP_REQ (R197, R475): the class has to match the kind. -/
def snapReq (d : Nat) (h : BitVec 32) (hang : Bool) (s : State) : State :=
  if hang then hubSend 0xD 0 d h (fun t s => { updTile s t (freezeTile s.cycle s.fresh t) with fresh := s.fresh + 1 }) s
  else hubSend 0xD 3 d h (fun t s => updTile s t counterSnapshot) s

/-- SNAP_DATA: words of a counter snapshot that the tile owes, or of the record and LS of a tile that a snapshot asked. -/
def snapData (t : Nat) (words : List (BitVec 32)) (s : State) : State :=
  if !twigUp s t || words.isEmpty || 7 < words.length then s
  else if (tileAt s t).reports.contains (.snap words) then
    if !reportTurn s t (.snap words) then s
    else
    let s := reportIn t (.snap words) s
    let old := fmGet [] s.esp.cntSnap t
    { s with esp := { s.esp with cntSnap := fmSet [] s.esp.cntSnap t ((if old.length = 26 then [] else old) ++ words) } }
  else match s.rcv.snap with
    | some x =>
      if x.tiles.contains t && (tileAt s t).frozen then
        let s := twigForward (1 + words.length) (twigNodes s [t]) s
        { s with rcv := { s.rcv with snap := some { x with got := fmUpd [] x.got t (· ++ words) } } }
      else s
    | none => s

/-! ### Pruning -/

/-- Flits of one virtual channel of the local port at frame F (R193): the rest of a packet whose first flit has left goes on
Poison, the others are discarded. -/
def cutChannel (r : Router) (vc : Nat) : Router :=
  let fs := dynBuf r 8 vc
  let n := match fs.findIdx? (·.last) with
    | some i => i + 1
    | none => fs.length
  let rest := (fs.take n).map (fun f => { f with poison := true })
  setDyn r 8 vc (if r.prog.any (fun x => x.2 = some (4 * 8 + vc)) then rest else [])

/-- A packet whose flits after the first `n` data flits are Poison (R193): of a mover packet the bytes that left clean land clean. -/
def poisonTail (n : Nat) (m : NetMsg) : NetMsg :=
  match m with
  | .coh d src typ x => .coh d src typ { x with poison := true }
  | .mw x b => .mw ((List.range 2).foldl (fun x i => if n ≤ i then poisonFlit i x else x) x) b
  | .mack h => .mack h

/-- A packet of tile `t` after the cut: none where it was discarded, Poison where it was under way. -/
def cutPacket (s : State) (t : Nat) (m : NetMsg) : Option NetMsg :=
  let fs := flitsOf (partOf s t) m
  let vc := ((fs.head?).map (·.vc.toNat)).getD 0
  let buf := dynBuf (tileAt s t).router 8 vc
  let mine := match m with
    | .coh _ src _ _ => src = some t
    | .mw x b => b.isNone && x.hdr.srcTile = t
    | .mack h => h.dst = t
  if !mine then some m
  else if dropRun fs buf ≠ buf then none
  else if fs.any buf.contains then some (poisonTail ((fs.drop 1).filter (fun f => !buf.contains f)).length m)
  else some m

/-- The compute sub-domain of a tile at frame F: halted, live banks closed, movers and group engine stopped (R43, R488). -/
def haltTile (c : Nat) (running : Bool) (t : Tile) : Tile :=
  let close (t : Tile) : Tile :=
    if t.cnt.stopped then t
    else
      let d : CntBank := ⟨liveBanks t.cnt, t.cnt.selUse, t.seq.layer, t.seq.opid, t.cnt.seq⟩
      let t := streamRecord c { t with cnt := { t.cnt with done := d, live := [], tick := [] } }
      { t with cnt := { t.cnt with stopped := true } }
  let t := close t
  let stop (m : Mover) : Mover := { m with queue := [], stopped := true }
  { t with
    prune := t.prune.map (fun x => (x.1, true)),
    seq := { t.seq with stream := .halted, slots := [], queue := [], loops := [], hold := .none, grant := none },
    ports := t.ports.map (fun x => (x.1, { x.2 with sendq := [] })),
    units := { unitsReset with banks := t.units.banks },
    ge := { t.ge with stopped := true, pipe := [], pipeHeld := 64 },
    movers := (List.range 4).foldl (fun ms m => fmUpd moverReset ms m stop) t.movers,
    l1 := quietL1 t.l1,
    nullOut := running,
    router := (List.range 3).foldl cutChannel t.router }

/-- Frame F at the tile, before the job's fate is settled (R43, R45, R193): dirty lines start their write-back, eight at a time (R235). -/
def frameF (t : Nat) (s : State) : State :=
  match (tileAt s t).prune with
  | some (f, false) =>
    let s := advanceTo s f
    let running := ((partAt s (partOf s t)).job.map (·.started)).getD false
    let s := { s with net := s.net.filterMap (cutPacket s t) }
    let s := flushRecords t (updTile s t (haltTile f running))
    writeBackSome s t
  | _ => s

/-- The tile enters Pruned: clock-gated, held in reset, its L1 invalid (R43). -/
def enterPruned (t : Tile) : Tile :=
  { t with regs := { t.regs with state := .pruned }, prune := none, l1 := l1Reset, seq := { seqReset with stream := .halted },
           units := unitsReset, ports := [], ge := { geReset with stopped := true } }

/-- The tile is Pruned, and its entry of the health map says so (R43, R50). -/
def becomePruned (t : Nat) (s : State) : State := setHealth (updTile s t enterPruned) t 1

/-- PRUNE_WRITEBACK_DONE: every write-back has been acknowledged. -/
def pruneDone (t : Nat) (s : State) : State :=
  let y := tileAt s t
  match y.prune with
  | some (_, true) => if y.l1.wbs.isEmpty && (dirtyLines y).isEmpty then becomePruned t s else s
  | _ => s

/-- PRUNE_WRITEBACK_TIMEOUT: 128,000 cycles after F (R44). -/
def pruneTimeout (t : Nat) (s : State) : State :=
  match (tileAt s t).prune with
  | some (f, true) => if (tileAt s t).l1.wbs.isEmpty && (dirtyLines (tileAt s t)).isEmpty then s else becomePruned t (advanceTo s (f + 128000))
  | _ => s

/-! ### Events that come with time -/

/-- Place of a requester in the order of R27. -/
def requesterOrder (r : BankRequester) : Nat :=
  match r with
  | .dynamicLanding => 2
  | .mover m => 3 + m.val
  | .groupEngine => 7
  | .l1 => 8

/-- BANK_WAIT_LIMIT: the requester has lost the bank in 64 cycles in a row; from then on only priority-1 accesses stand before it,
and it is served in the first cycle without one (R29). -/
def bankWaitLimit (t bank k : Nat) (s : State) : State :=
  let s := updTile (advanceTo s (s.cycle + 64)) t (fun y =>
    countEv 0x0F 64 { y with units := { y.units with boosts := y.units.boosts ++ [(k, bank)] } })
  awaitBanks t k [bank] bankTries s

/-- Cycles until an accumulation of the tile completes, from cycle `c` on; `fuel` bounds them. -/
def untilAdd (s : State) : Nat → Nat → Tile → Option Nat
  | 0, _, _ => none
  | fuel + 1, c, t =>
    if !computing t || (t.units.adds.isEmpty && t.units.mmas.isEmpty) then none
    else if t.units.adds.any (fun a => a.1 = c + 1) then some (c + 1)
    else untilAdd s fuel (c + 1) (tileCycle (epochStarts s (c + 1)) (usIn s (c + 1)) (c + 1) t)

/-- ACCUMULATION_COMPLETE: the next completion cycle passes (R97). -/
def accumulationComplete (t : Nat) (s : State) : State :=
  match untilAdd s 16777216 s.cycle (tileAt s t) with
  | none => s
  | some c => advanceTo s c

/-- RAMP_HOLD_END: the array is held and goes on at the next tick boundary (R123). -/
def rampHoldEnd (t : Nat) (s : State) : State :=
  if (holdFields s.cycle (tileAt s t)).1 = 5 then advanceTo s ((s.cycle / 64 + 1) * 64) else s

/-- GRANT_END: the last open cycle passes and the bank returns (R77). -/
def grantEnd (t : Nat) (s : State) : State :=
  match (tileAt s t).seq.grant with
  | none => s
  | some (_, last, _) =>
    updTile (advanceTo s (last + 1)) t (fun y => { y with seq := { y.seq with grant := none } })

/-- GROUP_RESIDENT (R131). -/
def groupResident (t : Nat) (s : State) : State :=
  if computing (tileAt s t) && !(tileAt s t).ge.stopped then updTile s t (becomeResident s.cycle s.us) else s

/-- PROMOTION (R136). -/
def promotion (t : Nat) (s : State) : State :=
  if computing (tileAt s t) && !(tileAt s t).ge.stopped then updTile s t (promote s.cycle s.us) else s

/-- GMMA_START (R161). -/
def gmmaStart (t g : Nat) (s : State) : State :=
  if computing (tileAt s t) then updTile s t (startLent true s.cycle g) else s

/-- GREAD_START (R162). -/
def greadStart (t g : Nat) (s : State) : State :=
  if computing (tileAt s t) then updTile s t (startLent false s.cycle g) else s

end Sys2Proof.Machine
end

