-- ==== Sys2Proof/Machine/Stacks.lean ====
section
/-!
DEFINITION. The stacks' own events (R289, R297–R303, R306): temperature and refresh, patrol, failure in service, and the
mapping of DM once every stack has ended its start.
-/

namespace Sys2Proof.Machine

/-- The refresh code of a readout (R298): rates fall only 2 °C below the threshold they rose at; the first readout after a
power-up sets the rate of its own temperature (R299). -/
def refreshCode (seen : Bool) (old : BitVec 2) (t : Nat) : BitVec 2 :=
  if 95 < t || (seen && old = 3 && 93 < t) then 3
  else if 85 < t || (seen && 2 ≤ old.toNat && 83 < t) then 2
  else 1

/-- DM once no stack is in training or wiping (R290, R301): the active list, and bit 5 of 0x1010 with at least 19. -/
def dmSettle (s : State) : State :=
  let busy (k : Nat) : Bool := (stackAt s k).state = .training || (stackAt s k).state = .wiping
  if (List.range 20).any busy then s
  else
    let act := (List.range 20).filter (fun k => (stackAt s k).state = .active)
    { s with dm := { s.dm with active := act },
             boot := { s.boot with ready := if 19 ≤ act.length then s.boot.ready ||| 0x20#32 else s.boot.ready &&& ~~~0x20#32 } }

/-- A stack that has passed its stages (R300): record, answer of 0x4010. Spare lanes and eye margins are measurements: free from
number `free` on. -/
def activate (free temp : Nat) (x : Stack) : Stack :=
  { x with state := .active, reason := 0, hot := false,
           record := [5, 0] ++ (List.range 30).map (fun i => Config.freeByte (free + i)), temp := temp, seen := true,
           ref := refreshCode x.seen x.ref temp }

/-- A stack left out of a start (R301): 1 failed mark, 2 temperature. -/
def exclude (why : Nat) (x : Stack) : Stack := { x with state := .excluded, ref := 0, reason := why }

/-- TEMPERATURE_READOUT: a readout accepted or failed (none). Ten failures in a row, or 105 °C, fail the stack; a hot stack
that waits in training goes on below 85 °C. -/
def temperatureReadout (k : Nat) (temp : Option Nat) (s : State) : State :=
  let x := stackAt s k
  if x.state = .off || x.state = .excluded || x.state = .shutDown then s
  else match temp with
    | none =>
      let s := updStack s k (fun x => { x with badReads := x.badReads + 1 })
      if 10 ≤ x.badReads + 1 && x.state ≠ .training then failStack s k false else s
    | some t =>
      let ref := if x.state = .selfRefresh then 0 else refreshCode x.seen x.ref t
      let s := updStack s k (fun x => { x with badReads := 0, temp := t, seen := true, ref := ref })
      if x.state = .training then (if x.hot && t < 85 then dmSettle (updStack { s with fresh := s.fresh + 30 } k (activate s.fresh t)) else s)
      else if 105 ≤ t then failStack s k true
      else s

/-- REFRESH. -/
def refreshStack (k : Nat) (s : State) : State :=
  if (stackAt s k).ref = 0 || (stackAt s k).state = .off then s
  else updStack s k (fun x => { x with refreshes := x.refreshes + 1 })

/-- RFM. -/
def rfmStack (k : Nat) (s : State) : State :=
  if (stackAt s k).ref = 0 || (stackAt s k).state = .off then s else updStack s k (fun x => { x with rfms := x.rfms + 1 })

/-- PATROL of the codeword at `pa` (R297): one symbol in error is rewritten corrected; a Poison outcome rewrites the line
with the poison pattern and records the PA. -/
def patrol (pa : Nat) (s : State) : State :=
  let cw := pa / 64
  let k := (stackOf s.dm.active (64 * cw)).1
  if dmCapacity s ≤ pa || (stackAt s k).state ≠ .active then s
  else
    let (s', _, bad) := readCodeword s cw
    if bad then
      let s' := updStack s' k (fun x => { x with last := 64 * cw })
      dmWriteLine s' (cw / 2) (zeros 128) true
    else if fmGet 0 s.dm.errs cw = 1 then { s' with dm := { s'.dm with errs := fmSet 0 s'.dm.errs cw 0 } }
    else s'

/-- STACK_FAILED (R302). -/
def stackFailed (k : Nat) (why : StackFault) (s : State) : State :=
  match why with
  | .temperature => failStack s k true
  | _ => failStack s k false

/-- STACK_TEMPERATURE_WAIT: 60 s from its power-on no readout fell below 85 °C (R301). -/
def stackWait (k : Nat) (s : State) : State :=
  let waits (s : State) : Bool := (stackAt s k).state = .training && (stackAt s k).hot
  if !waits s then s
  else
    let s := atUs s (s.boot.onUs + 60000000)
    if waits s then dmSettle (updStack s k (exclude 2)) else s

/-- The governor idles every active stack, or wakes it at the rate of its last readout (R289, R305). -/
def idleStacks (s : State) : State :=
  { s with stk := fmMap stackReset (fun x => if x.state = .active then { x with state := .selfRefresh, ref := 0 } else x) s.stk }
def wakeStacks (s : State) : State :=
  { s with stk := fmMap stackReset (fun x =>
      if x.state = .selfRefresh then { x with state := .active, ref := refreshCode false 0 x.temp } else x) s.stk }

/-- With no partition in existence the governor may idle the stacks (R289): at an epoch boundary, by a choice of its own that is free. -/
def mayIdle (s : State) : State :=
  if s.parts.any (fun x => partExists s x.1) then s
  else
    let (s, k) := draw s
    if k % 2 = 0 then idleStacks s else s

/-- STACK_RETRAINING: a link error in service is cleared by retraining, or not (R302). -/
def stackRetraining (k : Nat) (cleared : Bool) (s : State) : State :=
  if (stackAt s k).state ≠ .active then s
  else if cleared then updStack s k (fun x => { x with retrainings := x.retrainings + 1 })
  else failStack s k false

end Sys2Proof.Machine
end

