-- ==== Sys2Proof/Machine/Seedbank.lean ====
section
/-!
DEFINITION. The Seedbank (R308–R326, R331, R333): page reads and writes, extents, and what the controllers do to keep blocks
in service.
-/

namespace Sys2Proof.Machine

/-- The state with the Seedbank changed. -/
def updSeed (s : State) (f : Seed → Seed) : State := { s with seed := f s.seed }

/-- A count of 0x5015 grows. -/
def seedCount (i : Nat) (x : Seed) : Seed := { x with counts := fmUpd 0 x.counts i (fun v => satAdd (2 ^ 64 - 1) v 1) }

def blockAt (x : Seed) (b : Nat) : Block := fmGet blockReset x.blocks b

def setBlock (x : Seed) (b : Nat) (v : Block) : Seed := { x with blocks := fmSet blockReset x.blocks b v }

/-- Blocks of a channel, TLC blocks of a channel (the first ones), blocks of a die (R308, R310). -/
def blocksPerChannel : Nat := 131072
def tlcPerChannel : Nat := 129024
def blocksPerDie : Nat := 16384

/-- A page as a number: extent · 2^34 + page. -/
def pageNo (ext page : Nat) : Nat := ext * 2 ^ 34 + page

/-- The address of a page's first byte in the store. -/
def pageAddr (ext page : Nat) : Nat := ext * 2 ^ 48 + 16384 * page

/-- The channel of a block and its die there. -/
def blockChannel (b : Nat) : Nat := b / blocksPerChannel
def blockDie (b : Nat) : Nat := b % blocksPerChannel / blocksPerDie

/-- A block of a die that has failed. -/
def blockDead (x : Seed) (b : Nat) : Bool := x.deadDies.contains (8 * blockChannel b + blockDie b)

/-! ### Age (R324) -/

/-- The rate at which blocks age at a package temperature in m°C, in 2^-32: 1 up to 40 °C, 2^((T - 40)/8) above, rounded down. -/
def ageRate (t : Int) : Nat := if t ≤ 40000 then 2 ^ 32 else rootFrom 8000 (2 ^ (8000 * 32 + (t - 40000).toNat)) 48 0

/-- Packages age while the module has power, at the temperatures of the readings in force. -/
def agePackages (temp : Nat → Int) (us : Nat) (x : Seed) : Seed :=
  { x with aged := (List.range 32).foldl (fun m c => fmUpd 0 m c (· + ageRate (temp c) * (us - x.agedUs))) x.aged, agedUs := us }

/-- The block's equivalent age is 90 days or more. -/
def oldBlock (x : Seed) (b : Nat) : Bool :=
  decide ((blockAt x b).born + 90 * 86400000000 * 2 ^ 32 ≤ fmGet 0 x.aged (blockChannel b))

/-! ### Capacity and endurance (R310, R323, R326) -/

/-- GiB allocated to extents other than extent 0. -/
def allocated (x : Seed) : Nat :=
  ((x.extents.filter (fun e => e.1 ≠ 0)).map (fun e => (e.2.map (·.size)).getD 0)).sum

/-- Blocks retired that are not on a failed die. -/
def retiredBlocks (x : Seed) : Nat := (x.blocks.filter (fun b => b.2.use_ = .retired && !blockDead x b.1)).length

/-- Free headroom in bytes: the raw capacity less metadata, staging and parity, extents, retired blocks and failed dies. -/
def headroom (x : Seed) : Nat :=
  126 * 2 ^ 40 - 126 * 2 ^ 35 - (allocated x + 4) * 2 ^ 30 - retiredBlocks x * 2 ^ 25 - x.deadDies.length * 2 ^ 39

/-- Remaining endurance in units of 0.01 %. -/
def endurance (x : Seed) : Nat :=
  let tlc := x.blocks.filter (fun b => b.1 % blocksPerChannel < tlcPerChannel)
  let gone := (tlc.filter (fun b => b.2.use_ = .retired)).length
  let e := ((tlc.filter (fun b => b.2.use_ ≠ .retired)).map (fun b => b.2.erases)).sum
  let b := 32 * tlcPerChannel - gone
  if 3000 * b ≤ e then 0 else 10000 * (3000 * b - e) / (3000 * b)

/-- Writable bytes remaining of an extent of `size` GiB. -/
def writable (x : Seed) (size : Nat) : Nat := size * 2 ^ 30 * 3000 * endurance x / 10000

/-- Read-only entered below 1 TiB of headroom or at no endurance, left above 2 TiB (R323). -/
def readOnlyCheck (x : Seed) : Seed :=
  if x.status = 1 && (headroom x < 2 ^ 40 || endurance x = 0) then { x with status := 2 }
  else if x.status = 2 && 2 ^ 41 < headroom x && endurance x ≠ 0 then { x with status := 1 }
  else x

/-- No channel is usable: failed, as 0x5010 reports. -/
def failedCheck (x : Seed) : Seed :=
  if (List.range 32).all (fun c => fmGet 0 x.channels c = 2) then { x with status := 3 } else x

/-! ### Pages -/

/-- A page has been written and not trimmed. -/
def pageHeld (x : Seed) (pg : Nat) : Bool := fmGet 0 x.loc pg ≠ 0 || x.staged.contains pg

/-- A page's old copy in TLC is no longer its place; the page stands in staging. -/
def stagePage (pg : Nat) (x : Seed) : Seed :=
  { x with loc := fmSet 0 x.loc pg 0, staged := x.staged.filter (· ≠ pg) ++ [pg] }

/-- A page trimmed: it reads as zero bytes, and is no longer lost or Poison. -/
def trimPage (pg : Nat) (x : Seed) : Seed :=
  let ext := pg / 2 ^ 34
  let a := pageAddr ext (pg % 2 ^ 34)
  { x with mem := x.mem.filter (fun c => !(a ≤ c.1 && c.1 < a + 16384)),
           poison := x.poison.filter (fun c => !(a / 128 ≤ c.1 && c.1 < a / 128 + 128)),
           lost := fmSet false x.lost (a / 16384) false, loc := fmSet 0 x.loc pg 0, staged := x.staged.filter (· ≠ pg) }

/-- A page's bytes written, its lines' Poison records and its lost mark with them (R317, R318). -/
def writePage (ext page : Nat) (data : List (Nat × List Byte)) (poison : List Nat) (x : Seed) : Seed :=
  let a := pageAddr ext page
  let clean := (List.range 128).foldl (fun m i => fmSet false m (a / 128 + i) (poison.contains i)) x.poison
  stagePage (pageNo ext page)
    { x with mem := data.foldl (fun m d => memWrite m (a + d.1) d.2) x.mem, poison := clean,
             lost := fmSet false x.lost (a / 16384) false, programmed := x.programmed + 16384 }

/-- Lifetime bytes written by movers and Husk copies, of the extent and the device (R326). -/
def noteWritten (ext n : Nat) (x : Seed) : Seed :=
  { x with written := x.written + n,
           extents := fmUpd none x.extents ext (fun e => e.map (fun y => { y with written := y.written + n })) }

/-! ### Blocks (R322) -/

/-- Valid pages of a block. -/
def validPages (x : Seed) (b : Nat) : List Nat := (x.loc.filter (fun e => e.2 = b + 1)).map (·.1)

/-- A block's valid pages rewritten elsewhere, with their ciphertext: they stand in staging again. -/
def moveOut (b : Nat) (x : Seed) : Seed :=
  let ps := validPages x b
  let x := ps.foldl (fun x pg => stagePage pg x) x
  { x with programmed := x.programmed + 16384 * ps.length, open_ := fmMap 0 (fun v => if v = b + 1 then 0 else v) x.open_ }

/-- A block never used again. -/
def retireBlock (b : Nat) (x : Seed) : Seed :=
  if (blockAt x b).use_ = .retired then x
  else
    let x := moveOut b x
    readOnlyCheck (seedCount 4 (setBlock x b { blockAt x b with use_ := .retired, queued := false, pages := 0 }))

/-- A block erased: reads and age start again. -/
def eraseBlock (b : Nat) (x : Seed) : Seed :=
  let y := blockAt x b
  setBlock x b { y with erases := y.erases + 1, reads := 0, born := fmGet 0 x.aged (blockChannel b), use_ := .free, pages := 0, queued := false }

/-- A block's data rewritten elsewhere, then erased. A refresh for errors retires the block after a stripe rebuild, or when
its last one lies fewer than 1,000 erase cycles back. -/
def refreshBlock (b : Nat) (x : Seed) : Seed :=
  let y := blockAt x b
  if y.use_ ≠ .data then x
  else
    let again := y.queued && y.errAt ≠ 0 && y.erases < y.errAt - 1 + 1000
    if y.retire || again then retireBlock b x
    else
      let x := eraseBlock b (moveOut b x)
      readOnlyCheck (if y.queued then setBlock x b { blockAt x b with errAt := y.erases + 1 } else x)

/-- READ_DISTURB_REFRESH: 50,000 page reads since the erase; a block queued for its errors is refreshed likewise. -/
def disturbRefresh (b : Nat) (x : Seed) : Seed :=
  let y := blockAt x b
  if y.use_ ≠ .data then x
  else if 50000 ≤ y.reads then refreshBlock b (seedCount 5 x)
  else if y.queued then refreshBlock b x
  else x

/-- RETENTION_REFRESH: the block's equivalent age has reached 90 days. -/
def retentionRefresh (b : Nat) (x : Seed) : Seed :=
  if (blockAt x b).use_ ≠ .data || !oldBlock x b then x else refreshBlock b (seedCount 6 x)

/-- The listed TLC blocks of a channel. -/
def channelBlocks (x : Seed) (ch : Nat) : List (Nat × Block) :=
  x.blocks.filter (fun b => blockChannel b.1 = ch && b.1 % blocksPerChannel < tlcPerChannel && b.2.use_ ≠ .retired)

/-- STATIC_WEAR_LEVELLING: the spread of erase counts exceeds 200; the data of the least-erased block that holds some is
moved, and the block is free again. -/
def wearLevel (ch : Nat) (x : Seed) : Seed :=
  let bs := channelBlocks x ch
  let hi := (bs.map (·.2.erases)).foldl max 0
  let lo := if bs.length < tlcPerChannel then 0 else (bs.map (·.2.erases)).foldl min hi
  let least := (bs.filter (fun b => b.2.use_ = .data)).foldl (fun best b =>
    match best with
    | none => some b
    | some c => if b.2.erases < c.2.erases then some b else some c) none
  match least with
  | some b => if 200 < hi - lo then eraseBlock b.1 (moveOut b.1 x) else x
  | none => x

/-- DIE_FAILURE: the die's data is rebuilt from stripe parity into headroom, and the channel is degraded. -/
def dieFailure (ch die : Nat) (x : Seed) : Seed :=
  let k := 8 * ch + die
  if x.deadDies.contains k then x
  else
    let mine := (x.blocks.filter (fun b => blockChannel b.1 = ch && blockDie b.1 = die)).map (·.1)
    let x := mine.foldl (fun x b => setBlock (moveOut b x) b { blockAt x b with use_ := .free, pages := 0, queued := false }) x
    let dead := x.deadDies ++ [k]
    let all := (List.range 8).all (fun d => dead.contains (8 * ch + d))
    readOnlyCheck (failedCheck { x with deadDies := dead, channels := fmSet 0 x.channels ch (if all then 2 else 1) })

/-- The free block of a channel with the lowest erase count, the lowest number first; `fuel` bounds the search of the blocks
that nothing has used yet. -/
def freshBlock (x : Seed) (ch : Nat) : Nat → Nat → Option Nat
  | 0, _ => none
  | fuel + 1, i =>
    let b := ch * blocksPerChannel + i
    if tlcPerChannel ≤ i then none
    else if blockAt x b = blockReset && !blockDead x b then some b
    else freshBlock x ch fuel (i + 1)

def freeBlock (x : Seed) (ch : Nat) : Option Nat :=
  match freshBlock x ch tlcPerChannel 0 with
  | some b => some b
  | none =>
    ((channelBlocks x ch).filter (fun b => b.2.use_ = .free && !blockDead x b.1)).foldl (fun best b =>
      match best with
      | none => some b
      | some c => if b.2.erases < c.2.erases then some b else some c) none |>.map (·.1)

/-- The block that a channel fills, opened where none is (dynamic wear levelling). -/
def openBlock (ch : Nat) (x : Seed) : Seed × Option Nat :=
  match fmGet 0 x.open_ ch with
  | 0 =>
    (match freeBlock x ch with
      | none => (x, none)
      | some b => ({ setBlock x b { blockAt x b with use_ := .data } with open_ := fmSet 0 x.open_ ch (b + 1) }, some b))
  | b + 1 => (x, some b)

/-- A page of the stripe placed on a channel (none: the parity page). -/
def placePage (ch : Nat) (pg : Option Nat) (x : Seed) : Seed :=
  match openBlock ch x with
  | (x, none) => x
  | (x, some b) =>
    let y := blockAt x b
    let x := setBlock x b { y with pages := y.pages + 1 }
    let x := if y.pages + 1 = 2048 then { x with open_ := fmSet 0 x.open_ ch 0 } else x
    let x := { x with programmed := x.programmed + 16384 }
    match pg with
    | none => x
    | some pg => { x with loc := fmSet 0 x.loc pg (b + 1), staged := x.staged.filter (· ≠ pg) }

/-- FOLD of the oldest 31 staged pages with their parity, one page on each channel, the parity's place rotating (R311). A
program that fails retires the block it hit, on a channel that is free, and leaves the pages in staging. -/
def fold (failed : Bool) (fresh : Nat) (x : Seed) : Seed :=
  let data := x.staged.take 31
  let par := x.stripe % 32
  if x.status = 0 || x.status = 3 || data.length < 31 then x
  else if failed then
    match openBlock (Config.freeNat fresh % 32) x with
    | (x, none) => x
    | (x, some b) => retireBlock b x
  else
    let x := (List.range 32).foldl (fun x c =>
      if c = par then placePage c none x else placePage c data[if c < par then c else c - 1]? x) x
    { x with stripe := x.stripe + 1 }

/-- GARBAGE_COLLECTION: a closed TLC block of the channel with pages no longer valid is emptied and erased; which one the
manual leaves open. -/
def collect (ch fresh : Nat) (x : Seed) : Seed :=
  let bs := (channelBlocks x ch).filter (fun b =>
    b.2.use_ = .data && fmGet 0 x.open_ ch ≠ b.1 + 1 && (validPages x b.1).length < b.2.pages)
  match bs[Config.freeNat fresh % max 1 bs.length]? with
  | none => x
  | some b => eraseBlock b.1 (moveOut b.1 x)

/-- RETENTION_SCAN: one page of every block that holds data is read; the listed blocks' pages needed a retry level above 4,
and those blocks are refreshed (R325). -/
def retentionScan (blocks : List Nat) (x : Seed) : Seed :=
  let x := { x with blocks := x.blocks.map (fun b => (b.1, if b.2.use_ = .data then { b.2 with reads := b.2.reads + 1 } else b.2)) }
  (blocks.filter (fun b => (blockAt x b).use_ = .data)).foldl (fun x b =>
    refreshBlock b (seedCount 1 (setBlock x b { blockAt x b with queued := true }))) x

/-- CHANNEL_TRAINING: every 24 hours, as at a start (R308). A channel that does not train is not used. -/
def channelTraining (ch us : Nat) (ok : Bool) (x : Seed) : Seed :=
  if ok then { x with trainedAt := fmSet 0 x.trainedAt ch us }
  else failedCheck { x with channels := fmSet 0 x.channels ch 2 }

/-! ### Reads and writes (R317–R320) -/

/-- Bytes of a page delivered for one request: the lines recorded Poison as Poison, the others as data; all Poison for a
lost page (R317, R318). -/
def deliverPage (lost : Bool) (s : State) (r : SeedRead) : State :=
  let a := pageAddr r.ext r.page + r.off
  let step (s : State) (q : Nat × Nat) : State :=
    let bad := lost || fmGet false s.seed.poison (q.1 / 128)
    let k := q.1 - a
    let d : Dest := match r.dst with
      | .ls t o => ⟨0, lsDest t (o + k), r.cntTile, r.ac, 0⟩
      | .dm pa => ⟨1, pa + k, r.cntTile, r.ac, 0⟩
      | .seed e p o => ⟨2, e * 2 ^ 48 + p * 16384 + o + k, r.cntTile, r.ac, 0⟩
      | .win pb => ⟨3, pb + k, r.cntTile, r.ac, 0⟩
    let data := if bad then zeros q.2 else memRead s.seed.mem q.1 q.2
    deliver (noteSource s r.tile q.2 r.sac) r.part r.tile r.mover 4 data bad d
  (pieces 128 (r.len + 1) a r.len).foldl step s

/-- A page read by its outcome: the block's reads, retries, rebuilds and the lost mark (R317, R322). -/
def notePageRead (ext page : Nat) (o : PageOutcome) (x : Seed) : Seed :=
  let pg := pageNo ext page
  let b := fmGet 0 x.loc pg
  let block (f : Block → Block) (x : Seed) : Seed := if b = 0 then x else setBlock x (b - 1) (f (blockAt x (b - 1)))
  if !pageHeld x pg || fmGet false x.lost (pageAddr ext page / 16384) then x
  else
    let x := block (fun y => { y with reads := y.reads + 1 }) x
    match o with
    | .nominal => x
    | .retry n =>
      if n = 0 || 12 < n then x
      else seedCount 1 (if 4 < n then block (fun y => { y with queued := true }) x else x)
    | .rebuilt => seedCount 2 (block (fun y => { y with queued := true, retire := true }) x)
    | .lost =>
      let x := seedCount 3 { x with lost := fmSet false x.lost (pageAddr ext page / 16384) true }
      { x with lastPoison := natLe 2 ext ++ natLe 6 page }

/-- PAGE_READ: the read ends for every request that waits for the page. -/
def pageRead (ext page : Nat) (o : PageOutcome) (s : State) : State :=
  if s.seed.status = 0 || s.seed.status = 3 || (extentAt s ext).isNone then s
  else
    let s := updSeed s (notePageRead ext page o)
    let mine (r : SeedRead) : Bool := r.ext = ext && r.page = page
    let rs := s.seed.reads.filter mine
    let s := updSeed s (fun x => { x with reads := x.reads.filter (fun r => !mine r) })
    let lost := fmGet false s.seed.lost (pageAddr ext page / 16384)
    rs.foldl (deliverPage lost) s

/-- The mover's reply for a page: counted, or refused with ERR (R215, R320). -/
def pageReply (w : SeedWrite) (refused : Bool) (s : State) : State :=
  let key := keyPage w.ext w.page
  let s := updTile s w.by_.1 (fun y => reply w.by_.2 key (if refused then setErr w.by_.2 y else y))
  if refused || !decide (w.cntTile < nTiles) then s else updTile s w.cntTile (acAdd s.cycle (w.ac % 64) 16384)

/-- Pages that staging holds (R310). -/
def stagingPages : Nat := 341 * 2 ^ 16

/-- A staging block of a free channel retired after a program that failed (R322, R333). -/
def retireStaging (fresh : Nat) (x : Seed) : Seed :=
  let lo := Config.freeNat fresh % 32 * blocksPerChannel + tlcPerChannel
  match (List.range (blocksPerChannel - tlcPerChannel)).find? (fun i => (blockAt x (lo + i)).use_ ≠ .retired) with
  | some i => retireBlock (lo + i) x
  | none => x

/-- PAGE_WRITE: the oldest write of the page whose bytes have all come (R319, R320, R333). With every package too hot to
program, or with staging full, writes wait (R310, R453). -/
def pageWrite (ext page : Nat) (failed : Bool) (s : State) : State :=
  match s.seed.writes.find? (fun w => w.ext = ext && w.page = page && w.left = 0) with
  | none => s
  | some w =>
    if s.seed.status = 0 || s.seed.status = 3 || s.gov.nandStop = 0xFFFFFFFF || stagingPages ≤ s.seed.staged.length then s
    else if failed then
      updSeed { s with fresh := s.fresh + 1 } (fun x => retireStaging s.fresh { x with programmed := x.programmed + 16384 })
    else
      let s := updSeed s (fun x => { x with writes := x.writes.erase w })
      if s.seed.status = 2 then pageReply w true s
      else if (extentAt s ext).isNone then s
      else
        pageReply w false (updSeed s (fun x => readOnlyCheck (noteWritten ext 16384 (writePage ext page w.data w.poison x))))

/-- Background work of the Seedbank: paused while the Husk is throttled, and while a channel whose package is too hot would
be programmed (R453). -/
def background (s : State) (channels : Nat) (f : Seed → Seed) : State :=
  if s.seed.status = 0 || s.seed.status = 3 || s.gov.huskThrottle || s.gov.nandStop.toNat &&& channels ≠ 0 then s
  else updSeed s f

/-! ### Extents (R312–R316) -/

/-- Bytes 0 to 15 of an extent command. -/
def extOp (c : List Byte) : Nat := leAt c 0 1
def extPart (c : List Byte) : Nat := leAt c 1 1
def extNo (c : List Byte) : Nat := leAt c 2 2
def extSize (c : List Byte) : Nat := leAt c 4 4

/-- A range of any partition maps the extent. -/
def extMapped (s : State) (n : Nat) : Bool :=
  s.xl.any (fun x => x.2.table.any (fun e => rTarget e.2 = 1 && pbExtent (rPbase e.2) = n))

/-- The lowest free extent number. -/
def freeExtent (s : State) : Option Nat := (List.range 4096).find? (fun n => n ≠ 0 && (extentAt s n).isNone)

/-- A result reported (0x5020:02). -/
def extResult (r : Nat) (s : State) : State := updSeed s (fun x => { x with result := r })

/-- CREATE. The key is drawn from the hardware random source: its number stands for it. -/
def extCreate (c : List Byte) (s : State) : State :=
  let p := extPart c
  let size := extSize c
  if size = 0 || 98304 < size || extNo c ≠ 0 || leAt c 8 8 ≠ 0 then extResult 0x01 s
  else if 32 ≤ p || !partExists s p then extResult 0x06 s
  else if 98304 < allocated s.seed + size then extResult 0x02 s
  else match freeExtent s with
    | none => extResult 0x03 s
    | some n =>
      let (s, k) := draw s
      extResult (n * 2 ^ 16) (updSeed s (fun x =>
        readOnlyCheck { x with extents := fmSet none x.extents n (some ⟨p, size, k, 0⟩) }))

/-- Everything of an extent gone: its key, its pages, its capacity. -/
def dropExtent (n : Nat) (x : Seed) : Seed :=
  let pages := (x.loc.map (·.1) ++ x.staged).filter (fun pg => pg / 2 ^ 34 = n)
  let x := pages.foldl (fun x pg => trimPage pg x) x
  readOnlyCheck { x with extents := fmSet none x.extents n none,
                         mem := x.mem.filter (fun m => m.1 / 2 ^ 48 ≠ n),
                         poison := x.poison.filter (fun m => m.1 / 2 ^ 41 ≠ n),
                         lost := x.lost.filter (fun m => m.1 / 2 ^ 34 ≠ n) }

/-- DELETE. -/
def extDelete (c : List Byte) (s : State) : State :=
  let n := extNo c
  if n = 0 || (extentAt s n).isNone || extPart c ≠ 0 || leAt c 4 12 ≠ 0 then extResult 0x01 s
  else if extMapped s n then extResult 0x04 s
  else extResult 0 (updSeed s (dropExtent n))

/-- ATTACH. -/
def extAttach (c : List Byte) (s : State) : State :=
  let n := extNo c
  let p := extPart c
  match extentAt s n with
  | none => extResult 0x01 s
  | some x =>
    if n = 0 || leAt c 4 12 ≠ 0 then extResult 0x01 s
    else if 32 ≤ p || !partExists s p then extResult 0x06 s
    else if x.owner ≠ 0xFE then extResult 0x05 s
    else extResult 0 (updSeed s (fun y => { y with extents := fmSet none y.extents n (some { x with owner := p }) }))

/-- A write of 0x5020:01 with operation `op`; a code that no command has gives 0x01. -/
def extentCmd (op : Nat) (c : List Byte) (s : State) : State :=
  if c.length ≠ 16 || s.seed.status = 0 || s.seed.status = 3 then s
  else if extOp c = 0 || 3 < extOp c then extResult 0x01 s
  else if extOp c ≠ op then s
  else if op = 1 then extCreate c s
  else if op = 2 then extDelete c s
  else extAttach c s

/-- Lengths of intervals, each byte counted once. -/
def insertSpan (x : Nat × Nat) : List (Nat × Nat) → List (Nat × Nat)
  | [] => [x]
  | y :: ys => if x.1 ≤ y.1 then x :: y :: ys else y :: insertSpan x ys

def unionLen (xs : List (Nat × Nat)) : Nat :=
  ((xs.foldl (fun acc x => insertSpan x acc) []).foldl (fun (acc : Nat × Nat) x =>
    (max acc.1 x.2, acc.2 + (x.2 - max acc.1 x.1))) (0, 0)).2

/-- Bytes of an extent that ranges map. -/
def mappedBytes (s : State) (n : Nat) : Nat :=
  let es := s.xl.flatMap (fun x => x.2.table.map (·.2))
  let mine := es.filter (fun e => rTarget e = 1 && pbExtent (rPbase e) = n)
  unionLen (mine.map (fun e => (pbSbOff (rPbase e), pbSbOff (rPbase e) + rLen e * 4096)))

/-- The record of an extent (0x5021:02). -/
def extentRecord (s : State) (n : Nat) : List Byte :=
  match extentAt s n with
  | none => []
  | some x =>
    natLe 2 n ++ natLe 1 x.owner ++ zeros 1 ++ natLe 4 x.size ++ natLe 8 (mappedBytes s n) ++ natLe 8 x.written ++
    natLe 8 (writable s.seed x.size)

/-- SEEDBANK_READY: the channels trained, both copies of the metadata read (R331). -/
def seedbankReady (s : State) : State :=
  if s.boot.running.isNone || s.seed.status ≠ 0 then s
  else if (List.range 32).all (fun c => fmGet 0 s.seed.channels c = 2) then updSeed s failedCheck
  else
    let s := updSeed s (fun x => readOnlyCheck { x with status := 1 })
    { s with boot := { s.boot with ready := s.boot.ready ||| 0x2#32 } }

end Sys2Proof.Machine
end

