-- ==== Sys2Proof/Machine/Graft.lean ====
section
/-!
DEFINITION. The test of Graft at a start (R336–R361), the training of Espalier's FIFOs (R188–R192), and bundles that fail in
service (R347, R362).
-/

namespace Sys2Proof.Machine

/-- A wire position of a bundle-direction. -/
abbrev WirePos := Nat × Nat × Nat × Nat

/-- Bundles of a link, crossings of a seam (R338, R341). -/
def bundleCount (l : Nat) : Nat := if l < 4 then 64 else 8
def crossings (l : Nat) : Nat := if l < 2 then 24 else 22

/-! ### Capability exchange (R357–R360) -/

/-- The Husk's record; its die revision is fused. -/
def huskRecord : List Byte := [4, BitVec.ofNat 8 (Config.fused 3), 1, 0, 3, 0, 0, 0]

/-- The record of a die that can be used: it answered, with the Husk's MAJOR. -/
def dieRecord (x : GraftResults) (d : Nat) : Option (List Byte) :=
  match x.records.find? (fun r => r.1 = d) with
  | some (_, r) => if r.length = 8 && leAt r 2 1 = 1 then some r else none
  | none => none

/-- FEATURES in use: what every usable die and the Husk report. -/
def features (x : GraftResults) : Nat :=
  (List.range 4).foldl (fun f d => match dieRecord x d with
    | some r => f &&& leAt r 4 4
    | none => f) 3

/-- MINOR in use. -/
def minorOf (x : GraftResults) : Nat :=
  (List.range 4).foldl (fun v d => match dieRecord x d with
    | some r => min v (leAt r 3 1)
    | none => v) 0

/-- Entry 0x7020 after the exchange: 1 Husk, 2 to 5 the dies, 6 the record in use. -/
def capRecords (x : GraftResults) : FMap (List Byte) :=
  let dies := (List.range 4).foldl (fun m d => match x.records.find? (fun r => r.1 = d) with
    | some (_, r) => fmSet [] m (2 + d) r
    | none => m) (fmSet [] [] 1 huskRecord)
  fmSet [] dies 6 ([0xFF, BitVec.ofNat 8 (Config.fused 3), 1, BitVec.ofNat 8 (minorOf x)] ++ natLe 4 (features x))

/-! ### Positions and spares (R348, R349, R353) -/

/-- Positions that fail the pattern test of this start: those of the records are not retested. -/
def failedNow (s : State) (x : GraftResults) : List WirePos :=
  (x.weak.filter (fun w => w.2.2.2.2 = 0)).map (fun w => (w.1, w.2.1, w.2.2.1, w.2.2.2.1))
    |>.filter (fun w => !s.graft.testRec.contains w && !s.graft.fieldRec.contains w)

/-- Every bad position. -/
def badAll (s : State) (x : GraftResults) : List WirePos := s.graft.testRec ++ s.graft.fieldRec ++ failedNow s x

/-- Spares of one direction assigned: from its bad positions and its marginal ones with their margins, the positions
replaced (ascending), the bad-spare mask, marginal positions in use, and whether the direction fails. -/
def assignSpares (bad : List Nat) (marginal : List (Nat × Nat)) : List Nat × Nat × Nat × Bool :=
  let isBad (i : Nat) : Bool := bad.contains i
  let isMarg (i : Nat) : Bool := !isBad i && marginal.any (fun m => m.1 = i)
  let spares := (List.range 8).map (136 + ·)
  let good := spares.filter (fun i => !isBad i && !isMarg i)
  let order := good ++ spares.filter isMarg
  let need := (List.range 136).filter isBad
  let weak := (marginal.filter (fun m => m.1 < 136 && !isBad m.1)).foldl (fun acc m => insertSpan (m.2, m.1) acc) []
  let take := need ++ (weak.map (·.2))
  let used := take.take order.length
  let repl := (List.range 136).filter used.contains
  let mask := (List.range 8).foldl (fun v k => if isBad (136 + k) then v + 2 ^ k else v) 0
  let left := ((List.range 136).filter (fun i => isMarg i && !used.contains i)).length +
    ((order.take used.length).filter isMarg).length
  (repl, mask, left, decide (order.length < need.length))

/-- The cause of a bundle's failures (R355): 1 interconnect, 2 side of the first-named die, 3 of the second. -/
def causeOf (x : GraftResults) (l b : Nat) (failed : List WirePos) : Nat :=
  match failed.find? (fun w => w.1 = l && w.2.1 = b) with
  | none => 0
  | some w =>
    if !(features x).testBit 1 then 1
    else match x.loopback.find? (fun r => (r.1, r.2.1, r.2.2.1, r.2.2.2.1) = w) with
      | some (_, _, _, _, a, c) => if a then 2 else if c then 3 else 1
      | none => 1

/-- A bundle after the test, before it has a role. -/
def testBundle (s : State) (x : GraftResults) (l b : Nat) : Bundle :=
  let bad := badAll s x
  let failed := failedNow s x
  let old := bundleAt s l b
  let dirBad (d : Nat) : List Nat := (bad.filter (fun w => w.1 = l && w.2.1 = b && w.2.2.1 = d)).map (·.2.2.2)
  let dirMarg (d : Nat) : List (Nat × Nat) :=
    (x.weak.filter (fun w => w.1 = l && w.2.1 = b && w.2.2.1 = d && 1 ≤ w.2.2.2.2 && w.2.2.2.2 < 8)).map
      (fun w => (w.2.2.2.1, w.2.2.2.2))
  let a := assignSpares (dirBad 0) (dirMarg 0)
  let c := assignSpares (dirBad 1) (dirMarg 1)
  let clock := x.clockBad.any (fun k => k.1 = l && k.2.1 = b)
  let passes := !failed.any (fun w => w.1 = l && w.2.1 = b)
  { bundleReset with
    role := if a.2.2.2 || c.2.2.2 || clock then 3 else 4,
    spares := !a.1.isEmpty || !c.1.isEmpty, marginal := a.2.2.1 + c.2.2.1 ≠ 0, unstable := old.unstable && !passes,
    spareClk := x.spareClock.contains (l, b), cause := causeOf x l b failed, repl0 := a.1, badsp0 := a.2.1, marg0 := a.2.2.1,
    repl1 := c.1, badsp1 := c.2.1, marg1 := c.2.2.1 }

/-! ### Roles (R340–R345, R356, R357) -/

/-- Row bundles that the crossings take. -/
def rowNeed (classes : List Nat) : Nat :=
  (2 * (classes.filter (· = 3)).length) + (classes.filter (· = 2)).length + ((classes.filter (· = 1)).length + 1) / 2

/-- The highest-numbered crossing of a class. -/
def topCrossing (cls : Nat) (classes : List Nat) : Option Nat :=
  ((classes.zipIdx.filter (fun x => x.1 = cls)).map (·.2)).getLast?

/-- One bundle saved by lowering crossings (R356). -/
def lowerOnce (classes : List Nat) : List Nat :=
  match topCrossing 3 classes with
  | some i => setAt i 2 classes
  | none =>
    let twos := (classes.zipIdx.filter (fun x => x.1 = 2)).map (·.2)
    if 2 ≤ twos.length then
      (twos.drop (twos.length - 2)).foldl (fun c i => setAt i 1 c) classes
    else
      match (classes.zipIdx.filter (fun x => x.1 ≠ 0)).getLast? with
      | none => classes
      | some (2, i) => setAt i 0 classes
      | some (_, i) => setAt (i / 2 * 2) 0 (setAt (i / 2 * 2 + 1) 0 classes)

def lower : Nat → List Nat → List Nat
  | 0, c => c
  | n + 1, c => lower n (lowerOnce c)

/-- Row bundles in order given to the crossings: (bundle, crossing, class). -/
def giveRows (ws : List Nat) : List (Nat × Nat) → List (Nat × Nat × Nat)
  | [] => []
  | (cls, i) :: rest =>
    if cls = 3 then (ws.take 2).map (fun b => (b, i, 3)) ++ giveRows (ws.drop 2) rest
    else if cls = 2 then (ws.take 1).map (fun b => (b, i, 2)) ++ giveRows (ws.drop 1) rest
    else if cls = 1 then
      if i % 2 = 0 then (ws.take 1).map (fun b => (b, i, 1)) ++ giveRows (ws.drop 1) rest else giveRows ws rest
    else giveRows ws rest

/-- The profile that a link runs (R344, R360): 0 Balanced, 1 Memory-heavy, 2 Row-heavy. -/
def profileOf (s : State) (x : GraftResults) (l : Nat) : Nat :=
  let p := dictNat s 0x7010 (l + 1) 0
  if p = 2 && !(features x).testBit 0 then 0 else p

/-- Seam class of a profile (R343). -/
def profileClass (p : Nat) : Nat := if p = 1 then 1 else if p = 2 then 3 else 2

/-- Classes of a pair link's crossings, and its coherence bundles, with `w` bundles working (R356). -/
def linkClasses (l p w : Nat) : List Nat × Nat :=
  let x := crossings l
  let full := List.replicate x (profileClass p)
  let m := 64 - rowNeed full - 8
  let lost := 64 - w
  let t1 := min lost (m - 4)
  let t2 := min (lost - t1) 6
  (lower (lost - t1 - t2) full, 8 - t2)

/-- A pair link's bundles with their roles, and its seam classes. -/
def assignLink (s : State) (x : GraftResults) (l : Nat) : State :=
  let p := profileOf s x l
  let s := (List.range 64).foldl (fun s b => updBundle s l b (fun _ => testBundle s x l b)) s
  let ws := (List.range 64).filter (fun b => (bundleAt s l b).role ≠ 3)
  let (classes, coh) := linkClasses l p ws.length
  let rows := giveRows ws classes.zipIdx
  let rest := ws.drop (rowNeed classes)
  let mem := rest.take (rest.length - coh)
  let s := rest.foldl (fun s b => updBundle s l b (fun y => { y with role := if mem.contains b then 1 else 2 })) s
  let s := rows.foldl (fun s r => updBundle s l r.1 (fun y => { y with role := 0, cross := r.2.1, class_ := r.2.2 })) s
  let seams := classes.zipIdx.foldl (fun m c => fmSet 0 m (32 * l + c.2) c.1) s.esp.seams
  { s with esp := { s.esp with seams := seams }, graft := { s.graft with profile := fmSet 0 s.graft.profile l p } }

/-- A Husk link's bundles (R345, R357): memory bundles go first, down to 1, then coherence bundles, down to 1. -/
def assignHusk (s : State) (x : GraftResults) (l : Nat) : State :=
  let s := (List.range 8).foldl (fun s b => updBundle s l b (fun _ => testBundle s x l b)) s
  let ws := (List.range 8).filter (fun b => (bundleAt s l b).role ≠ 3)
  let lost := 8 - ws.length
  let coh := 2 - min 1 (lost - min lost 5)
  let mem := ws.take (ws.length - coh)
  ws.foldl (fun s b => updBundle s l b (fun y => { y with role := if mem.contains b then 1 else 2 })) s

/-- A Hazel die is unusable: no answer with the Husk's MAJOR, too few bundles on its Husk link, or fewer than 6 working
wires in a direction of its control group (R339, R357, R359). -/
def dieUnusable (s : State) (x : GraftResults) (d : Nat) : Bool :=
  let ws := (List.range 8).filter (fun b => (bundleAt s (4 + d) b).role ≠ 3)
  (dieRecord x d).isNone || ws.length < 2 || x.control.any (fun c => c.1 / 2 = d && c.2 < 6)

/-- The two tiles at the ends of a crossing. -/
def crossingTiles (l i : Nat) : List Nat :=
  if l = 0 then [i * nCols + 21, i * nCols + 22]
  else if l = 1 then [(24 + i) * nCols + 21, (24 + i) * nCols + 22]
  else if l = 2 then [23 * nCols + i, 24 * nCols + i]
  else [23 * nCols + 22 + i, 24 * nCols + 22 + i]

/-- Tiles of class 0 crossings are set to RouterFault (R188). -/
def faultSeams (s : State) : State :=
  (List.range 4).foldl (fun s l => (List.range (crossings l)).foldl (fun s i =>
    if seamClass s (l, i) = 0 then
      (crossingTiles l i).foldl faultAt s
    else s) s) s

/-- The test of Graft at a start, whole (R352). -/
def graftTest (x : GraftResults) (s : State) : State :=
  let failed := failedNow s x
  let again := failed.filter s.graft.lastFail.contains
  let s0 := { s with graft := { s.graft with caps := capRecords x } }
  let s1 := (List.range 4).foldl (fun s l => assignLink s x l) s0
  let s2 := (List.range 4).foldl (fun s d => assignHusk s x (4 + d)) s1
  let bad := (List.range 4).foldl (fun v d => if dieUnusable s2 x d then v + 2 ^ d else v) 0
  let g := { s2.graft with unusable := BitVec.ofNat 4 bad, fieldRec := s2.graft.fieldRec ++ again, lastFail := failed, tested := true }
  let s3 := faultSeams { s2 with graft := g, boot := { s2.boot with ready := if bad = 0 then s2.boot.ready ||| 0x10#32 else s2.boot.ready } }
  if dictNat s3 0x7160 1 0 = 0 then s3 else dictPut s3 0x7160 1 [0]

/-! ### Records (R361) -/

/-- The 32 bytes of a bundle record. -/
def bundleRecord (b : Bundle) : List Byte :=
  let flags := bnat b.spares + 2 * bnat b.marginal + 4 * bnat b.unstable + 8 * bnat b.spareClk + 32 * b.cause
  let list (xs : List Nat) : List Byte := fit 0xFF 8 (xs.map (BitVec.ofNat 8))
  natLe 1 b.role ++ natLe 1 flags ++ natLe 1 b.cross ++ natLe 1 b.class_ ++ list b.repl0 ++ natLe 1 b.badsp0 ++ natLe 1 b.marg0 ++
  list b.repl1 ++ natLe 1 b.badsp1 ++ natLe 1 b.marg1 ++ natLe 2 (capAt 65535 b.err0) ++ natLe 2 (capAt 65535 b.err1) ++ zeros 4

/-- Entry 0x7140 of a link: empty before a test. -/
def linkRecords (s : State) (l : Nat) : List Byte :=
  if !s.graft.tested then [] else (List.range (bundleCount l)).flatMap (fun b => bundleRecord (bundleAt s l b))

/-- Entry 0x7141 of a link. -/
def linkCounts (s : State) (l : Nat) : Nat :=
  let n (role : Nat) : Nat := ((List.range (bundleCount l)).filter (fun b => (bundleAt s l b).role = role)).length
  if !s.graft.tested then 0 else n 3 * 2 ^ 24 + n 2 * 2 ^ 16 + n 1 * 2 ^ 8 + n 0

/-- The record of a bundle from a list of bad positions, with a role (0x7142, 0x7143). -/
def recordFrom (ws : List WirePos) (l b role : Nat) : List Byte :=
  let dir (d : Nat) : List Nat × Nat × Nat × Bool :=
    assignSpares ((ws.filter (fun w => w.1 = l && w.2.1 = b && w.2.2.1 = d)).map (·.2.2.2)) []
  bundleRecord { bundleReset with role := role, repl0 := (dir 0).1, badsp0 := (dir 0).2.1, repl1 := (dir 1).1, badsp1 := (dir 1).2.1 }

/-- Role of a bundle in the Balanced assignment with every bundle working (R343, R345). -/
def balancedRole (l b : Nat) : Nat :=
  if l < 4 then (if b < crossings l then 0 else if b < 56 then 1 else 2) else (if b < 6 then 1 else 2)

def testRecord (s : State) (l : Nat) : List Byte :=
  (List.range (bundleCount l)).flatMap (fun b => recordFrom s.graft.testRec l b (balancedRole l b))

def fieldRecord (s : State) (l : Nat) : List Byte :=
  if s.graft.fieldRec.any (fun w => w.1 = l) then
    (List.range (bundleCount l)).flatMap (fun b => recordFrom s.graft.fieldRec l b 4)
  else []

/-- ESP_STATUS.SEAM_DEGRADED (R201, R356). -/
def seamDegraded (s : State) : Nat :=
  (List.range 4).foldl (fun v l =>
    let want := profileClass (fmGet 0 s.graft.profile l)
    if s.graft.tested && (List.range (crossings l)).any (fun i => seamClass s (l, i) < want) then v + 2 ^ l else v) 0

/-! ### FIFO training (R189–R192) -/

/-- Receiving inputs of a tile's FIFOs, with the design latency: region boundaries inside a die, and seams. DESIGN CHOICE (log entry 100):
logical columns stand for the physical ones. -/
def fifoInputs (t : Nat) : List (Nat × Nat) :=
  let r := rowOf t % 24
  let c := colOf t % 22
  let north : Bool := r = 8 || r = 16
  let south : Bool := r = 7 || r = 15
  let west : Bool := c = 8 || c = 16
  let east : Bool := c = 7 || c = 15
  let seamN : Bool := rowOf t = 24
  let seamS : Bool := rowOf t = 23
  let seamW : Bool := colOf t = 22
  let seamE : Bool := colOf t = 21
  let inner := [north, east, south, west]
  let seam := [seamN, seamE, seamS, seamW]
  (List.range 12).filterMap (fun i =>
    if inner.getD (i % 4) false then some (i, 2)
    else if i < 8 && seam.getD (i % 4) false then some (i, 6)
    else none)

/-- The tile whose flits enter a FIFO. -/
def fifoSender (t i : Nat) : Nat :=
  if i % 4 = 0 then t - nCols else if i % 4 = 1 then t + 1 else if i % 4 = 2 then t + nCols else t - 1

/-- The smallest depth from 2 to 8 with at least 8/64 cycle of margin, among depths with their margins (R190). -/
def smallestDepth (xs : List (Nat × Nat)) : Option (Nat × Nat) :=
  xs.foldl (fun best x =>
    if x.1 < 2 || 8 < x.1 || x.2 < 8 then best
    else if best.any (fun b => b.1 ≤ x.1) then best else some x) none

/-- Depth and margin of a FIFO at a point: chosen among what the test names, free where it names nothing, none where no depth trains. -/
def trainAt (k : Nat) (x : StartResults) (t i p : Nat) : Option (Nat × Nat) :=
  if x.fifoFail.contains (t, i) then none
  else
    let named := (x.fifo.filter (fun r => r.1 = t && r.2.1 = i && r.2.2.1 = p)).map (·.2.2.2)
    if named.isEmpty then some (2 + Config.freeNat (k + p) % 7, 8 + Config.freeNat (k + 8 + p) % 56) else smallestDepth named

/-- A FIFO trained at every point, or failed; a class 1 seam lane is unused (R188, R190, R191). -/
def trainFifo (s : State) (x : StartResults) (t i lat : Nat) : Fifo :=
  let points := (List.range 8).map (trainAt (s.fresh + 16 * (12 * t + i)) x t i)
  if lat = 6 && 4 ≤ i && seamClass s (crossing t (fifoSender t i)) ≤ 1 then ⟨t, i, 1, 0, 0, []⟩
  else if points.any (·.isNone) then ⟨t, i, 2, 0, 0, []⟩
  else
    let ps := points.filterMap id
    ⟨t, i, 0, lat, ps.foldl (fun m q => min m q.2) 255, ps.map (·.1)⟩

/-- The FIFOs of a die, in ascending order of tile and input. -/
def trainDie (s : State) (x : StartResults) (d : Nat) : List Fifo :=
  ((List.range nTiles).filter (fun t => dieOf t = d)).flatMap (fun t => (fifoInputs t).map (fun i => trainFifo s x t i.1 i.2))

/-- The record of a FIFO in entry 0x7120: the depth in force is that of the point in force (R192, R446). -/
def fifoRecord (point : Nat) (f : Fifo) : List Byte :=
  natLe 2 f.tile ++ natLe 1 f.input ++ natLe 1 (f.depths.getD point 0) ++ natLe 1 f.status ++ natLe 1 f.latency ++ natLe 1 f.margin ++ [0]

/-- Depths that differ between two starts, over every point. -/
def depthChanges (old new : List Fifo) : Nat :=
  ((List.zip old new).map (fun x => ((List.range 8).filter (fun p => x.1.depths.getD p 0 ≠ x.2.depths.getD p 0)).length)).sum

/-- Training of every FIFO (R190–R192): a failed one sets its receiving tile to RouterFault, and its sender across a seam. The order,
Twig's first, leaves no other trace. -/
def fifoTraining (x : StartResults) (s : State) : State :=
  let new := (List.range 4).map (fun d => (d, trainDie s x d))
  let changed := (new.map (fun y => depthChanges (fmGet [] s.esp.fifoOld y.1) y.2)).sum
  let maps := new.foldl (fun m y => fmSet [] m y.1 y.2) []
  let s := { s with fresh := s.fresh + 524288,
                    esp := { s.esp with fifo := maps, fifoOld := maps, fifoChanged := s.esp.fifoChanged + changed, trained := true } }
  ((new.flatMap (·.2)).filter (fun f => f.status = 2)).foldl (fun s f =>
    let s := faultAt s f.tile
    if crosses f.tile (fifoSender f.tile f.input) then faultAt s (fifoSender f.tile f.input) else s) s

/-! ### In service -/

/-- UNSTABLE: a direction's failed checks of the present second exceed the threshold of 0x7150 (R347). -/
def unstable (l b : Nat) (s : State) : State :=
  let y := bundleAt s l b
  let thr := dictNat s 0x7150 0 16
  if b < bundleCount l && (thr < y.sec0 || thr < y.sec1) then
    let s := updBundle s l b (fun y => { y with unstable := true })
    { s with graft := { s.graft with event := true } }
  else s

/-- BUNDLE_CLOCK_FAILURE: the last clock wire of a direction fails (R362). -/
def clockFailure (l b : Nat) (dir : Bool) (s : State) : State :=
  if b < bundleCount l then
    updBundle s l b (fun y => if dir then { y with dead1 := true } else { y with dead0 := true })
  else s

end Sys2Proof.Machine
end

