-- ==== Sys2Proof/Machine/Doors.lean ====
section
/-!
DEFINITION. The two doors of a partition (R391–R394, R409–R415): frames of the service ports, rings of the queue pairs,
the Colqua header, and the messages that the module sends.
-/

namespace Sys2Proof.Machine

/-! ### Sending -/

/-- A queue pair. -/
def qpAt (s : State) (p q : Nat) : Qp := fmGet qpReset (partAt s p).qps q

def updQp (s : State) (p q : Nat) (f : Qp → Qp) : State := updPart s p (fun x => { x with qps := fmUpd qpReset x.qps q f })

/-- Fields of QP_CTRL (R410). -/
def qpEnable (x : Qp) : Bool := x.ctrl.toNat.testBit 31
def qpRqLog (x : Qp) : Nat := field x.ctrl.toNat 24 20
def qpSqLog (x : Qp) : Nat := field x.ctrl.toNat 19 16
def qpWeight (x : Qp) : Nat := field x.ctrl.toNat 7 0

/-- Host address of a ring (R410). -/
def ringBase (lo hi : BitVec 32) : Nat := hi.toNat * 2 ^ 32 + lo.toNat / 4096 * 4096

/-- The PCIe link carries transactions (R535). -/
def pcieUp (s : State) : Bool := s.boot.ready.toNat.testBit 9

/-- A message put on the outside. -/
def emit (s : State) (o : Output) : State := { s with out := s.out ++ [o] }

/-- The response ring advances by a record of `n` bytes: its host writes, QP_RQ_TAIL, the pair's vector (R411). -/
def ringPut (s : State) (p q n : Nat) (bytes : List Byte) : State :=
  let x := qpAt s p q
  let at_ := ringBase x.rqLo x.rqHi + x.rqTail % 2 ^ qpRqLog x
  let s := updQp s p q (fun x => { x with rqTail := (x.rqTail + n) % 2 ^ 32 })
  raiseMsix (1 + p) q (emit s (.hostWrite (1 + p) at_ bytes))

/-- Waiting responses of a pair written as records while the ring has room: prefix, message, padding to 64 bytes; a filler
prefix before the end of the ring where a record would wrap (R411). A write that the link cannot carry sets DMAERR and
discards the message. -/
def drainQp (p q : Nat) : Nat → State → State
  | 0, s => s
  | fuel + 1, s =>
    let x := qpAt s p q
    match x.held with
    | [] => s
    | m :: rest =>
      let size := 2 ^ qpRqLog x
      let n := (m.length + 8 + 63) / 64 * 64
      let left := size - x.rqTail % size
      let used := (x.rqTail + 2 ^ 32 - x.rqHead) % 2 ^ 32
      if !qpEnable x then s
      else if !pcieUp s then drainQp p q fuel (updQp s p q (fun x => { x with held := rest, dmaErr := true }))
      else if left < n then (if size < used + left then s else drainQp p q fuel (ringPut s p q left (zeros 8)))
      else if size < used + n then s
      else
        drainQp p q fuel (ringPut (updQp s p q (fun x => { x with held := rest })) p q n
          (natLe 2 m.length ++ zeros 6 ++ fit 0 (n - 8) m))

/-- A pair's responses go as far as the ring has room. -/
def drainPair (s : State) (p q : Nat) : State := drainQp p q (2 * (qpAt s p q).held.length + 2) s

/-- Message types of R393. -/
def mAccept : Nat := 0x10
def mTokens : Nat := 0x11
def mResult : Nat := 0x12
def mEnd : Nat := 0x13
def mReject : Nat := 0x14
def mPong : Nat := 0x1F

/-- A Colqua message (R393). -/
def colqua (type part session reqId seq : Nat) (body : List Byte) : List Byte :=
  natLe 2 0xC0A1 ++ natLe 1 1 ++ natLe 1 type ++ natLe 1 part ++ zeros 1 ++ natLe 2 body.length ++ natLe 4 session ++
  natLe 8 reqId ++ natLe 4 seq ++ zeros 8 ++ body

/-- Where an answer goes: queue pair or service port, client address and port, link-local, VLAN. -/
structure Door where
  queue : Nat
  port : Nat
  src : List Byte
  sport : Nat
  linkLocal : Bool
  vlan : Nat
  deriving DecidableEq, Repr

def doorOf (r : Req) : Door := ⟨r.queue, r.port, r.src, r.sport, r.linkLocal, r.vlan⟩
def doorOfMsg (m : InMsg) : Door := ⟨m.queue, m.port, m.src, m.sport, m.linkLocal, m.vlan⟩

/-- What a service port sends, with the copies of its mirrors. -/
def emitPort (s : State) (n : Nat) (o : Nat → Output) : State := (n :: mirrorsOf s n 1).foldl (fun s m => emit s (o m)) s

/-- A message of partition `p` out through the door that its request came by (R394, R411). -/
def sendOut (s : State) (p : Nat) (d : Door) (msg : List Byte) : State :=
  if d.queue < 16 then drainPair (updQp s p d.queue (fun x => { x with held := x.held ++ [msg] })) p d.queue
  else emitPort s d.port (fun n => .datagram n d.src d.sport d.vlan d.linkLocal msg)

/-- Body bytes that one message on a door may carry (R393, R411). -/
def bodyMax (s : State) (p : Nat) (d : Door) : Nat :=
  if d.queue < 16 then min 9150 (2 ^ qpRqLog (qpAt s p d.queue) - 64) - 32 else 9118

/-- The partition that a request's client knows, and its session there: those of the primary for a rerouted request. -/
def clientSide (p : Nat) (r : Req) : Nat × Nat := r.home.getD (p, r.session)

/-- A message of a request in partition `p`, and the request with its next SEQ (R394, R415). -/
def answer (s : State) (p : Nat) (r : Req) (type : Nat) (body : List Byte) : State × Req :=
  let c := clientSide p r
  (sendOut s c.1 (doorOf r) (colqua type c.1 c.2 r.reqId r.sendSeq body), { r with sendSeq := r.sendSeq + 1 })

/-- A response ring that holds responses back stops its requests from being stepped (R427). -/
def ringFull (s : State) (p : Nat) (r : Req) : Bool := r.queue < 16 && !(qpAt s (clientSide p r).1 r.queue).held.isEmpty

/-! ### Receiving -/

/-- The Colqua header is one that a client may send (R392 step 5, R393). -/
def colquaOk (m : List Byte) : Bool :=
  32 ≤ m.length && leAt m 0 2 = 0xC0A1 && leAt m 2 1 = 1 && [1, 2, 3, 15].contains (leAt m 3 1) && leAt m 4 1 < 32 &&
  leAt m 5 1 = 0 && leAt m 6 2 = m.length - 32 && leAt m 8 4 < 2 ^ 20 && leAt m 24 8 = 0

/-- A message that came through a door in µs `us`. -/
def inMsg (us : Nat) (d : Door) (m : List Byte) : InMsg :=
  { stamp := us, part := leAt m 4 1, queue := d.queue, port := d.port, src := d.src, sport := d.sport,
    linkLocal := d.linkLocal, vlan := d.vlan, type := leAt m 3 1, session := leAt m 8 4, reqId := leAt m 12 8,
    seq := leAt m 20 4, body := m.drop 32 }

/-- A frame counted under a discard reason (R392). -/
def discardFrame (n reason : Nat) (s : State) : State :=
  { s with coppice := fmUpd portUnset s.coppice n (fun x =>
      { x with discards := fmUpd 0 x.discards reason (fun v => satAdd (2 ^ 64 - 1) v 1) }) }

/-- Big-endian number of `n` bytes at `lo` (R393: Ethernet, IPv6 and UDP fields keep network order). -/
def beAt (bs : List Byte) (lo n : Nat) : Nat := leNat ((bs.drop lo).take n).reverse

/-- A number as big-endian bytes. -/
def natBe (n x : Nat) : List Byte := (natLe n x).reverse

/-- The octets of a port's MAC address. -/
def macOf (n : Nat) : List Byte := natLe 6 (Config.mac n)

/-- The link-local address that a MAC address gives: the modified EUI-64 form (R391). -/
def linkLocalOf (n : Nat) : List Byte :=
  let m := macOf n
  [0xFE, 0x80] ++ zeros 6 ++ (m.take 1).map (· ^^^ 2) ++ (m.drop 1).take 2 ++ [0xFF, 0xFE] ++ m.drop 3

/-- A port's global address; empty: none (0x6050). -/
def globalOf (s : State) (n : Nat) : List Byte := (dictVal s 0x6050 (n + 1)).getD []

/-- Ones' complement sum of 16-bit words (R392 step 4). -/
def onesSum : List Nat → Nat → Nat
  | [], acc => acc
  | x :: xs, acc => onesSum xs ((acc + x) % 65536 + (acc + x) / 65536)

/-- Big-endian 16-bit words of bytes, a last odd byte padded with 0. -/
def beWords (bs : List Byte) : List Nat := (chunks 2 ((bs.length + 1) / 2) bs).map (fun c => beAt (fit 0 2 c) 0 2)

/-- Ones' complement sum with the IPv6 pseudo header. -/
def pseudoSum (src dst : List Byte) (next : Nat) (body : List Byte) : Nat :=
  onesSum (beWords (src ++ dst ++ natBe 4 body.length ++ natBe 4 next ++ body)) 0

/-- Multicast addresses of Neighbor Discovery for an address: all nodes, and its solicited-node address (R391). -/
def ndAddrs (s : State) (n : Nat) : List (List Byte) :=
  let solicited (a : List Byte) : List Byte := [0xFF, 0x02] ++ zeros 9 ++ [1, 0xFF] ++ a.drop 13
  [[0xFF, 0x02] ++ zeros 13 ++ [1], solicited (linkLocalOf n)] ++
  (if (globalOf s n).isEmpty then [] else [solicited (globalOf s n)])

/-- The MAC address of an IPv6 multicast address. -/
def multicastMac (a : List Byte) : List Byte := [0x33, 0x33] ++ a.drop 12

/-- The firmware's answer to an ICMPv6 message: an echo, or an advertisement of a solicited address (R391). -/
def icmpAnswer (s : State) (n : Nat) (src dst body : List Byte) : Option (List Byte) :=
  let own (a : List Byte) : Bool := a = linkLocalOf n || (!(globalOf s n).isEmpty && a = globalOf s n)
  let sealed (from_ m : List Byte) : List Byte :=
    let c := 0xFFFF - pseudoSum from_ src 58 m
    m.take 2 ++ natBe 2 c ++ m.drop 4
  if pseudoSum src dst 58 body ≠ 0xFFFF then none
  else if leAt body 0 1 = 128 && own dst then some (sealed dst ([129, 0, 0, 0] ++ body.drop 4))
  else if leAt body 0 1 = 135 && own ((body.drop 8).take 16) then
    let target := (body.drop 8).take 16
    some (sealed target ([136, 0, 0, 0, 0x60, 0, 0, 0] ++ target ++ [2, 1] ++ macOf n))
  else none

/-- The source allowlist of a partition takes an address (R392 step 7, 0x6052). -/
def allowed (s : State) (p : Nat) (src : List Byte) : Bool :=
  let list := (dictVal s 0x6052 (p + 1)).getD (zeros 17)
  (chunks 17 (list.length / 17) list).any (fun e =>
    let n := leAt e 16 1
    beAt e 0 16 / 2 ^ (128 - n) = beAt src 0 16 / 2 ^ (128 - n))

/-- Requests that an intake holds (R413). -/
def intakeFull (s : State) (p : Nat) : Bool := 4096 ≤ ((partAt s p).reqs.filter (fun r => !r.inFlight)).length

/-- What a received frame turns out to be. -/
inductive FrameIs where
  | bad (reason : Nat)
  | icmp (answer : Option (List Byte)) (dst : List Byte)
  | message (m : InMsg)
  deriving DecidableEq, Repr

/-- The checks of a received frame in order (R391, R392). `bytes` ends with the FCS. -/
def checkFrame (s : State) (n : Nat) (bytes : List Byte) (pcsError : Bool) (us : Nat) : FrameIs :=
  let body := bytes.take (bytes.length - 4)
  let fcs := crcReflected 0xEDB88320 0xFFFFFFFF body ^^^ 0xFFFFFFFF
  let vid := dictNat s 0x6053 (n + 1) 0
  let tagged : Bool := vid ≠ 0
  let hdr := if tagged then 18 else 14
  let lenOk : Bool := if tagged then 68 ≤ bytes.length && bytes.length ≤ 9220 else 64 ≤ bytes.length && bytes.length ≤ 9216
  let tagOk : Bool := !tagged || (beAt bytes 12 2 = 0x8100 && beAt bytes 14 2 % 4096 = vid)
  let mac := bytes.take 6
  let multi := (ndAddrs s n).map multicastMac
  let ip := body.drop hdr
  let dst := (ip.drop 24).take 16
  let src := (ip.drop 8).take 16
  let payload := (ip.drop 40).take (beAt ip 4 2)
  let own : Bool := dst = linkLocalOf n || (!(globalOf s n).isEmpty && dst = globalOf s n)
  let next := leAt ip 6 1
  if pcsError || leNat (bytes.drop (bytes.length - 4)) ≠ fcs then .bad 0
  else if !lenOk || !(mac = macOf n || multi.contains mac) || !tagOk || beAt bytes (hdr - 2) 2 ≠ 0x86DD then .bad 1
  else if leAt ip 0 1 / 16 ≠ 6 || payload.length ≠ beAt ip 4 2 || !(own || (next = 58 && (ndAddrs s n).contains dst)) ||
      !(next = 17 || next = 58) then .bad 2
  else if next = 58 then .icmp (icmpAnswer s n src dst payload) src
  else
    let msg := payload.drop 8
    let d : Door := ⟨16, n, src, beAt payload 0 2, dst = linkLocalOf n, vid⟩
    if payload.length < 8 || beAt payload 2 2 ≠ dictNat s 0x6051 0 30641 || beAt payload 4 2 ≠ payload.length ||
      beAt payload 6 2 = 0 || pseudoSum src dst 17 payload ≠ 0xFFFF then .bad 3
    else if !colquaOk msg then .bad 4
    else
      let m := inMsg us d msg
      if !partExists s m.part then .bad 5
      else if !allowed s m.part src then .bad 6
      else if m.type = 1 && intakeFull s m.part then .bad 7
      else .message m

/-- The service port takes frames (R365, R391); in Withdrawn too, where no partition exists (R473). -/
def portServes (s : State) (n : Nat) : Bool :=
  let x := fmGet portUnset s.coppice n
  x.role = 2 && x.state = 3

end Sys2Proof.Machine
end

