-- ==== Sys2Proof/Machine/Sessions.lean ====
section
/-!
DEFINITION. Sessions (R406–R408, R417–R420, R426): models, records, KV ranges and token logs, parking and resuming
(R327–R329), and the commands that the entry member of a lockstep job sends.
-/

namespace Sys2Proof.Machine

/-! ### Models (R407, R408) -/

/-- Entry `m` of a partition's model table: virtual address, length, tag. -/
def modelEntry (s : State) (p m : Nat) : Nat × Nat × Nat :=
  let t := (dictVal s 0x3012 (p + 1)).getD []
  (leAt t (16 * m) 8, leAt t (16 * m + 8) 4, leAt t (16 * m + 12) 4)

/-- Bytes of a partition's memory by virtual address, as the firmware copies them: ranges of DM alone. -/
def readVa (p : Nat) (s : State) (va n : Nat) : State × List Byte :=
  (pieces 4096 (n + 1) va n).foldl (fun (acc : State × List Byte) q =>
    match findRange acc.1 p q.1 with
    | some (_, e) =>
      if rTarget e = 0 then
        let (s, bs, _) := huskRead p (q.2 + 1) acc.1 (rAddr e q.1) q.2
        (s, acc.2 ++ bs)
      else (acc.1, acc.2 ++ zeros q.2)
    | none => (acc.1, acc.2 ++ zeros q.2)) (s, [])

/-- Bytes written to a partition's memory by virtual address. -/
def writeVa (p : Nat) (s : State) (va : Nat) (bs : List Byte) : State :=
  (pieces 4096 (bs.length + 1) va bs.length).foldl (fun s q =>
    match findRange s p q.1 with
    | some (_, e) => if rTarget e = 0 then huskWrite s p (rAddr e q.1) (cut va bs q) false else s
    | none => s) s

/-- The image of a model table entry: the one that runs, or the one its bytes spell; none for an empty entry. -/
def modelImage (s : State) (p m : Nat) : Option Image :=
  let e := modelEntry s p m
  if e.2.1 = 0 then none
  else if (partAt s p).model = some m then (partAt s p).image
  else (Config.parseImage (readVa p s e.1 e.2.1).2).map (fun i => { i with modelTag := e.2.2 })

/-- KV bytes per token of the model with a tag. -/
def kvPer (s : State) (p tag : Nat) : Nat :=
  match (List.range 8).find? (fun m => (modelEntry s p m).2.1 ≠ 0 && (modelEntry s p m).2.2 = tag) with
  | some m => ((modelImage s p m).map (·.svc.kvPerToken)).getD 0
  | none => 0

/-! ### Records -/

def sessAt (s : State) (i : Nat) : Session := fmGet sessReset s.sessions i

def updSess (s : State) (i : Nat) (f : Session → Session) : State := { s with sessions := fmUpd sessReset s.sessions i f }

/-- STATE of a record (R417). -/
def sessCode (x : SessState) : Nat :=
  match x with
  | .free => 0
  | .resident => 1
  | .active => 2
  | .parked => 3
  | .parking => 4
  | .resuming => 5

/-- LAG_TOKENS: tokens of the log whose KV the session lacks. -/
def lagOf (x : Session) : Nat := x.log.length - x.tokens

/-- The 128-byte record (R417). -/
def sessRecord (x : Session) : List Byte :=
  natLe 1 (sessCode x.st) ++ natLe 1 x.part ++ natLe 2 (bnat x.pin) ++ natLe 4 x.modelTag ++ natLe 8 x.tokens ++
  natLe 8 x.generation ++ natLe 8 x.kvVa ++ natLe 8 x.kvBytes ++ natLe 4 x.slot ++
  natLe 4 (match x.fallback with | some f => f + 2 ^ 31 | none => 0) ++ natLe 8 x.seed ++ natLe 8 x.lastUse ++
  natLe 8 x.requestId ++ natLe 8 x.imageOff ++ natLe 4 (lagOf x) ++ zeros 44

/-- A session ID of the partition's span. -/
def inSpan (s : State) (p i : Nat) : Bool := (partAt s p).sessBase ≤ i && i < (partAt s p).sessBase + (partAt s p).sessCount

/-- Sessions of a partition that are not free. -/
def sessionsOf (s : State) (p : Nat) : List (Nat × Session) := s.sessions.filter (fun x => x.2.st ≠ .free && x.2.part = p)

/-! ### Room in DM (R419, R420) -/

/-- 2 MiB. -/
def kvUnit : Nat := 2 ^ 21

/-- What is free between `lo` and `hi` beside spans (start, end) in rising order. -/
def gaps (hi : Nat) : Nat → List (Nat × Nat) → List (Nat × Nat)
  | lo, [] => if lo < hi then [(lo, hi)] else []
  | lo, x :: xs => (if lo < x.1 then [(lo, min hi x.1)] else []) ++ gaps hi (max lo x.2) xs

/-- Number of places for `n` bytes at multiples of `unit` in a gap. -/
def placesIn (unit n : Nat) (g : Nat × Nat) : Nat :=
  let lo := ceilDiv g.1 unit * unit
  if lo + n ≤ g.2 then (g.2 - lo - n) / unit + 1 else 0

/-- Place number `d` among all places of the gaps. -/
def placeAt (unit n : Nat) : List (Nat × Nat) → Nat → Option Nat
  | [], _ => none
  | g :: gs, d =>
    let k := placesIn unit n g
    if d < k then some ((ceilDiv g.1 unit + d) * unit) else placeAt unit n gs (d - k)

/-- Any place of `n` bytes, as the draw `d` has it. -/
def anyPlace (unit n : Nat) (gs : List (Nat × Nat)) (d : Nat) : Option Nat :=
  let total := (gs.map (placesIn unit n)).sum
  if total = 0 then none else placeAt unit n gs (d % total)

/-- Spans in rising order. -/
def sortSpans (xs : List (Nat × Nat)) : List (Nat × Nat) := xs.foldl (fun acc x => insertSpan x acc) []

/-- DM that the partition's ranges map. -/
def dmSpans (s : State) (p : Nat) : List (Nat × Nat) :=
  sortSpans (((xlAt s p).table.filter (fun x => rTarget x.2 = 0)).map (fun x => (rPbase x.2, rPbase x.2 + rLen x.2 * 4096)))

/-- Virtual space that the partition's ranges take. -/
def vaSpans (s : State) (p : Nat) : List (Nat × Nat) :=
  sortSpans ((xlAt s p).table.map (fun x => (rStart x.2 * 4096, rStart x.2 * 4096 + rLen x.2 * 4096)))

/-- DM of the partition that no range maps (R420). -/
def unallocated (s : State) (p : Nat) : Nat := (partAt s p).dmSize - unionLen (dmSpans s p)

/-- A KV range of `n` bytes, WRITE and READ set: place in DM, virtual address and slot are any that are free, or those
given (R419). -/
def allocRange (s : State) (p n : Nat) (at_ : Option (Nat × Nat)) : Option (State × Nat × Nat) :=
  let (s, d) := draw s
  let lo := (partAt s p).dmBase
  match anyPlace kvUnit n (gaps (lo + (partAt s p).dmSize) lo (dmSpans s p)) d with
  | none => none
  | some pa =>
    let (s, d1) := draw s
    let (s, d2) := draw s
    let slots := (List.range 8192).filter (fun i => fmGet 0 (xlAt s p).table i = 0)
    let va := match at_ with
      | some (va, _) => some va
      | none => anyPlace kvUnit n (gaps (2 ^ 52) 0 (vaSpans s p)) d1
    let slot := match at_ with
      | some (_, i) => if slots.contains i then some i else none
      | none => if slots.isEmpty then none else slots[d2 % slots.length]?
    match va, slot with
    | some va, some i =>
      let e := pa * 2 ^ 192 + n / 4096 * 2 ^ 152 + va / 4096 * 2 ^ 112 + 2 ^ 13 + 2 ^ 12 + p
      some (updXl s p (fun x => { x with table := fmSet 0 x.table i e }), va, i)
    | _, _ => none

/-- A range withdrawn by the firmware itself: its entry leaves the table, the lookasides and the die caches. -/
def dropRange (s : State) (p i : Nat) : State :=
  let cut_ (l : List Nat) : List Nat := l.filter (· ≠ i)
  let s := updXl s p (fun x => { x with table := fmSet 0 x.table i 0, dieCache := fmMap [] cut_ x.dieCache })
  updTiles s (partTiles s p) (fun t => { t with look := cut_ t.look })

/-- Bytes of a KV range for a capacity (R419). DESIGN CHOICE (log entry 104): a range holds as many tokens as fit into it, and the log stands in the
top bytes of that capacity. -/
def kvSize (per cap : Nat) : Nat := if per = 0 then 0 else ceilDiv ((per + 4) * cap) kvUnit * kvUnit

/-- The capacity of a session's range; a session without one has no bound. -/
def capOf (s : State) (x : Session) : Option Nat :=
  if x.kvBytes = 0 then none else some (x.kvBytes / (kvPer s x.part x.modelTag + 4))

/-- The session's range lies in DM. -/
def hasRange (x : Session) : Bool := x.kvBytes ≠ 0 && x.slot ≠ 0xFFFFFFFF

/-- Physical start of the session's range. -/
def kvPa (s : State) (x : Session) : Nat := rPbase (fmGet 0 (xlAt s x.part).table x.slot)

/-- The range given to a session; none where there is no room. -/
def giveKv (s : State) (i p n : Nat) (at_ : Option (Nat × Nat)) : Option State :=
  if n = 0 then some (updSess s i (fun x => { x with kvBytes := 0, kvVa := 0, slot := 0xFFFFFFFF }))
  else (allocRange s p n at_).map (fun y => updSess y.1 i (fun x => { x with kvVa := y.2.1, kvBytes := n, slot := y.2.2 }))

/-- The session's DM freed. -/
def dropKv (s : State) (i : Nat) : State :=
  let x := sessAt s i
  let s := if hasRange x then dropRange s x.part x.slot else s
  updSess s i (fun x => { x with slot := 0xFFFFFFFF })

/-- The token log's entries from index `k` on written into the range's top bytes (R419). -/
def mirrorLog (s : State) (i k : Nat) (toks : List Nat) : State :=
  let x := sessAt s i
  match capOf s x with
  | some cap =>
    if hasRange x then huskWrite s x.part (kvPa s x + x.kvBytes - 4 * cap + 4 * k) (toks.flatMap (natLe 4)) false else s
  | none => s

/-- Tokens entered in the log from index `k` on. -/
def putLog (s : State) (i k : Nat) (toks : List Nat) : State :=
  mirrorLog (updSess s i (fun x => { x with log := x.log.take k ++ toks ++ x.log.drop (k + toks.length) })) i k toks

/-- A session made free, with its fallback sessions (R418, R431); `fuel` bounds the chain. -/
def closeSess : Nat → State → Nat → State
  | 0, s, _ => s
  | fuel + 1, s, i =>
    let x := sessAt s i
    let s := updSess (dropKv s i) i (fun _ => sessReset)
    let s := { s with seed := { s.seed with moving := s.seed.moving.filter (fun m => m.id ≠ i) } }
    match x.fallback with
    | some f => if (sessAt s f).st = .resident || (sessAt s f).st = .parked then closeSess fuel s f else s
    | none => s

/-! ### The entry member (R426, R481) -/

/-- Members that the route table reaches, but this one. -/
def members (s : State) : List Nat :=
  (List.range 1024).filter (fun m => m ≠ memberNo s && (s.gt.routes.getD m 0xFF) ≠ 0xFF)

/-- The partition runs a lockstep image and this member admits for it. -/
def isEntry (s : State) (p : Nat) : Bool :=
  match (partAt s p).image with
  | some i => i.lockstep && i.svc.entryMember = some (memberNo s)
  | none => false

/-- A session command sent to every other member. -/
def tellMembers (s : State) (p : Nat) (c : SessCmd) : State :=
  if isEntry s p then (members s).foldl (fun s m => emit s (.member m p c)) s else s

/-- An answer to the entry member. -/
def tellEntry (s : State) (p : Nat) (c : SessCmd) : State :=
  match ((partAt s p).image.bind (fun i => i.svc.entryMember)) with
  | some m => if m = memberNo s then s else emit s (.member m p c)
  | none => s

/-! ### Parking (R327, R328, R420) -/

/-- The session extent of a partition (R406). -/
def sessExtent (s : State) (p : Nat) : Option Nat :=
  let n := dictNat s 0x3011 (p + 1) 0xFFFF
  match extentAt s n with
  | some x => if n ≠ 0xFFFF && x.owner = p then some n else none
  | none => none

/-- Bytes of an extent. -/
def extBytes (s : State) (ext off n : Nat) : List Byte := memRead s.seed.mem (ext * 2 ^ 48 + off) n

/-- A header page (R327) without its padding. -/
def imageHeader (i : Nat) (x : Session) (dataOff : Nat) : List Byte :=
  let h := natLe 4 1 ++ natLe 4 i ++ natLe 8 x.generation ++ natLe 8 x.tokens ++ natLe 8 x.kvBytes ++ natLe 8 dataOff ++
    zeros 24 ++ sessRecord x
  h ++ natLe 4 (crc32c h)

/-- A header page that is valid (R327). -/
def headerOk (h : List Byte) : Bool :=
  leAt h 0 4 = 1 && leAt h 4 4 < 2 ^ 20 && leAt h 192 4 = crc32c (h.take 192) && leAt h 24 8 % 16384 = 0

/-- Pages that the newest image of a session takes, as (first byte, end). -/
def imageSpan (s : State) (ext : Nat) (x : Session) : List (Nat × Nat) :=
  if x.imageOff = 2 ^ 64 - 1 then []
  else
    let h := extBytes s ext x.imageOff 196
    [(leAt h 32 8, leAt h 32 8 + leAt h 24 8), (x.imageOff, x.imageOff + 16384)]

/-- Every valid image of a session in an extent, as spans. -/
def imagesOf (s : State) (ext i : Nat) : List (Nat × Nat) :=
  (((s.seed.mem.filter (fun m => m.1 / 2 ^ 48 = ext)).map (fun m => m.1 % 2 ^ 48 / 16384)).dedup).flatMap (fun page =>
    let h := extBytes s ext (16384 * page) 196
    if headerOk h && leAt h 4 4 = i then [(leAt h 32 8, leAt h 32 8 + leAt h 24 8), (16384 * page, 16384 * page + 16384)] else [])

/-- Extent bytes taken by images and by parks under way. -/
def imageSpans (s : State) (p ext : Nat) : List (Nat × Nat) :=
  sortSpans ((s.sessions.filter (fun x => x.2.part = p)).flatMap (fun x => imageSpan s ext x.2) ++
    (s.seed.moving.filter (fun m => m.park && m.part = p)).map (fun m => (m.off, m.off + 16384 * (m.pages + 1))))

/-- A move of the session is under way. -/
def movingOf (s : State) (i : Nat) (park : Bool) : Option Moving := s.seed.moving.find? (fun m => m.id = i && m.park = park)

/-- The park of a resident session, or of one chosen, begins: its data pages go to any run of free pages (R328). -/
def startPark (i : Nat) (s : State) : State :=
  let x := sessAt s i
  if !((x.st = .resident && !x.pin) || x.st = .parking) || (movingOf s i true).isSome || s.seed.status ≠ 1 then s
  else match sessExtent s x.part with
    | none => s
    | some ext =>
      let (s, d) := draw s
      let n := x.kvBytes / 16384
      let size := ((extentAt s ext).map (·.size)).getD 0 * 2 ^ 30
      match anyPlace 16384 (16384 * (n + 1)) (gaps size 0 (imageSpans s x.part ext)) d with
      | none => s
      | some off =>
        let mv : Moving := { id := i, part := x.part, off := off, pages := n, header := [], park := true }
        let s := { s with seed := { s.seed with moving := s.seed.moving ++ [mv] } }
        if x.st = .resident then
          tellMembers (updSess s i (fun y => { y with st := .parking, generation := y.generation + 1 })) x.part (.park i)
        else s

/-- Resident, unpinned sessions with DM to give, least recently used first. -/
def parkable (s : State) (p : Nat) : List (Nat × Session) :=
  let xs := (sessionsOf s p).filter (fun x => x.2.st = .resident && !x.2.pin && hasRange x.2)
  let put (acc : List (Nat × Session)) (x : Nat × Session) : List (Nat × Session) :=
    acc.filter (fun y => y.2.lastUse ≤ x.2.lastUse) ++ [x] ++ acc.filter (fun y => x.2.lastUse < y.2.lastUse)
  xs.foldl put []

/-- DM that parks under way will free. -/
def parkingBytes (s : State) (p : Nat) : Nat := (((sessionsOf s p).filter (fun x => x.2.st = .parking)).map (·.2.kvBytes)).sum

/-- Sessions chosen for parking until `goal` bytes are free or promised (R420). -/
def parkUntil (s : State) (p goal : Nat) : State :=
  if (sessExtent s p).isNone then s
  else
    let free := unallocated s p + parkingBytes s p
    ((parkable s p).foldl (fun (acc : State × Nat) x =>
      if goal ≤ acc.2 then acc
      else
        let s := updSess acc.1 x.1 (fun y => { y with st := .parking, generation := y.generation + 1 })
        (tellMembers s p (.park x.1), acc.2 + x.2.kvBytes)) (s, free)).1

/-- The parks of R420: below one sixteenth, until one eighth is free. -/
def parkLow (s : State) (p : Nat) : State :=
  if unallocated s p < (partAt s p).dmSize / 16 then parkUntil s p ((partAt s p).dmSize / 8) else s

/-- Parks that could make room for `n` bytes, and whether any are under way. -/
def makeRoom (s : State) (p n : Nat) : State × Bool :=
  let s := parkUntil s p n
  (s, parkingBytes s p ≠ 0)

/-- Page `k` of a run written by a copy engine of the Husk: its lines from DM, or given bytes. -/
def parkPage (p ext off pa k : Nat) (s : State) : State :=
  let lines := (List.range 128).foldl (fun (acc : State × List Byte × List Nat) j =>
    let (s, bs, bad) := huskLine acc.1 p ((pa + 16384 * k) / 128 + j)
    (s, acc.2.1 ++ bs, if bad then acc.2.2 ++ [j] else acc.2.2)) (s, [], [])
  updSeed lines.1 (writePage ext (off / 16384 + k) [(0, lines.2.1)] lines.2.2)

/-- SESSION_PARKED: every data page and the header page are counted; the session is parked, its older images trimmed, its DM
freed (R328). -/
def sessionParked (i : Nat) (s : State) : State :=
  match movingOf s i true with
  | none => s
  | some mv =>
    let x := sessAt s i
    match sessExtent s mv.part with
    | none => s
    | some ext =>
      if s.seed.status ≠ 1 then s
      else
        let pa := kvPa s x
        let old := imageSpan s ext x ++ imagesOf s ext i
        let s := (List.range mv.pages).foldl (fun s k => parkPage mv.part ext mv.off pa k s) s
        let h := fit 0 16384 (imageHeader i x mv.off)
        let s := updSeed s (writePage ext (mv.off / 16384 + mv.pages) [(0, h)] [])
        let s := updSeed s (fun y => readOnlyCheck (noteWritten ext (16384 * (mv.pages + 1)) y))
        let s := old.foldl (fun s sp => (List.range ((sp.2 - sp.1) / 16384)).foldl (fun s k =>
          updSeed s (trimPage (pageNo ext (sp.1 / 16384 + k)))) s) s
        let s := { s with seed := { s.seed with moving := s.seed.moving.erase mv } }
        updSess (dropKv s i) i (fun y => { y with st := .parked, imageOff := mv.off + 16384 * mv.pages })

/-- A request stops a park whose header is not yet counted (R418). -/
def stopPark (i : Nat) (s : State) : State :=
  let s := { s with seed := { s.seed with moving := s.seed.moving.filter (fun m => m.id ≠ i) } }
  updSess s i (fun y => { y with st := .active, generation := y.generation - 1 })

/-! ### Resuming (R329) -/

/-- The resume of a parked session begins: a range for its KV, then the pages. No room: nothing. -/
def startResume (i : Nat) (s : State) : Option State :=
  let x := sessAt s i
  if !(x.st = .parked || x.st = .resuming) || (movingOf s i false).isSome || x.imageOff = 2 ^ 64 - 1 ||
    !(s.seed.status = 1 || s.seed.status = 2) then some s
  else match sessExtent s x.part with
    | none => some s
    | some ext =>
      match giveKv s i x.part x.kvBytes none with
      | none => none
      | some s =>
        let h := extBytes s ext x.imageOff 196
        let mv : Moving := { id := i, part := x.part, off := leAt h 32 8, pages := leAt h 24 8 / 16384, header := h, park := false }
        let s := { s with seed := { s.seed with moving := s.seed.moving ++ [mv] } }
        let s := updSess s i (fun y => { y with st := .resuming })
        let s := tellMembers s x.part (.resume i)
        some (if isEntry s x.part then updPart s x.part (fun y => { y with resumes := y.resumes ++ [(i, s.us, members s)] }) else s)

/-- RESUME by the firmware: where DM is short, others are parked first. -/
def resume (i : Nat) (s : State) : State :=
  match startResume i s with
  | some s' => s'
  | none => (makeRoom s (sessAt s i).part (sessAt s i).kvBytes).1

/-- The image read for a resume belongs to the session and is the one its record names (R329). -/
def resumeOk (s : State) (mv : Moving) : Bool :=
  let x := sessAt s mv.id
  headerOk mv.header && leAt mv.header 4 4 = mv.id && leAt mv.header 8 8 = x.generation &&
  leAt mv.header 24 8 = x.kvBytes && !fmGet false s.seed.lost (pageNo ((sessExtent s mv.part).getD 0) (x.imageOff / 16384))

/-- Page `k` of an image landed in DM; lines of a lost page, and Poison lines of the extent, land Poison. -/
def landPage (p ext off pa k : Nat) (s : State) : State :=
  let page := off / 16384 + k
  let lost := fmGet false s.seed.lost (pageNo ext page)
  let s := updSeed s (notePageRead ext page .nominal)
  (List.range 128).foldl (fun s j =>
    let a := pageAddr ext page + 128 * j
    huskWrite s p (pa + 16384 * k + 128 * j) (memRead s.seed.mem a 128) (lost || fmGet false s.seed.poison (a / 128))) s

/-- The tokens that the top of a resumed range holds (R419). -/
def readLog (s : State) (i n : Nat) : State × List Nat :=
  let x := sessAt s i
  match capOf s x with
  | none => (s, x.log.take n)
  | some cap =>
    let (s, bs, _) := huskRead x.part (4 * n + 2) s (kvPa s x + x.kvBytes - 4 * cap) (4 * n)
    (s, (chunks 4 n bs).map leNat)

/-- Every page has landed and the header matches: the session is resident, and its log is what the image brought, followed
by what has been entered since (R329, R431). -/
def resumeLand (mv : Moving) (s : State) : State :=
  let i := mv.id
  let ext := (sessExtent s mv.part).getD 0
  let pa := kvPa s (sessAt s i)
  let s := (List.range mv.pages).foldl (fun s k => landPage mv.part ext mv.off pa k s) s
  let n := leAt mv.header 16 8 + leAt mv.header 144 4
  let (s, toks) := readLog s i n
  let later := (sessAt s i).log.drop n
  let s := updSess s i (fun y => { y with log := toks ++ later, st := .resident })
  mirrorLog s i n later

/-- The resume fails: the session stays parked, without DM. -/
def resumeFail (mv : Moving) (s : State) : State := updSess (dropKv s mv.id) mv.id (fun y => { y with st := .parked })

/-! ### The session extent (R406) -/

/-- Pages of an extent that hold anything. -/
def extPages (s : State) (ext : Nat) : List Nat :=
  ((s.seed.mem.filter (fun m => m.1 / 2 ^ 48 = ext)).map (fun m => m.1 % 2 ^ 48 / 16384)).dedup

/-- A record as a parked session takes it from its image. -/
def fromImage (h : List Byte) (off : Nat) : Session :=
  let r := h.drop 64
  let fb := leAt r 44 4
  { st := .parked, part := leAt r 1 1, pin := leAt r 2 1 % 2 = 1, modelTag := leAt r 4 4, tokens := leAt r 8 8,
    generation := leAt h 8 8, kvVa := leAt r 24 8, kvBytes := leAt r 32 8, slot := 0xFFFFFFFF,
    fallback := if fb.testBit 31 then some (fb % 2 ^ 20) else none, seed := leAt r 48 8, lastUse := leAt r 56 8,
    requestId := 0, imageOff := off, log := List.replicate (leAt r 8 8 + leAt r 80 4) 0 }

/-- One page of the extent looked at: a valid image of a session of the span that is free, or parked with an older image,
makes it parked (R328, R406). -/
def scanPage (p ext : Nat) (s : State) (page : Nat) : State :=
  let h := extBytes s ext (16384 * page) 196
  let i := leAt h 4 4
  let x := sessAt s i
  if !headerOk h || fmGet false s.seed.lost (pageNo ext page) || !inSpan s p i then s
  else if x.st = .free || (x.st = .parked && x.generation < leAt h 8 8) then
    updSess s i (fun _ => { fromImage h (16384 * page) with part := p })
  else s

/-- Every image header of the session extent read. -/
def scanExtent (s : State) (p : Nat) : State :=
  match sessExtent s p with
  | some ext => if s.seed.status = 0 || s.seed.status = 3 then s else (extPages s ext).foldl (scanPage p ext) s
  | none => s

/-- A write of 0x3011: none, or an extent that the partition owns; anything else is refused. -/
def extentNameOk (s : State) (p ext : Nat) : Bool :=
  ext = 0xFFFF || (match extentAt s ext with
    | some x => x.owner = p
    | none => false)

end Sys2Proof.Machine
end

