-- ==== Sys2Proof/Machine/Scheduler.lean ====
section
/-!
DEFINITION. Requests and steps (R409–R435, R455–R459): admission, the messages of a request, rerouting, step boundaries and
step outputs, the ends of requests.
-/

namespace Sys2Proof.Machine

/-! ### Requests -/

/-- Two requests are the same. -/
def sameReq (a b : Req) : Bool := a.session = b.session && a.reqId = b.reqId

/-- A request changed where it stands. -/
def setReq (s : State) (p : Nat) (r : Req) : State :=
  updPart s p (fun x => { x with reqs := x.reqs.map (fun y => if sameReq y r then r else y) })

/-- A request taken out. -/
def dropReq (s : State) (p : Nat) (r : Req) : State := updPart s p (fun x => { x with reqs := x.reqs.filter (fun y => !sameReq y r) })

/-- Intake queue that a request is accounted to: a rerouted one stands in queue 16 (R431). -/
def intakeOf (r : Req) : Nat := if r.home.isSome then 16 else r.queue

/-- A request message for a session finds its request by the client's session and request ID, in whichever partition it
runs. -/
def findReq (s : State) (p i reqId : Nat) : Option (Nat × Req) :=
  s.parts.findSome? (fun x => (x.2.reqs.find? (fun r => clientSide x.1 r = (p, i) && r.reqId = reqId)).map (fun r => (x.1, r)))

/-- A count of 0x3090: 1 admitted, 2 rerouted, 3 misses kept, 4 per-token misses, 5 rejects. -/
def countReq (s : State) (p k : Nat) : State :=
  updPart s p (fun x => { x with counts := fmUpd 0 x.counts k (fun v => satAdd (2 ^ 64 - 1) v 1) })

/-- A request stands for the session, here or rerouted. -/
def hasReq (s : State) (i : Nat) : Bool := s.parts.any (fun x => x.2.reqs.any (fun r => r.session = i || r.home.any (·.2 = i)))

/-- FLAGS of a request (R414). -/
def rClose (r : Req) : Bool := r.flags.testBit 0
def rMore (r : Req) : Bool := r.flags.testBit 1
def rPin (r : Req) : Bool := r.flags.testBit 2
def rReplay (r : Req) : Bool := r.flags.testBit 3 && r.maxTokens = 0

/-- Bytes of one input unit (R414). -/
def unitSize (mode : Nat) : Nat := if mode = 2 then 1 else 4

/-- Input units of a body. -/
def unitsOf (mode : Nat) (bs : List Byte) : List Nat := (chunks (unitSize mode) (bs.length / unitSize mode) bs).map leNat

/-- The body keeps every stated range (R414). -/
def bodyOk (b : List Byte) : Bool :=
  let mode := leAt b 12 1
  let n := leAt b 56 4
  let f32 (at_ : Nat) (hi : Nat) : Bool := if mode = 1 then 0 < leAt b at_ 4 && leAt b at_ 4 ≤ hi else leAt b at_ 4 = 0
  64 ≤ b.length && mode ≤ 2 && leAt b 13 1 < 16 && leAt b 14 1 < 8 && leAt b 15 1 = 0 &&
  (if mode = 1 then 0 < leAt b 16 2 else leAt b 16 2 = 0) && leAt b 18 2 = 0 && f32 20 0x7F800000 && f32 24 0x3F800000 &&
  leAt b 60 4 = 0 && b.length = 64 + unitSize mode * n && b.length ≤ 9118

/-- The request of a body (R414). -/
def reqOf (m : InMsg) : Req :=
  let b := m.body
  { stamp := m.stamp, queue := m.queue, port := m.port, src := m.src, sport := m.sport, linkLocal := m.linkLocal,
    vlan := m.vlan, session := m.session, reqId := m.reqId, firstUs := leAt b 0 4, tokenUs := leAt b 4 4,
    maxTokens := leAt b 8 4, mode := leAt b 12 1, flags := leAt b 13 1, model := leAt b 14 1, topK := leAt b 16 2,
    temp := leAt b 20 4, topP := leAt b 24 4, replayFrom := leAt b 28 4, seed := leAt b 32 8,
    stop := [leAt b 40 4, leAt b 44 4, leAt b 48 4, leAt b 52 4], input := unitsOf (leAt b 12 1) (b.drop 64), nextSeq := 1,
    early := [], lastIn := m.stamp, sendSeq := 0, accepted := false, inFlight := false, started := false, cancel := false,
    waitFrom := m.stamp, generated := 0, firstAt := none, lastAt := 0, misses := 0, home := none, resumed := false, engine := 0 }

/-! ### Ends (R415, R418) -/

/-- The session of an ended request: resident, or free where CLOSE was set; one still parked or resuming stays so. -/
def releaseSess (s : State) (i : Nat) (close : Bool) : State :=
  let x := sessAt s i
  let s := updSess s i (fun y => { y with requestId := 0 })
  if close then tellMembers (closeSess 32 s i) x.part (.close i)
  else updSess s i (fun y => { y with
    st := if y.st = .active then .resident
          else if y.st = .resuming && (movingOf s i false).isNone then .parked else y.st })

/-- A request gone, with its sessions. -/
def releaseReq (s : State) (p : Nat) (r : Req) : State :=
  let s := dropReq s p r
  let s := releaseSess s r.session (rClose r && r.home.isNone)
  match r.home with
  | some (_, i) => releaseSess s i (rClose r)
  | none => s

/-- END with a reason (R415). -/
def endReq (s : State) (p : Nat) (r : Req) (reason : Nat) : State :=
  let first := match r.firstAt with
    | some t => natLe 4 (t - r.stamp)
    | none => natLe 4 0xFFFFFFFF
  let body := natLe 1 reason ++ natLe 1 p ++ natLe 1 (bnat r.home.isSome + 2 * bnat r.resumed) ++ zeros 1 ++ natLe 4 r.generated ++
    first ++ natLe 4 r.misses ++ natLe 8 r.engine ++ natLe 8 (sessAt s (clientSide p r).2).tokens
  releaseReq (answer s p r mEnd body).1 p r

/-- REJECT of a request that the module holds (R415, R416). -/
def rejectReq (s : State) (p : Nat) (r : Req) (reason : Nat) : State :=
  countReq (releaseReq (answer s p r mReject (natLe 1 reason)).1 p r) p 5

/-- REJECT of a request that the module does not take. -/
def refuseMsg (s : State) (m : InMsg) (reason : Nat) : State :=
  countReq (sendOut s m.part (doorOfMsg m) (colqua mReject m.part m.session m.reqId 0 (natLe 1 reason))) m.part 5

/-- Ends of requests with a reason: those in flight, or all (R404, R425). -/
def endAll (s : State) (p reason : Nat) (which : Req → Bool) : State :=
  ((partAt s p).reqs.filter which).foldl (fun s r => endReq s p r reason) s

/-! ### Projection and rerouting (R430, R431) -/

/-- Slots that a request has in the steps under way. -/
def openSlots (s : State) (p : Nat) (r : Req) : List StepSlot :=
  (((partAt s p).job.map (·.open_)).getD []).flatMap (fun o => o.slots.filter (fun x => x.session = r.session && x.reqId = r.reqId))

/-- Session position at which a request's next slot starts. -/
def positionOf (s : State) (p : Nat) (r : Req) : Nat := (sessAt s r.session).tokens + ((openSlots s p r).map (·.adv)).sum

/-- Time left in the current step, in µs. DESIGN CHOICE (log entry 104): as the running mean of its kind has it. -/
def stepLeft (s : State) (p us : Nat) : Nat :=
  let x := partAt s p
  match (x.job.map (·.open_)).getD [] with
  | [] => 0
  | o :: _ => o.startUs + (if o.slots.any (·.kind = 0) then x.tauP else x.tauD) / 65536 - us

/-- Projected first token, in µs (R430). -/
def projected (s : State) (p us : Nat) (r : Req) (img : Image) : Nat :=
  let x := sessAt s r.session
  let resume := if x.st = .parked || x.st = .resuming then ceilDiv x.kvBytes 100000 else 0
  us + stepLeft s p us + resume + ceilDiv (ceilDiv r.input.length img.svc.prefillChunk * (partAt s p).tauP) 65536

/-- A miss is projected. -/
def projectsMiss (s : State) (p us : Nat) (r : Req) (img : Image) : Bool :=
  (r.firstUs ≠ 0 && r.stamp + r.firstUs < projected s p us r img) ||
  (r.tokenUs ≠ 0 && r.tokenUs * 65536 < (partAt s p).tauD)

/-- The session of the fallback: FB_SESSION, or the lowest free ID of the fallback's span. DESIGN CHOICE (log entry 104): an FB_SESSION of another
span counts as none, and one that a request holds takes no second. -/
def fallbackSession (s : State) (f : Nat) (x : Session) : Option Nat :=
  match x.fallback with
  | some i =>
    if !inSpan s f i then lowest
    else if (sessAt s i).st = .active || (sessAt s i).st = .resuming then none else some i
  | none => lowest
where
  /-- The lowest free ID of the span. -/
  lowest : Option Nat := ((List.range (partAt s f).sessCount).find? (fun k => (sessAt s ((partAt s f).sessBase + k)).st = .free)).map
      ((partAt s f).sessBase + ·)

/-- A free session opened (R418, R419): capacity for its first input and tokens. None where DM has no room. -/
def openSess (s : State) (p i : Nat) (img : Image) (tag seed n : Nat) : Option State :=
  let size := kvSize img.svc.kvPerToken (min n img.svc.ctxMax)
  let s := updSess s i (fun _ => { sessReset with st := .active, part := p, modelTag := tag, seed := seed })
  (giveKv s i p size none).map (fun s =>
    let x := sessAt s i
    tellMembers s p (.openSession i tag x.kvVa x.kvBytes x.slot seed))

/-- The request moved to the fallback (R431); none where that cannot be. -/
def reroute (s : State) (p f : Nat) (r : Req) : Option State :=
  let x := sessAt s r.session
  match (partAt s f).image, (partAt s f).model, fallbackSession s f x with
  | some img, some m, some i =>
    let y := sessAt s i
    let own := r.input.drop (x.log.length - positionOf s p r)
    let input := x.log.drop y.tokens ++ own
    let opened :=
      if y.st = .free then openSess s f i img img.modelTag x.seed (y.tokens + input.length + r.maxTokens)
      else if y.st = .parking then some (stopPark i s)
      else some (updSess s i (fun z => { z with st := if z.st = .parked then .resuming else .active }))
    opened.map (fun s =>
      let s := updSess s i (fun z => { z with requestId := r.reqId })
      let s := updSess s r.session (fun z => { z with fallback := some i })
      let r' := { r with session := i, home := some (p, r.session), model := m, input := input, inFlight := false, started := false }
      let s := updPart (dropReq s p r) f (fun z => { z with reqs := z.reqs ++ [r'] })
      countReq s p 2)
  | _, _, _ => none

/-- A request judged (R430): rerouted, or its projected miss counted. DESIGN CHOICE (log entry 104): a request with a slot in a step under way is
not moved. -/
def judge (s : State) (p us : Nat) (r : Req) (img : Image) : State :=
  if r.firstAt.isSome || !projectsMiss s p us r img then s
  else if r.home.isSome then countReq s p 3
  else
    let f := dictNat s 0x3080 (p + 1) 0xFF
    let fits : Bool := f < 32 && partExists s f && (openSlots s p r).isEmpty && (match (partAt s f).image with
      | some i => i.svc.vocabId = img.svc.vocabId && i.svc.kind = img.svc.kind
      | none => false)
    match (if fits then reroute s p f r else none) with
    | some s' => s'
    | none => countReq s p 3

/-! ### Messages (R394, R412–R416) -/

/-- The reason to reject a request before DM is looked at; 0: none. -/
def refusal (s : State) (m : InMsg) : Nat :=
  let p := m.part
  let r := reqOf m
  let x := sessAt s m.session
  if !bodyOk m.body || m.seq ≠ 0 then 1
  else match modelImage s p r.model with
    | none => if !inSpan s p m.session then 2 else 5
    | some img =>
      if (r.mode = 2) ≠ (img.svc.kind = 1) then 1
      else if img.lockstep && img.svc.entryMember ≠ some (memberNo s) then 9
      else if !inSpan s p m.session then 2
      else if x.st = .active || x.st = .resuming || hasReq s m.session then 3
      else if x.st ≠ .free && x.modelTag ≠ (modelEntry s p r.model).2.2 then 5
      else if img.svc.ctxMax < x.log.length + r.input.length then 8
      else 0

/-- The request opens or takes its session, ACCEPT goes out, and the deadline monitor judges it (R415, R418, R430). One
that no DM can be found for waits while parks are under way, and is rejected where none is. -/
def admission (s : State) (p us : Nat) (r : Req) : State :=
  match modelImage s p r.model with
  | none => rejectReq s p r 5
  | some img =>
    let x := sessAt s r.session
    let tag := (modelEntry s p r.model).2.2
    let opened :=
      if x.st = .free then openSess s p r.session img tag r.seed (r.input.length + r.maxTokens)
      else if x.st = .parking then some (stopPark r.session s)
      else some (updSess s r.session (fun z => { z with st := if z.st = .parked then .resuming else .active }))
    match opened with
    | none =>
      let (s, parks) := makeRoom s p (kvSize img.svc.kvPerToken (r.input.length + r.maxTokens))
      if parks then s else rejectReq s p r 4
    | some s =>
      let s := updSess s r.session (fun z => { z with requestId := r.reqId, pin := rPin r })
      let own := (sessAt s r.session).log.drop (sessAt s r.session).tokens
      let needs : Bool := (sessAt s r.session).st = .resuming
      let r := { r with accepted := true, resumed := needs, input := if r.mode = 2 then r.input else own ++ r.input }
      let s := judge (countReq (setReq s p r) p 1) p us r img
      match findReq s p r.session r.reqId with
      | none => s
      | some (q, r') =>
        let proj := match (partAt s q).image with
          | some i => projected s q us r' i - r.stamp
          | none => projected s q us r' img - r.stamp
        let body := natLe 1 q ++ natLe 1 (bnat needs + 2 * bnat r'.home.isSome) ++ zeros 2 ++ natLe 4 proj ++
          natLe 8 (sessAt s r.session).tokens
        let (s, r'') := answer s q r' mAccept body
        setReq s q r''

/-- REQUEST (R414–R416): a repeat is discarded; another is rejected or joins the intake, and sessions are parked where DM runs low (R420). -/
def clientRequest (m : InMsg) (s : State) : State :=
  if !partExists s m.part || s.rcv.resetting || s.rcv.withdrawn || intakeFull s m.part then s
  else if (findReq s m.part m.session m.reqId).isSome then s
  else
    let e := refusal s m
    if e ≠ 0 then refuseMsg s m e
    else
      let r := reqOf m
      parkLow (admission (updPart s m.part (fun x => { x with reqs := x.reqs ++ [r] })) m.part m.stamp r) m.part

/-- A CONTINUE body is well formed. -/
def contOk (mode : Nat) (b : List Byte) : Bool :=
  8 ≤ b.length && (leAt b 4 1 = 0 || leAt b 4 1 = 2) && leAt b 5 3 = 0 && b.length = 8 + unitSize mode * leAt b 0 4

/-- CONTINUE bodies appended in SEQ order, as far as they have come; `fuel` bounds them. -/
def takeEarly : Nat → Nat → Req → Req
  | 0, _, r => r
  | fuel + 1, us, r =>
    match r.early.find? (fun e => e.1 = r.nextSeq) with
    | none => r
    | some e =>
      let b := e.2
      let r := { r with early := r.early.filter (fun x => x.1 ≠ e.1), nextSeq := r.nextSeq + 1, lastIn := us,
                        input := r.input ++ unitsOf r.mode (b.drop 8),
                        flags := if leAt b 4 1 = 2 then r.flags else r.flags - 2 }
      if rMore r then takeEarly fuel us r else r

/-- CONTINUE (R414, R416): a repeat, or one for no request that waits for input, is discarded. -/
def continueReq (m : InMsg) (s : State) : State :=
  match findReq s m.part m.session m.reqId with
  | none => s
  | some (p, r) =>
    if !rMore r || m.seq < r.nextSeq || r.early.any (fun e => e.1 = m.seq) || !contOk r.mode m.body then s
    else
      let r' := takeEarly (r.early.length + 1) m.stamp { r with
        early := r.early ++ [(m.seq, m.body)], lastIn := if r.early.isEmpty then m.stamp else r.lastIn }
      let ctx := ((modelImage s p r.model).map (·.svc.ctxMax)).getD 0
      let s := setReq s p r'
      if ctx ≠ 0 && ctx < positionOf s p r' + r'.input.length then rejectReq s p r' 8 else s

/-- CANCEL (R424): noted until the next step boundary. -/
def cancel (m : InMsg) (s : State) : State :=
  match findReq s m.part m.session m.reqId with
  | none => s
  | some (p, r) => setReq s p { r with cancel := true }

/-- PING (R394): answered with the same body. -/
def ping (m : InMsg) (s : State) : State :=
  if !partExists s m.part || s.rcv.resetting || s.rcv.withdrawn then s
  else sendOut s m.part (doorOfMsg m) (colqua mPong m.part m.session m.reqId 0 m.body)

/-- A message that came through a door, by its TYPE. -/
def message (m : InMsg) (s : State) : State :=
  if m.type = 1 then clientRequest m s else if m.type = 2 then continueReq m s
  else if m.type = 3 then cancel m s else if m.type = 15 then ping m s else s

/-- FRAME (R391, R392). While the module resets, intake is stopped (R471). -/
def frame (n : Nat) (bytes : List Byte) (pcsError : Bool) (us : Nat) (s : State) : State :=
  let s := atUs s us
  let s := (mirrorsOf s n 0).foldl (fun s m =>
    { s with coppice := fmUpd portUnset s.coppice m (fun x => { x with outFrames := x.outFrames ++ [bytes] }) }) s
  if !portServes s n then s
  else match checkFrame s n bytes pcsError us with
    | .bad k => discardFrame n k s
    | .icmp none _ => s
    | .icmp (some a) dst => emitPort s n (fun m => .icmp m dst a)
    | .message m => if s.rcv.resetting then s else message m s

/-- INPUT_TIMEOUT (R416): 1 s after the last input, or after a datagram has come before a missing SEQ. -/
def inputTimeout (p reqId : Nat) (s : State) : State :=
  match (partAt s p).reqs.find? (fun r => r.reqId = reqId && rMore r) with
  | some r => rejectReq (atUs s (r.lastIn + 1000000)) p r 7
  | none => s

/-! ### Queue pairs (R410, R411, R413) -/

/-- SUBMISSION_ENTRY: the entry at HEAD read, with its message (none: the read failed). DESIGN CHOICE (log entry 104): a length or an address outside
its range sets BADENTRY; a message that fails step 5 of R392, or names another partition, is discarded uncounted. -/
def submissionEntry (p q : Nat) (entry : List Byte) (msg : Option (List Byte)) (us : Nat) (s : State) : State :=
  let s := atUs s us
  let x := qpAt s p q
  let n := leAt entry 8 2
  if !partExists s p || !qpEnable x || x.head = x.tail || intakeFull s p || s.rcv.resetting || s.rcv.withdrawn then s
  else
    let s := updQp s p q (fun x => { x with head := (x.head + 1) % 2 ^ qpSqLog x })
    if (entry.drop 10).any (· ≠ 0) || leAt entry 0 8 % 8 ≠ 0 then updQp s p q (fun x => { x with badEntry := true })
    else if n = 0 then s
    else if n < 32 || 9150 < n then updQp s p q (fun x => { x with badEntry := true })
    else match msg with
      | none => updQp s p q (fun x => { x with dmaErr := true })
      | some b =>
        let b := fit 0 n b
        if colquaOk b && leAt b 4 1 = p then message (inMsg us ⟨q, 0, [], 0, false, 0⟩ b) s else s

/-- QP_CTRL (R410). -/
def qpCtrl (p q : Nat) (v : Nat) (s : State) : State :=
  if !partExists s p then s
  else
    let on : Bool := v.testBit 31 && field v 7 0 ≠ 0 && 4 ≤ field v 19 16 && 12 ≤ field v 24 20 && field v 24 20 ≤ 24
    let w := bnat on * 2 ^ 31 + field v 24 16 * 2 ^ 16 + field v 7 0
    let s := if w = (qpAt s p q).ctrl.toNat then s else sealChanged s
    let n := 2 ^ field v 19 16
    let s := updQp s p q (fun x => { x with ctrl := BitVec.ofNat 32 w, tail := x.tail % n, head := x.head % n })
    drainPair s p q

/-- QP_SQ_TAIL (R410). -/
def qpSqTail (p q v : Nat) (s : State) : State :=
  if !partExists s p then s else updQp s p q (fun x => { x with tail := v % 2 ^ qpSqLog x })

/-- QP_RQ_HEAD (R410, R411): held responses go on. -/
def qpRqHead (p q v : Nat) (s : State) : State :=
  if !partExists s p then s else drainPair (updQp s p q (fun x => { x with rqHead := v % 2 ^ 32 })) p q

/-! ### A step boundary (R419–R431, R456, R457) -/

/-- REPLAY's answer: the log from REPLAY_FROM up to TOKENS (R416). -/
def replay (s : State) (p : Nat) (r : Req) : State × Req :=
  let x := sessAt s r.session
  let toks := ((x.log.take x.tokens).drop r.replayFrom)
  let per := min 64 ((bodyMax s (clientSide p r).1 (doorOf r) - 8) / 4)
  let parts := (chunks per (ceilDiv toks.length (max 1 per)) toks).zipIdx
  parts.foldl (fun (acc : State × Req) c =>
    answer acc.1 p acc.2 mTokens (natLe 1 p ++ natLe 1 c.1.length ++ natLe 2 0 ++ natLe 4 (r.replayFrom + per * c.2) ++
      c.1.flatMap (natLe 4))) (s, r)

/-- A request that asks for no step: no tokens, and no input beside the session's lag. -/
def asksNoStep (r : Req) : Bool := r.maxTokens = 0 && r.mode ≠ 2 && r.input.isEmpty && !rMore r && !r.started

/-- What a boundary settles before it builds a step: cancelled requests end; requests without a step end, a replay first;
requests without DM try again. -/
def settleReqs (s : State) (p us : Nat) : State :=
  let s := endAll s p 2 (·.cancel)
  let s := ((partAt s p).reqs.filter (fun r => !r.accepted)).foldl (fun s r => admission s p us r) s
  ((partAt s p).reqs.filter (fun r => r.accepted && (sessAt s r.session).st = .active && (asksNoStep r || (rReplay r && !rMore r && !r.started)))).foldl
    (fun s r =>
      if rReplay r then
        let (s, r) := replay s p r
        let s := setReq s p r
        if asksNoStep r || r.input.length ≤ lagOf (sessAt s r.session) then endReq s p r 0 else s
      else endReq s p r 0) s

/-- The model that a switch goes to (R423): that of the request that has waited longest, when no request of the present
model is in flight, or when the wait is longer than the hold. A lockstep image is launched by its group alone. -/
def switchTarget (s : State) (p us : Nat) : Option Nat :=
  let x := partAt s p
  let mine (r : Req) : Bool := some r.model = x.model
  let other := x.reqs.filter (fun r => r.accepted && !mine r && !((modelImage s p r.model).map (·.lockstep)).getD true)
  let oldest := other.foldl (fun (acc : Option Req) r => match acc with
    | some a => if r.waitFrom < a.waitFrom then some r else acc
    | none => some r) none
  match oldest with
  | none => none
  | some r =>
    let hold := dictNat s 0x3081 (p + 1) 50 * 1000
    if !x.reqs.any (fun r => mine r && r.inFlight) || r.waitFrom + hold < us then some r.model else none

/-- A model switch (R423, R429): another image is launched at the boundary; an image that a launch refuses changes nothing. -/
def switchModel (s : State) (p us m : Nat) : State :=
  match modelImage s p m with
  | none => s
  | some img =>
    let idle := endJob (updTiles s (partTiles s p) idleTile) p
    if !launchOk idle p img false then s
    else
      updPart (launchNow idle p img none) p (fun x => { x with
        model := some m, state := 5, switchFrom := some (us, fmGet 0 x.energy 18),
        reqs := x.reqs.map (fun r => if r.inFlight && r.model ≠ m then { r with waitFrom := us } else r) })

/-- The slot that a request would take in the next step (R421, R424); none where it waits. -/
def slotFor (s : State) (p : Nat) (img : Image) (r : Req) : Option StepSlot :=
  let mk (kind : Nat) (us : List Nat) (adv : Nat) (gives : Bool) : StepSlot :=
    { session := r.session, reqId := r.reqId, kind := kind, units := us, adv := adv, gives := gives, queue := intakeOf r }
  let given := r.generated + ((openSlots s p r).filter (·.gives)).length
  if !r.input.isEmpty then
    let us := r.input.take img.svc.prefillChunk
    let last : Bool := us.length = r.input.length && !rMore r
    if r.mode = 2 then some (mk 2 us 0 last) else some (mk 0 us us.length (last && r.maxTokens ≠ 0))
  else if rMore r then none
  else if r.mode = 2 then (if given = 0 then some (mk 2 [] 0 true) else none)
  else if given < r.maxTokens && positionOf s p r < img.svc.ctxMax then some (mk 1 [] 1 true)
  else none

/-- The session may be stepped. -/
def stepable (s : State) (p : Nat) (r : Req) : Bool :=
  r.accepted && !r.cancel && (sessAt s r.session).st = .active && !ringFull s p r && !(partAt s p).resumes.any (fun x => x.1 = r.session)

/-- The order within a queue (R427): deadlines first, then stamps. -/
def before (a b : Req) : Bool :=
  let k (r : Req) : Nat × Nat := if r.firstUs = 0 then (1, r.stamp) else (0, r.stamp + r.firstUs)
  (k a).1 < (k b).1 || ((k a).1 = (k b).1 && ((k a).2 < (k b).2 || ((k a).2 = (k b).2 && a.stamp < b.stamp)))

/-- The first request of a list in that order. -/
def headReq (rs : List Req) : Option Req :=
  rs.foldl (fun (acc : Option Req) r => match acc with
    | some a => if before r a then some r else acc
    | none => some r) none

/-- The range a slot needs (R419): its tokens, and the place in the log of the one it yields. -/
def needsTokens (pos : Nat) (x : StepSlot) : Nat := pos + x.adv + bnat (x.gives && x.kind ≠ 2)

/-- A capacity doubled until `n` tokens fit; `fuel` bounds the turns. -/
def doubled : Nat → Nat → Nat → Nat
  | 0, cap, _ => cap
  | fuel + 1, cap, n => if n ≤ cap || cap = 0 then cap else doubled fuel (2 * cap) n

/-- A session's capacity doubled, up to CTX_MAX, until `n` tokens fit (R419): a new range, a Husk copy, the old range
withdrawn. None where no DM is left. -/
def growKv (s : State) (i n ctx : Nat) : Option State :=
  let x := sessAt s i
  match capOf s x with
  | none => some s
  | some cap =>
    if n ≤ cap || !hasRange x then some s
    else
      let per := kvPer s x.part x.modelTag
      let new := max (min ctx (doubled 22 cap n)) n
      match giveKv s i x.part (kvSize per new) none with
      | none => none
      | some s =>
        let (s, bs, _) := huskRead x.part (x.kvBytes / 128 + 1) s (kvPa s x) (per * cap)
        let s := huskWrite s x.part (kvPa s (sessAt s i)) bs false
        let s := mirrorLog (dropRange s x.part x.slot) i 0 x.log
        let y := sessAt s i
        some (tellMembers s x.part (.capacity i y.kvVa y.kvBytes y.slot))

/-- The scheduler's work on a step: the state, the slots taken over, the picks, and requests looked at without a pick. -/
structure Build where
  s : State
  slots : List StepSlot
  picks : List StepSlot
  tried : List (Nat × Nat)

/-- A slot for a request, its capacity made sure of: a running request that finds no DM ends with reason 3, another is
rejected with reason 4, and either waits while parks are under way (R419). -/
def takeSlot (p : Nat) (img : Image) (r : Req) (b : Build) : Build × Option StepSlot :=
  match slotFor b.s p img r with
  | none => (b, none)
  | some x =>
    match growKv b.s r.session (needsTokens (positionOf b.s p r) x) img.svc.ctxMax with
    | some s => ({ b with s := s }, some x)
    | none =>
      let (s, parks) := makeRoom b.s p (sessAt b.s r.session).kvBytes
      if parks then ({ b with s := s }, none)
      else ({ b with s := if r.started then endReq s p r 3 else rejectReq s p r 4 }, none)

/-- Requests that keep their slot. -/
def keepSlots (p : Nat) (img : Image) (b : Build) : Build :=
  let rs := (partAt b.s p).reqs.filter (fun r => r.inFlight && some r.model = (partAt b.s p).model && stepable b.s p r)
  rs.foldl (fun b r =>
    match takeSlot p img r b with
    | (b, some x) => { b with slots := b.slots ++ [x] }
    | (b, none) => b) b

/-- Requests that a pick may look at: of the model that runs, without a slot, ready or parked. -/
def candidates (p : Nat) (b : Build) : List Req :=
  (partAt b.s p).reqs.filter (fun r => !r.inFlight && some r.model = (partAt b.s p).model && r.accepted && !r.cancel &&
    !ringFull b.s p r && !b.tried.contains (r.session, r.reqId) &&
    (stepable b.s p r || ((sessAt b.s r.session).st = .resuming && (movingOf b.s r.session false).isNone)))

/-- The ready queue with the smallest virtual time; ties to the lower number. -/
def nextQueue (p : Nat) (b : Build) (rs : List Req) : Option Nat :=
  (List.range 17).foldl (fun (acc : Option Nat) q =>
    if !rs.any (fun r => intakeOf r = q) then acc
    else match acc with
      | some a => if fmGet 0 (partAt b.s p).vtime q < fmGet 0 (partAt b.s p).vtime a then some q else acc
      | none => some q) none

/-- The picks (R427): a parked request's resume begins when it is picked; another takes a free slot. -/
def pick (p : Nat) (img : Image) : Nat → Build → Build
  | 0, b => b
  | fuel + 1, b =>
    let rs := candidates p b
    match (if img.svc.batchMax ≤ b.slots.length + b.picks.length then none else nextQueue p b rs) with
    | none => b
    | some q =>
      match headReq (rs.filter (fun r => intakeOf r = q)) with
      | none => b
      | some r =>
        let b := { b with tried := b.tried ++ [(r.session, r.reqId)] }
        if (sessAt b.s r.session).st = .resuming then pick p img fuel { b with s := resume r.session b.s }
        else match takeSlot p img r b with
          | (b, some x) => pick p img fuel { b with picks := b.picks ++ [x] }
          | (b, none) => pick p img fuel b

/-- Virtual times of queues that become ready (R429). -/
def readyQueues (s : State) (p : Nat) : State :=
  let rs := (partAt s p).reqs.filter (fun r => !r.inFlight && some r.model = (partAt s p).model && stepable s p r)
  let now := (List.range 17).filter (fun q => rs.any (fun r => intakeOf r = q))
  let old := now.filter (fun q => (partAt s p).readyQ.contains q)
  let low := old.foldl (fun (acc : Option Nat) q =>
    let v := fmGet 0 (partAt s p).vtime q
    match acc with
    | some a => some (min a v)
    | none => some v) none
  let fresh := now.filter (fun q => !(partAt s p).readyQ.contains q)
  updPart s p (fun x => { x with readyQ := now, vtime := match low with
    | some v => fresh.foldl (fun m q => fmUpd 0 m q (max v)) x.vtime
    | none => x.vtime })

/-- Estimate of a step of `n` slots, in µJ (R428, R457). -/
def estimate (x : Part) (img : Image) (n : Nat) : Nat :=
  if img.svc.eBase = 0 && img.svc.eSlot = 0 then (if x.stepEnergy.isEmpty then 0 else x.stepEnergy.sum / x.stepEnergy.length)
  else (img.svc.eBase + n * img.svc.eSlot) * 1000 * x.rho / 65536

/-- What a partition may still draw from the pool (R457). -/
def drawable (s : State) (p : Nat) : Nat :=
  if 2 ^ 19 ≤ epochCycle s s.cycle % 2 ^ 20 then s.gov.pool
  else
    let total := ((s.parts.filter (fun x => partExists s x.1)).map (·.2.share)).sum
    min s.gov.pool (s.gov.poolInit * (partAt s p).share / max 1 total - (partAt s p).drawn)

/-- The step is admitted against the balance and the pool. -/
def affordable (s : State) (p est : Nat) : Bool := (est : Int) ≤ (partAt s p).balance + drawable s p

/-- Picks kept so that the step fits, last dropped first. -/
def fitPicks (s : State) (p : Nat) (img : Image) (n : Nat) : Nat → Option Nat
  | 0 => if affordable s p (estimate (partAt s p) img n) then some 0 else none
  | k + 1 => if affordable s p (estimate (partAt s p) img (n + k + 1)) then some (k + 1) else fitPicks s p img n k

/-- The estimate taken from the balance, the shortfall from the pool. -/
def chargeStep (s : State) (p est : Nat) : State :=
  let b := (partAt s p).balance
  let own : Nat := min est b.toNat
  let rest := est - own
  updPart { s with gov := { s.gov with pool := s.gov.pool - rest } } p (fun x => { x with balance := x.balance - own, drawn := x.drawn + rest })

/-- Bytes of a step's slot (R421). -/
def slotBytes (s : State) (p : Nat) (r : Req) (x : StepSlot) (off : Nat) : List Byte :=
  let y := sessAt s x.session
  natLe 4 x.session ++ natLe 1 x.kind ++ natLe 1 (bnat !r.started) ++ natLe 2 x.units.length ++ natLe 8 (positionOf s p r) ++
  natLe 8 y.kvVa ++ natLe 8 y.seed ++ natLe 4 off ++ natLe 2 r.topK ++ natLe 1 r.mode ++ zeros 1 ++ natLe 4 r.temp ++
  natLe 4 r.topP ++ r.stop.flatMap (natLe 4)

/-- The header of a step record. -/
def stepHeader (no n tag : Nat) : List Byte := natLe 8 no ++ natLe 4 n ++ natLe 4 tag ++ zeros 48

/-- Input bytes of a slot. -/
def inputBytes (x : StepSlot) : List Byte := x.units.flatMap (natLe (if x.kind = 2 then 1 else 4))

/-- A step record written: input area, slots, header; the header's bytes count at STEP_TILE (R421). -/
def writeStep (s : State) (p : Nat) (img : Image) (no : Nat) (inputs : List (Nat × List Byte)) (slots header : List Byte) : State :=
  let base := img.svc.stepArea + no % 2 * (64 + 64 * img.svc.batchMax)
  let s := inputs.foldl (fun s i => writeVa p s (img.svc.inputArea + i.1) i.2) s
  let s := writeVa p (writeVa p s (base + 64) slots) base header
  if img.svc.stepTile < nTiles then updTile s img.svc.stepTile (acAdd s.cycle (img.svc.stepAc % 64) 64) else s

/-- The requests of a step give their input to it and keep their slots from here on. -/
def commitSlot (p : Nat) (s : State) (x : StepSlot) : State :=
  updPart s p (fun y => { y with reqs := y.reqs.map (fun r =>
    if r.session = x.session && r.reqId = x.reqId then
      { r with inFlight := true, started := true, input := r.input.drop x.units.length }
    else r) })

/-- A built and admitted step goes out. -/
def sendStep (s : State) (p us : Nat) (img : Image) (job : Job) (slots : List StepSlot) : State :=
  let est := estimate (partAt s p) img slots.length
  let s := chargeStep s p est
  let off0 := if job.open_.isEmpty then 0 else (partAt s p).inputOff
  let laid := slots.foldl (fun (acc : List (StepSlot × Nat) × Nat) x => (acc.1 ++ [(x, acc.2)], acc.2 + (inputBytes x).length)) ([], off0)
  let bytes := laid.1.flatMap (fun x =>
    match (partAt s p).reqs.find? (fun r => r.session = x.1.session && r.reqId = x.1.reqId) with
    | some r => slotBytes s p r x.1 x.2
    | none => zeros 64)
  let header := stepHeader job.step slots.length img.modelTag
  let s := writeStep s p img job.step (laid.1.map (fun x => (x.2, inputBytes x.1))) bytes header
  let s := tellMembers s p (.stepRecord (header ++ bytes ++ slots.flatMap inputBytes))
  let s := slots.foldl (commitSlot p) s
  let o : OpenStep := { no := job.step, startUs := us, startE := fmGet 0 (partAt s p).energy 18, est := est, slots := slots }
  updPart s p (fun x => { x with inputOff := laid.2, job := x.job.map (fun j => { j with step := j.step + 1, open_ := j.open_ ++ [o] }) })

/-- The next step built, admitted and written. -/
def buildStep (s : State) (p us : Nat) : State :=
  match (partAt s p).job, (partAt s p).image with
  | some job, some img =>
    if (partAt s p).model.isNone || !job.started || 2 ≤ job.open_.length || (img.lockstep && !isEntry s p) then s
    else
      let s := readyQueues s p
      let b := keepSlots p img { s := s, slots := [], picks := [], tried := [] }
      let b := pick p img (2 * (partAt s p).reqs.length + 1) b
      match fitPicks b.s p img b.slots.length b.picks.length with
      | none => b.s
      | some k =>
        let slots := b.slots ++ b.picks.take k
        if slots.isEmpty then b.s else sendStep b.s p us img job slots
  | _, _ => s

/-- STEP_BOUNDARY. -/
def stepBoundary (p us : Nat) (s : State) : State :=
  let s := atUs s us
  if !partExists s p || s.rcv.resetting || s.rcv.withdrawn then s
  else
    let s := settleReqs s p us
    let s := match (partAt s p).image with
      | some img => (partAt s p).reqs.foldl (fun s r => if r.accepted then judge s p us r img else s) s
      | none => s
    if (partAt s p).hold then s
    else
      let free : Bool := (((partAt s p).job.map (fun j => j.open_.isEmpty && j.started && !j.lockstep)).getD true)
      let s := match (if free then switchTarget s p us else none) with
        | some m => switchModel s p us m
        | none => s
      let s := parkLow (buildStep s p us) p
      updPart s p (fun x => { x with balanceAt := x.balance })

/-! ### A step's output (R422, R424, R429, R432, R455–R458) -/

/-- TOKENS of one generated token with its text (R415). -/
def sendToken (s : State) (p us : Nat) (r : Req) (idx tok : Nat) (text : List Byte) : State × Req :=
  let (s, r) := answer s p r mTokens (natLe 1 p ++ natLe 1 1 ++ natLe 2 text.length ++ natLe 4 idx ++ natLe 4 tok ++ text)
  let late : Bool := r.firstAt.isSome && r.tokenUs ≠ 0 && r.lastAt + r.tokenUs < us
  let s := if late then countReq s (clientSide p r).1 4 else s
  (s, { r with generated := r.generated + 1, firstAt := some (r.firstAt.getD us), lastAt := us, misses := r.misses + bnat late })

/-- RESULT messages of an opaque output (R415). -/
def sendResult (s : State) (p : Nat) (r : Req) (bs : List Byte) : State × Req :=
  let per := bodyMax s (clientSide p r).1 (doorOf r)
  (chunks per (ceilDiv bs.length (max 1 per)) bs).foldl (fun (acc : State × Req) c => answer acc.1 p acc.2 mResult c) (s, r)

/-- Tokens entered in the log of the serving session, and of the primary of a rerouted request (R419, R431). -/
def logTokens (s : State) (r : Req) (k : Nat) (toks : List Nat) : State :=
  let s := putLog s r.session k toks
  match r.home with
  | some (_, i) => putLog s i k toks
  | none => s

/-- The session is held here. -/
def holds (s : State) (i : Nat) : Bool := (sessAt s i).st ≠ .free

/-- A slot of a finished step on a member that did not take it: the session's position and log move on. -/
def memberSlot (us : Nat) (s : State) (x : StepSlot) (out : List Byte) : State :=
  if x.kind = 2 then s
  else
    let pos := (sessAt s x.session).tokens
    let s := if x.kind = 0 then putLog s x.session pos x.units else s
    let s := putLog s x.session (pos + x.adv) [leAt out 0 4]
    updSess s x.session (fun y => { y with tokens := pos + x.adv, lastUse := us - s.boot.readyUs })

/-- One slot of a finished step: its session moves on, its token or result goes out, its request may end. -/
def slotDone (p us : Nat) (img : Image) (s : State) (x : StepSlot) (out : List Byte) : State :=
  match (partAt s p).reqs.find? (fun r => r.session = x.session && r.reqId = x.reqId) with
  | none => if img.lockstep && !isEntry s p && holds s x.session then memberSlot us s x out else s
  | some r =>
    let pos := (sessAt s x.session).tokens
    let s := if x.kind = 0 then logTokens s r pos x.units else s
    let s := updSess s x.session (fun y => { y with tokens := pos + x.adv, lastUse := us - s.boot.readyUs })
    let idle : Bool := r.input.isEmpty && !rMore r && (openSlots s p r).isEmpty
    if x.kind = 2 then
      if !x.gives then s
      else
        let (s, bs) := readVa p s (leAt out 8 8) (leAt out 6 2)
        let (s, r) := sendResult s p r bs
        endReq (setReq s p r) p r 0
    else if !x.gives then (if idle && r.maxTokens = 0 then endReq s p r 0 else s)
    else
      let s := logTokens s r (pos + x.adv) [leAt out 0 4]
      let (s, r) := sendToken s p us r (pos + x.adv) (leAt out 0 4) ((out.drop 16).take (min 48 (leAt out 5 1)))
      let s := setReq s p r
      if leAt out 4 1 = 1 then endReq s p r 1
      else if r.maxTokens ≤ r.generated then endReq s p r 0
      else if img.svc.ctxMax ≤ pos + x.adv + 1 then endReq s p r 3
      else s

/-- A step's tile-µs and energy split among its slots (R429, R455). -/
def chargeSlots (p t e : Nat) (slots : List StepSlot) (s : State) : State :=
  let n := max 1 slots.length
  slots.foldl (fun s x =>
    let w := if x.queue = 16 then (partAt s p).svcWeight else qpWeight (qpAt s p x.queue)
    updPart s p (fun y => { y with
      account := fmUpd 0 y.account x.queue (fun v => satAdd (2 ^ 64 - 1) v (t / n)),
      energy := fmUpd 0 y.energy x.queue (fun v => satAdd (2 ^ 64 - 1) v (e / n)),
      vtime := fmUpd 0 y.vtime x.queue (fun v => v + t / n * 65536 / max 1 w),
      reqs := y.reqs.map (fun r => if r.session = x.session && r.reqId = x.reqId then { r with engine := satAdd (2 ^ 64 - 1) r.engine (t / n) } else r) })) s

/-- A running mean with weight 1/16, in 1/65,536 µs (R430). -/
def meanStep (tau d : Nat) : Nat := if tau = 0 then d * 65536 else ((tau : Int) + ((d * 65536 : Nat) - (tau : Int)) / 16).toNat

/-- The estimate factor after a step (R458). -/
def rhoStep (rho e plain : Nat) : Nat :=
  if plain = 0 then rho
  else (clampInt 32768 131072 ((rho : Int) + (((e * 65536 / plain : Nat) : Int) - (rho : Int)) / 16)).toNat

/-- STEP_OUTPUT: the firmware reads the output that the job has reported, of the oldest step under way. -/
def stepOutput (p us : Nat) (s : State) : State :=
  let s := atUs s us
  match (partAt s p).job, (partAt s p).image with
  | some job, some img =>
    match job.open_ with
    | [] => s
    | o :: rest =>
      let x := partAt s p
      if x.outputs = 0 then s
      else
        let d := us - o.startUs
        let e := fmGet 0 x.energy 18 - o.startE
        let plain := (img.svc.eBase + o.slots.length * img.svc.eSlot) * 1000
        let next := match rest with
          | [] => []
          | n :: ns => { n with startUs := us, startE := fmGet 0 x.energy 18 } :: ns
        let prefill := o.slots.any (·.kind = 0)
        let s := updPart s p (fun x => { x with
          job := some { job with open_ := next }, outputs := x.outputs - 1,
          tauP := if prefill then meanStep x.tauP d else x.tauP, tauD := if prefill then x.tauD else meanStep x.tauD d,
          rho := rhoStep x.rho e plain, balance := x.balance + o.est - e,
          stepEnergy := (e :: x.stepEnergy).take 16 })
        let s := chargeSlots p (16 * x.blocks.length * d) e o.slots s
        let (s, outs) := readVa p s img.svc.outputArea (64 * o.slots.length)
        (o.slots.zipIdx).foldl (fun s y => slotDone p us img s y.1 ((outs.drop (64 * y.2)).take 64)) s
  | _, _ => s

/-! ### Parks and resumes that requests wait for -/

/-- SESSION_PARKED: requests that wait for DM try again. -/
def parkedRetry (i : Nat) (s : State) : State :=
  let p := (sessAt s i).part
  let had := (movingOf s i true).isSome
  let s := sessionParked i s
  if had then ((partAt s p).reqs.filter (fun r => !r.accepted)).foldl (fun s r => admission s p s.us r) s else s

/-- RESUME_COMPLETE: the session is resident, and active where a request waits; or the resume fails, and the request is
rejected (R329, R418). -/
def resumeComplete (i : Nat) (s : State) : State :=
  match movingOf s i false with
  | none => s
  | some mv =>
    let ok := resumeOk s mv
    let s := { s with seed := { s.seed with moving := s.seed.moving.erase mv } }
    let p := mv.part
    if ok then
      let s := resumeLand mv s
      let s := if hasReq s i then updSess s i (fun y => { y with st := .active }) else s
      tellEntry s p (.confirm i (memberNo s))
    else
      let s := resumeFail mv s
      match (partAt s p).reqs.find? (fun r => r.session = i) with
      | some r => rejectReq s p r 6
      | none => s

/-- RESUME_CONFIRMATION_TIMEOUT (R426): 10 ms after the resume was sent. -/
def confirmTimeout (p i : Nat) (s : State) : State :=
  match (partAt s p).resumes.find? (fun x => x.1 = i && !x.2.2.isEmpty) with
  | none => s
  | some x =>
    let s := updPart (atUs s (x.2.1 + 10000)) p (fun x => { x with resumes := x.resumes.filter (fun y => y.1 ≠ i) })
    match (partAt s p).reqs.find? (fun r => r.session = i) with
    | some r => rejectReq s p r 6
    | none => s

/-! ### Session commands on the other members (R426, R459, R481) -/

/-- Slots of a received step record, with their input bytes. -/
def recordSlots (rec_ : List Byte) : List (StepSlot × Nat) :=
  let n := leAt rec_ 8 4
  ((chunks 64 n ((rec_.drop 64).take (64 * n))).foldl (fun (acc : List (StepSlot × Nat) × Nat) c =>
    let kind := leAt c 4 1
    let size := leAt c 6 2 * (if kind = 2 then 1 else 4)
    let bs := ((rec_.drop (64 + 64 * n + acc.2)).take size)
    let us := unitsOf (if kind = 2 then 2 else 0) bs
    (acc.1 ++ [({ session := leAt c 0 4, reqId := 0, kind := kind, units := us,
                  adv := if kind = 0 then us.length else if kind = 1 then 1 else 0, gives := false, queue := 16 }, leAt c 32 4)],
     acc.2 + size)) ([], 0)).1

/-- A step record applied on a member: written to its own step area; the step is awaited, without admission. -/
def memberStep (p : Nat) (rec_ : List Byte) (s : State) : State :=
  match (partAt s p).job, (partAt s p).image with
  | some job, some img =>
    let xs := recordSlots rec_
    let n := leAt rec_ 8 4
    let s := writeStep s p img (leAt rec_ 0 8) (xs.map (fun x => (x.2, inputBytes x.1))) ((rec_.drop 64).take (64 * n)) (rec_.take 64)
    let o : OpenStep := { no := leAt rec_ 0 8, startUs := s.us, startE := fmGet 0 (partAt s p).energy 18, est := 0, slots := xs.map (·.1) }
    updPart s p (fun y => { y with job := some { job with step := leAt rec_ 0 8 + 1, open_ := job.open_ ++ [o] } })
  | _, _ => s

/-- SESSION_COMMAND (R426, R481). -/
def sessionCommand (p : Nat) (c : SessCmd) (s : State) : State :=
  if !partExists s p then s
  else match c with
    | .openSession i tag va bytes slot seed =>
      if !inSpan s p i then s
      else
        let s := updSess (closeSess 32 s i) i (fun _ => { sessReset with st := .resident, part := p, modelTag := tag, seed := seed })
        (giveKv s i p bytes (some (va, slot))).getD s
    | .park i => if holds s i then startPark i s else tellEntry s p (.absent i (memberNo s))
    | .resume i =>
      if !holds s i then tellEntry s p (.absent i (memberNo s))
      else if (sessAt s i).st = .parking then tellEntry (updSess (stopPark i s) i (fun y => { y with st := .resident })) p (.confirm i (memberNo s))
      else if (sessAt s i).st = .resident then tellEntry s p (.confirm i (memberNo s))
      else resume i s
    | .close i => if holds s i then closeSess 32 s i else tellEntry s p (.absent i (memberNo s))
    | .capacity i va bytes slot =>
      if !holds s i then tellEntry s p (.absent i (memberNo s))
      else
        let x := sessAt s i
        match giveKv s i p bytes (some (va, slot)) with
        | none => s
        | some s' =>
          if !hasRange x then s'
          else
            let n := min x.kvBytes bytes
            let (s', bs, _) := huskRead p (n / 128 + 1) s' (kvPa s x) n
            mirrorLog (dropRange (huskWrite s' p (kvPa s' (sessAt s' i)) bs false) p x.slot) i 0 x.log
    | .stepRecord rec_ => memberStep p rec_ s
    | .confirm i m =>
      updPart s p (fun x => { x with resumes := (x.resumes.map (fun y => if y.1 = i then (i, y.2.1, y.2.2.filter (· ≠ m)) else y)).filter (fun y => !y.2.2.isEmpty) })
    | .absent i _ => updSess s i (fun x => { x with tokens := 0 })

end Sys2Proof.Machine
end

