-- ==== Sys2Proof/Machine/Kill.lean ====
section
/-!
DEFINITION. Job kills (R49, R121, R137, R163–R165, R218, R425, R464–R469, R475–R480): detectors, the kill with its fault
record, requests and relaunch, the start of a hang snapshot.
-/

namespace Sys2Proof.Machine

/-- The cause codes of R479 that a command names. -/
def causeCode (c : KillCause) : Nat :=
  match c with
  | .fault => 0x10
  | .partitionReset => 0x11
  | .stepWatchdog => 0x12
  | .peerLoss => 0x13
  | .lag => 0x14
  | .drain => 0x15
  | .commanded => 0x16
  | .deletion => 0x17

/-- END for every request in flight (R404, R425). -/
def endInFlight (s : State) (p reason : Nat) : State := endAll s p reason (·.inFlight)

/-- The relaunch after a kill, or the hold (R469): kills of the last 60 s are counted; past the limit of 0x9020, which the first kill is
where it is 0, the hold flag is set and nothing relaunched; a lockstep image is not relaunched. -/
def afterKill (s : State) (p : Nat) (img : Option Image) : State :=
  let limit := dictNat s 0x9020 (p + 1) 3
  let kills := (partAt s p).kills.filter (fun t => s.us < t + 60000000) ++ [s.us]
  let s := updPart s p (fun x => { x with kills := kills })
  if limit < kills.length then updPart s p (fun x => { x with hold := true })
  else match img with
    | some i => if !i.lockstep && launchOk s p i false then launchNow s p i none else s
    | none => s

/-- The kill of a job: tiles, fault record, requests; then a relaunch where `again` says so. -/
def killNow (s : State) (p cause : Nat) (again : Bool) : State :=
  if (partAt s p).job.isNone then s
  else
    let img := (partAt s p).image
    let s := endInFlight (killTiles s p cause) p 4
    if again then afterKill s p img else updPart s p (fun x => { x with kills := x.kills ++ [s.us] })

/-- 0x9040 selects a domain for sampling: bit 0 job, 1 partition, 2 device, 3 module. -/
def sampled (s : State) (domain : Nat) : Bool := (dictNat s 0x9040 0 0x0C).testBit (domain - 1)

/-- Tiles of a partition, or of the device, as a domain's snapshot asks them. -/
def domainTiles (s : State) (p : Option Nat) : List Nat :=
  match p with
  | some p => partTiles s p
  | none => List.range nTiles

/-- A hang snapshot begins (R475): SNAP_REQ stops the compute sub-domains of the domain's tiles and captures their records;
what follows it is noted. -/
def startSnap (s : State) (domain cause : Nat) (p : Option Nat) : State :=
  let tiles := domainTiles s p
  let parts := match p with
    | some p => 2 ^ p
    | none => ((s.parts.filter (fun x => partExists s x.1)).map (fun x => 2 ^ x.1)).sum
  let up := tiles.filter (twigUp s)
  let s' := updTiles s up (fun y => freezeTile s.cycle s.fresh 0 y)
  let s' := up.foldl (fun s t => updTile s t (fun y => { y with captured := natLe 2 t ++ y.captured.drop 2 })) s'
  let snap : Snap := { domain := domain, cause := cause, parts := parts, cycle := s.cycle, us := s.us, tiles := tiles, got := [], stoppedClock := false }
  { s' with fresh := s.fresh + 1, rcv := { s.rcv with snap := some snap, after := some (domain, cause, p) } }

/-- A job kill by a detector (R464): where jobs are sampled, the snapshot goes first; one under way for a reset that takes the job with it
goes on (R475, R484). -/
def killJob (s : State) (p cause : Nat) : State :=
  if (partAt s p).job.isNone then s
  else if sampled s 1 && s.rcv.snap.isNone then startSnap s 1 cause (some p)
  else match s.rcv.after with
    | some (d, _, q) => if q = some p || (s.rcv.snap.isSome && 3 ≤ d) then s else killNow s p cause true
    | none => killNow s p cause true

/-! ### Detectors of one partition -/

/-- The partition's job settings, if tile `t` runs for one. -/
def jobOf (s : State) (t : Nat) : Option Job := if (tileAt s t).regs.partValid then (partAt s (partOf s t)).job else none

/-- JOB_KILL: a fault kill needs a fault that a tile has to report; a partition reset and a deletion kill without a
relaunch. -/
def jobKill (p : Nat) (c : KillCause) (s : State) : State :=
  match c with
  | .fault => if (owedFaults s p).isEmpty && (partAt s p).faults.faults.isEmpty then s else killJob s p 0x10
  | .partitionReset | .deletion => killNow s p (causeCode c) false
  | _ => killJob s p (causeCode c)

/-- WAIT_TIMEOUT: the wait of the sequencer, or of a group, has lasted the wait timeout (R121). A wait whose counter has
reached the threshold succeeds. -/
def waitTimeout (t : Nat) (g : Option Nat) (s : State) : State :=
  match jobOf s t with
  | none => s
  | some job =>
    let y := tileAt s t
    match g with
    | none =>
      match y.seq.hold with
      | .counter ac thr =>
        if thr ≤ acNow y ac then s
        else
          let s := atUs s (y.seq.holdUs + job.waitUs)
          let z := (tileAt s t).seq
          if z.hold ≠ .counter ac thr || z.holdUs ≠ y.seq.holdUs then s
          else killJob (updTile s t (raiseSeq s.cycle 0x05)) (partOf s t) 0x10
      | _ => s
    | some g =>
      match groupAt y g with
      | some x =>
        match x.pend with
        | .counter ac thr =>
          if thr ≤ acNow y ac then s
          else
            let s := atUs s (x.waitUs + job.waitUs)
            match groupAt (tileAt s t) g with
            | some z =>
              if z.pend ≠ x.pend || z.waitUs ≠ x.waitUs then s
              else killJob (updTile s t (gxFault s.cycle 0x05 g 0 z z.active.toNat)) (partOf s t) 0x10
            | none => s
        | _ => s
      | none => s

/-- The sequencer is held as R467 lists: full mover, send queue, posts, or a Sheller underrun. -/
def stalled (t : Tile) : Bool :=
  match t.seq.hold with
  | .mover | .sendQueue | .posts => true
  | .counter _ _ => false
  | .none => t.seq.stallUs.isSome

/-- SEQUENCER_STALL_TIMEOUT (R467). -/
def stallTimeout (t : Nat) (s : State) : State :=
  match jobOf s t with
  | none => s
  | some job =>
    let y := tileAt s t
    let since (q : Seq) : Nat := if q.hold = .none then q.stallUs.getD 0 else q.holdUs
    if !stalled y then s
    else
      let s := atUs s (since y.seq + job.waitUs)
      let z := tileAt s t
      if !stalled z || z.seq.hold ≠ y.seq.hold || since z.seq ≠ since y.seq then s
      else killJob (updTile s t (raiseSeq s.cycle 0x05)) (partOf s t) 0x10

/-- FORWARD_PROGRESS_TIMEOUT (R137): a wait on a counter counts against the wait timeout instead. -/
def progressTimeout (t g : Nat) (s : State) : State :=
  match jobOf s t, groupAt (tileAt s t) g with
  | some job, some x =>
    match x.pend with
    | .counter _ _ => s
    | _ =>
      let s := atUs s (x.issueUs + job.forwardUs)
      match groupAt (tileAt s t) g with
      | some z =>
        if z.issueUs ≠ x.issueUs || z.num ≠ x.num || z.cohort ≠ x.cohort then s
        else killJob (updTile s t (gxFault s.cycle 0x06 g 0 z z.active.toNat)) (partOf s t) 0x10
      | none => s
  | _, _ => s

/-- STEP_WATCHDOG (R464): the oldest step under way has not been reported in time. -/
def stepWatchdog (p : Nat) (s : State) : State :=
  match (partAt s p).job with
  | some job =>
    match job.open_ with
    | o :: _ => killJob (atUs s (o.startUs + 1000 * job.watchdogMs)) p 0x12
    | [] => s
  | none => s

/-- DRAIN_ABANDONED (R284): 100 ms after w; the drain then finishes under the kill. -/
def drainAbandoned (p : Nat) (s : State) : State :=
  match (xlAt s p).withdrawal with
  | some wd =>
    if !wd.done || wd.waiting.isEmpty then s
    else
      let s := atUs s (wd.us + 100000)
      let s := updXl s p (fun x => { x with withdrawal := x.withdrawal.map (fun w => { w with abandoned := true }) })
      if (xlAt s p).withdrawal.isNone then s else killJob s p 0x15
  | none => s

/-- PRUNE_FRAME_F (R43, R47): a job that does not tolerate the prune is killed at F. -/
def pruneFrameF (t : Nat) (s : State) : State :=
  match (tileAt s t).prune with
  | some (_, false) =>
    let tolerant := (tileAt s t).tolerant
    let s := frameF t s
    if (tileAt s t).regs.partValid && !tolerant then killJob s (partOf s t) 0x10 else s
  | _ => s

/-! ### Routers that fail (R49, R466) -/

/-- A partition's schedule routes through the router of a tile: its own tile, or a scheduled entry there, in a table in force or in any
that the image loads for a phase (R49). -/
def routesThrough (s : State) (p t : Nat) : Bool :=
  let r := (tileAt s t).router
  let image := ((partAt s p).image.map (fun i => i.slots ++ i.laterSlots.flatten)).getD []
  inPart s p t || image.any (fun x => x.tile = t && (entryInput x.out x.entry).isSome) ||
  (r.active ++ r.shadow).any (fun e => (entryInput (e.1 / 512) e.2).isSome && ownsSlot s p t (e.1 / 512) (e.1 % 512))

/-- The tile set to RouterFault, the tiles that both Twig orders cut off from then on with it (R200), and every job that routes through one
of their routers killed (R49). -/
def routerFault (t : Nat) (s : State) : State :=
  let bad (s : State) : List Nat := (List.range nTiles).filter (fun u => (tileAt s u).regs.state = .routerFault)
  let s' := faultCut 528 (dieOf t) (faultAt (updTile s t (fun y => { y with prune := none })) t)
  let new := (bad s').filter (fun u => u = t || !(bad s).contains u)
  let ps := (s.parts.map (·.1)).filter (fun p => (partAt s p).job.isSome && new.any (routesThrough s p))
  ps.foldl (fun s p => killJob s p 0x10) s'

/-- The report is a register's value. -/
def isReply (r : Report) : Bool :=
  match r with
  | .regData _ _ => true
  | _ => false

/-- HEARTBEAT_PROBE_TIMEOUT (R466): 2,048 cycles after the probe; the first is sent again by the opposite route. -/
def probeTimeout (t : Nat) (s : State) : State :=
  let n := fmGet 0 s.esp.probes t
  if n = 0 then s
  else
    let s := advanceTo s (fmGet 0 s.esp.probeAt t + 2048)
    if (tileAt s t).reports.any isReply then s
    else if n = 1 then probe true t s
    else routerFault t (endProbe t s)

/-- ROUTER_FAILURE (R49): ROUTER_OK, or TWIG_OK, goes to 0. -/
def routerFailure (t : Nat) (twig : Bool) (s : State) : State :=
  if (tileAt s t).regs.state = .off then s
  else
    routerFault t (updTile s t (fun y => { y with
      regs := { y.regs with twigOk := y.regs.twigOk && !twig, routerOk := y.regs.routerOk && twig } }))

/-! ### Commands of the operator (R469, R483) -/

/-- JOB_KILL_COMMAND. -/
def killCommand (p : Nat) (s : State) : State := if partExists s p then killJob s p 0x16 else s

/-- HOLD_FLAG_CLEAR (R469): the hold goes, and the firmware relaunches what it had stopped relaunching. -/
def holdClear (p : Nat) (s : State) : State :=
  let x := partAt s p
  let s := updPart s p (fun x => { x with hold := false })
  match x.image with
  | some i =>
    if x.hold && x.job.isNone && !i.lockstep && dictNat s 0x9020 (p + 1) 3 ≠ 0 && launchOk s p i false then launchNow s p i none else s
  | none => s

/-- Bytes of the fault record (R165). -/
def faultBytes (l : FaultLog) : List Byte :=
  let first := match l.faults with
    | [] => natLe 4 0 ++ natLe 1 0xFF ++ zeros 15 ++ natLe 1 l.cause ++ zeros 3 ++ zeros 16 ++ natLe 1 0 ++ natLe 1 l.later ++ zeros 22
    | f :: _ =>
      natLe 1 f.code ++ natLe 1 f.engine ++ natLe 2 f.tile ++ natLe 1 f.gslot ++ zeros 1 ++ natLe 2 f.layer ++ natLe 2 f.opid ++
      zeros 2 ++ natLe 4 f.mask ++ natLe 4 f.ioff ++ natLe 1 l.cause ++ zeros 3 ++ natLe 8 f.addr ++ natLe 8 f.cycle ++
      natLe 1 (l.faults.length - 1) ++ natLe 1 l.later ++ zeros 22
  let rest := (l.faults.drop 1).flatMap (fun f =>
    natLe 1 f.code ++ natLe 1 f.engine ++ natLe 2 f.tile ++ natLe 1 f.gslot ++ zeros 1 ++ natLe 2 f.opid ++ natLe 8 f.addr)
  let none_ := natLe 4 0 ++ natLe 1 0xFF ++ zeros 11
  fit 0 64 first ++ fit 0 128 (rest ++ (List.replicate (8 - (l.faults.length - 1)) none_).flatten)

end Sys2Proof.Machine
end

