-- ==== Sys2Proof/Machine/Coppice.lean ====
section
/-!
DEFINITION. The Coppice fabric (R364–R390): cells and control blocks of the lockstep stream, send and landing tables,
alignment and group time, frequency blocks, lockstep launches and the loss of a peer, window cells and their landing.
-/

namespace Sys2Proof.Machine

/-! ### Ports -/


/-- A CP_EVENT bit (R396) with the device event. -/
def portEvent (n b : Nat) (s : State) : State :=
  devEvent 3 (updNo s n (fun x => { x with event := x.event ||| BitVec.ofNat 6 (2 ^ b) }))

/-- Bit 8 of 0x1010: some port in a role is up (R535). -/
def coppiceReady (s : State) : State :=
  let up := (List.range 8).any (fun n => (portNo s n).role ≠ 0 && ((portNo s n).state = 3 || (portNo s n).state = 4))
  let bit := BitVec.ofNat 32 (2 ^ 8)
  { s with boot := { s.boot with ready := if up && s.boot.ready.toNat.testBit 2 then s.boot.ready ||| bit else s.boot.ready &&& ~~~bit } }

/-- Every partition with a lockstep job is killed with a cause. -/
def killLockstep (s : State) (cause : Nat) : State :=
  let ps := (s.parts.filter (fun x => x.2.job.any (·.lockstep))).map (·.1)
  ps.foldl (fun s p => killJob s p cause) s

/-! ### Control blocks (R371) -/

/-- Bits [256:1] of a block. -/
def blockBits (b : BitVec 257) : Nat := b.toNat / 2

/-- The block is a control block of the type. -/
def isBlock (b : BitVec 257) (type : Nat) : Bool := b.toNat % 2 = 0 && field (blockBits b) 255 248 = type

/-- A block received: mirrored, and the discarding of cells after an uncorrectable codeword ends (R376). A block of a type
that is not listed is discarded and counted (R371). `f` is what a block of the type `type` does. -/
def onBlock (n : Nat) (b : BitVec 257) (type : Nat) (f : State → State) (s : State) : State :=
  let x := portNo s n
  if x.role ≠ 1 || x.state < 3 || x.state = 5 || b.toNat % 2 = 1 then s
  else
    let s := (mirrorsOf s n 0).foldl (fun s m => updNo s m (fun x => { x with outBlocks := x.outBlocks ++ [(s.cycle, b.toNat)] })) s
    let s := updNo s n (fun x => { x with skip := false })
    if isBlock b type then f s else portCount n 5 s

/-- FILL (R371). -/
def fillBlock (n : Nat) (b : BitVec 257) (s : State) : State := onBlock n b 0x1F id s

/-! ### Alignment (R378–R384) -/

/-- A port's alignment begins: 64 requests from the present cycle on (R381 step 2). -/
def startAlign (n : Nat) (s : State) : State := updNo s n (fun x => { x with reqAt := s.cycle, samples := [] })

/-- A value put in its place. -/
def insertInt (v : Int) : List Int → List Int
  | [] => [v]
  | w :: ws => if v ≤ w then v :: w :: ws else w :: insertInt v ws

/-- The median of an even number of values. DESIGN CHOICE (log entry 103): the lower of the two in the middle. -/
def median (xs : List Int) : Int := (xs.foldl (fun acc v => insertInt v acc) []).getD ((xs.length - 1) / 2) 0

/-- F_MIN of a delay in cycles at the point in force (R383): D at the highest frequency, 2,000 MHz. -/
def fMinOf (point : Nat) (d : Int) : Nat := ceilDiv (d.toNat * 2000 + 16 * pointMhz point) (64 * pointMhz point)

/-- The module's time is the group's: its measured lockstep ports are aligned, in state 4 (R381). -/
def allAligned (s : State) : State :=
  let up (x : Port) : Port := if x.role = 1 && x.state = 3 && x.measured then { x with state := 4, skewValid := false } else x
  coppiceReady { s with coppice := fmMap portUnset up s.coppice }

/-- The parent port takes its step 4 or 5 (R381): a slip until OFFSET is set and |Δ| is at most 1, then alignment. A
realignment, and a return from holdover, counts in REALIGN (R379). -/
def childStep (n : Nat) (s : State) : State :=
  let x := portNo s n
  if x.samples.length < 64 || s.gt.slip.isSome || x.realign.isNone || x.state = 6 then s
  else
    let delta := median (x.samples.map (·.2))
    let err := toSigned 64 (ofSigned 64 (delta + s.gt.offset))
    if s.gt.slipped && err.natAbs ≤ 1 then
      let again := s.gt.redo || s.gt.own || s.gt.holdover.isSome
      allAligned { s with gt := { s.gt with
        aligned := true, slipped := false, redo := false, own := false, holdover := none, depth := x.depth + 1,
        realign := if again then (s.gt.realign + 1) % 256 else s.gt.realign } }
    else
      let k := (-delta) % 512
      { s with gt := { s.gt with slip := some (delta + k, s.cycle + 256 * k.toNat) } }

/-- The child realigns: its parent port measures anew (R379). -/
def realignFrom (n : Nat) (s : State) : State :=
  startAlign n (updNo { s with gt := { s.gt with redo := s.gt.aligned || s.gt.redo, slipped := false, slip := none } } n (fun x =>
    { x with state := min x.state 3, skewValid := false }))

/-- A port has its 64 pairs (R381 step 3, R383): D, F_MIN; a port too far away goes down; the root aligns at a frame
boundary of its own. -/
def measured (n : Nat) (s : State) : State :=
  let x := portNo s n
  let d := median (x.samples.map (·.1))
  let f := fMinOf s.point d
  if 32 < f then coppiceReady (updNo s n (fun x => { x with state := 1, measured := false, fMin := 0 }))
  else
    let s := updNo s n (fun x => { x with delay := d, measured := true, fMin := f })
    if isRoot s then
      if s.gt.aligned then allAligned s
      else
        let s := advanceTo s (frameUp s.cycle)
        allAligned { s with gt := { s.gt with aligned := true, offset := s.cycle % 2 ^ 64, depth := 0 } }
    else if n = parentPort s then childStep n s
    else if s.gt.aligned then allAligned s
    else s

/-- LANES_LOCK (R365, R366, R381): all four lanes of a port in a role lock. A lockstep port begins the exchange of LINK_ID
blocks. -/
def lanesUp (n : Nat) (s : State) : State :=
  let x := portNo s n
  if x.role = 0 || !s.boot.ready.toNat.testBit 2 || s.pins.taken || (x.state ≠ 1 && x.state ≠ 2) then s
  else
    let s := updNo s n (fun x => { x with lanes := 0xF, state := 3, linked := false, skip := false, credits := [], owed := [] })
    let id := groupId s % 2 ^ 32 * 2 ^ 216 + memberNo s % 2 ^ 10 * 2 ^ 206 + n * 2 ^ 203
    coppiceReady (if x.role = 1 then sendBlock s n (ctlBlock 0x13 id) else s)

/-- A port leaves state 3 or 4: LINK_DOWN is set, measurements are void (R396). -/
def portDown (n state : Nat) (s : State) : State :=
  let x := portNo s n
  let s := if x.state = 3 || x.state = 4 then portEvent n 0 s else s
  coppiceReady (updNo s n (fun x => { x with
    state := state, linked := false, measured := false, fMin := 0, skewValid := false, samples := [], realign := none }))

/-- The lane that gives the module its reference: the first of the parent port that holds lock (R378). -/
def refLane (s : State) : Option Nat := (List.range 4).find? (fun k => (portNo s (parentPort s)).lanes.getLsbD k)

/-- PARENT_LOST (R379, R397): holdover begins, a catch-up stops, lockstep jobs are killed; the module realigns once the
port is back. -/
def parentLost (s : State) : State :=
  let n := parentPort s
  if 8 ≤ n || (portNo s n).role ≠ 1 || s.gt.holdover.isSome || s.gt.own then s
  else
    let s := portEvent n 4 s
    let s := killLockstep { s with gt := { s.gt with holdover := some s.us, redo := s.gt.aligned || s.gt.redo, slipped := false, slip := none } } 0x13
    updNo s n (fun x => { x with realign := none, state := if x.state = 4 then 3 else x.state, skewValid := false })

/-- LINK_DOWN: a lane goes down, and with it the port (R365); a parent port's takes the parent from the module (R379). -/
def linkDown (n lane : Nat) (s : State) : State :=
  let x := portNo s n
  if x.role = 0 || x.state = 0 then s
  else
    let s := portDown n (if x.state = 5 then 5 else 1) (updNo s n (fun x => { x with lanes := x.lanes &&& ~~~BitVec.ofNat 4 (2 ^ lane) }))
    if n = parentPort s && (x.state = 3 || x.state = 4) then parentLost s else s

/-- LINK_ID (R381 step 1): another group, or another end than 0x6021 expects, is a cable mismatch. -/
def linkId (n : Nat) (b : BitVec 257) : State → State :=
  onBlock n b 0x13 (fun s =>
    let v := blockBits b
    let want := dictNat s 0x6021 (n + 1) 0xFFFF
    let ok : Bool := field v 247 216 = groupId s && (want = 0xFFFF || (field v 215 206 = field want 12 3 && field v 205 203 = field want 2 0))
    if !ok then portDown n 5 s
    else if (portNo s n).linked || groupId s = 0 then s
    else startAlign n (updNo s n (fun x => { x with linked := true })))

/-- ALIGN_REQ (R381 step 2): answered with the group cycle, at receipt and at send. -/
def alignReq (n : Nat) (b : BitVec 257) : State → State :=
  onBlock n b 0x11 (fun s =>
    let g := groupCycle s s.cycle
    sendBlock s n (ctlBlock 0x12 (g * 2 ^ 184 + g * 2 ^ 120 + field (blockBits b) 183 176 * 2 ^ 112)))

/-- ALIGN_RSP (R381 step 3): one pair more. -/
def alignRsp (n : Nat) (b : BitVec 257) : State → State :=
  onBlock n b 0x12 (fun s =>
    let x := portNo s n
    let v := blockBits b
    let seq := field v 119 112
    if !x.linked || 64 ≤ seq || 64 ≤ x.samples.length || s.cycle < x.reqAt + 64 * seq then s
    else
      let tx : Int := (x.reqAt + 64 * seq : Nat)
      let gRx : Int := (field v 247 184 : Nat)
      let gTx : Int := (field v 183 120 : Nat)
      let d := ((s.cycle : Int) - tx - toSigned 64 (ofSigned 64 (gTx - gRx))) / 2
      let s := updNo s n (fun x => { x with samples := x.samples ++ [(d, toSigned 64 (ofSigned 64 (gRx - tx - d)))] })
      if x.samples.length = 63 then measured n s else s)

/-- ALIGNMENT_SLIP_DONE (R381 steps 4, 5): OFFSET is set, and the steps repeat. -/
def slipDone (n : Nat) (s : State) : State :=
  match s.gt.slip with
  | some (v, due) =>
    if n ≠ parentPort s then s
    else
      let s := advanceTo s due
      startAlign n { s with gt := { s.gt with offset := ofSigned 64 (-v), slip := none, slipped := true } }
  | none => s

/-- TICK (R371, R378, R379, R384): SKEW; on the parent port also the parent's depth and REALIGN count. -/
def tickBlock (n : Nat) (b : BitVec 257) : State → State :=
  onBlock n b 0x10 (fun s =>
    let v := blockBits b
    let x := portNo s n
    let skew := toSigned 54 (ofSigned 54 ((groupCycle s s.cycle : Int) - 64 * (field v 247 200 : Nat))) - x.delay
    let s :=
      if x.state ≠ 4 then s
      else
        let s := updNo s n (fun x => { x with skew := skew, skewValid := true })
        if 512 < skew.natAbs then portEvent n 3 s else s
    if n ≠ parentPort s then s
    else if field v 181 177 = 16 then
      coppiceReady (updNo s n (fun x => { x with state := 6, depth := 16 }))
    else
      let changed := x.realign.any (· ≠ field v 189 182)
      let s := updNo s n (fun x => { x with realign := some (field v 189 182), depth := field v 181 177,
                                            state := if x.state = 6 then 3 else x.state })
      if changed then realignFrom n (killLockstep s 0x13)
      else if s.gt.aligned && !s.gt.redo then s
      else childStep n s)

/-- HOLDOVER_END (R379): 1 s after the parent was lost, the module runs from its own reference. -/
def holdoverEnd (s : State) : State :=
  match s.gt.holdover with
  | some u =>
    let s := atUs s (u + 1000000)
    { s with gt := { s.gt with holdover := none, own := true } }
  | none => s

/-! ### Frequency across the group (R380) -/

/-- The epoch of a group cycle (R380). -/
def epochOf (g : Nat) : Nat := g / 2 ^ 20

/-- A FREQ block sent on every lockstep port but one. -/
def sendFreq (s : State) (epoch point : Nat) (but : Option Nat) : State :=
  ((List.range 8).filter (fun m => some m ≠ but && (portNo s m).role = 1 && 3 ≤ (portNo s m).state && (portNo s m).state ≠ 5)).foldl (fun s m =>
    sendBlock s m (ctlBlock 0x14 (epoch % 2 ^ 48 * 2 ^ 200 + point * 2 ^ 192))) s

/-- FREQ (R380), once for each epoch that one names: forwarded, and kept for its epoch; one that comes less than a tick before it kills the lockstep job, and
the point changes at the next boundary. DESIGN CHOICE (log entry 103): a point above 7 is counted as discarded. -/
def freqBlock (n : Nat) (b : BitVec 257) : State → State :=
  onBlock n b 0x14 (fun s =>
    let e := field (blockBits b) 247 200
    let point := field (blockBits b) 199 192
    if 7 < point then portCount n 5 s
    else if s.gt.freqSeen.contains e then s
    else
      let s := sendFreq { s with gt := { s.gt with freqSeen := s.gt.freqSeen ++ [e] } } e point (some n)
      let g := groupCycle s s.cycle
      if e * 2 ^ 20 < g + 64 then
        killLockstep { s with gt := { s.gt with freq := s.gt.freq ++ [(epochOf g + 1, point)] } } 0x14
      else { s with gt := { s.gt with freq := s.gt.freq ++ [(e, point)] } })

/-! ### Cells (R369–R376) -/

/-- CELL (R369): the port's next position begins. -/
def sendCell (n : Nat) (s : State) : State :=
  let x := portNo s n
  if x.role ≠ 1 || x.state ≠ 4 || !s.gt.aligned then s else advanceTo s (s.cycle + groupCycle s s.cycle % 2 + 1)

/-- Cycles from now to the release of a cell with a stamp; below 0 once it has passed (R375). The stamp's tick has 32 bits. -/
def releaseIn (s : State) (x : Port) (c : LockCell) : Int :=
  toSigned 38 (ofSigned 38 (64 * ((c.tick.toNat + flight x + 16 : Nat) : Int) + 2 * (c.pos.toNat : Int) - (groupCycle s s.cycle : Nat)))

/-- A credit owed to the far end for a window cell that has left its pool. -/
def owe (n h : Nat) (s : State) : State := updNo s n (fun x => { x with owed := fmUpd 0 x.owed h (· + 1) })

/-- CELL_ARRIVAL (R367, R370, R376, R377): stored in the landing buffer, or discarded; the release of the present cycle has freed its place
first (R397). DESIGN CHOICE (log entry 103): the pool credit of a window cell that comes late, or finds the buffer full, goes back. -/
def cellArrival (n : Nat) (c : LockCell) (unc : Bool) (s : State) : State :=
  let x := portNo s n
  if x.role ≠ 1 || x.state ≠ 4 then s
  else
    let s := (mirrorsOf s n 0).foldl (fun s m => updNo s m (fun x => { x with outCells := x.outCells ++ [c] })) s
    if unc then
      let s := if c.kind = 3 then portCount n 5 s else s
      portEvent n 1 (portCount n 1 (updNo s n (fun x => { x with skip := true })))
    else if x.skip then (if c.kind = 3 then portCount n 5 s else s)
    else if c.crc ≠ BitVec.ofNat 32 (cellCrc c) then (if c.kind = 3 then portCount n 5 s else s)
    else if 3 < c.kind.toNat then portCount n 5 s
    else if releaseIn s x c < 0 then portEvent n 2 (portCount n 3 (if c.kind = 3 then owe n c.hops.toNat s else s))
    else if 2048 ≤ (x.buf.filter (fun y => releaseIn s x y ≠ 0)).length then (if c.kind = 3 then owe n c.hops.toNat s else s)
    else updNo s n (fun x => { x with buf := x.buf ++ [c] })

/-- RELEASE (R375, R376): the next position's cell is released. -/
def releaseCell (n : Nat) (s : State) : State :=
  let x := portNo s n
  if x.role ≠ 1 || x.state ≠ 4 || !s.gt.aligned then s else advanceTo s (s.cycle + groupCycle s s.cycle % 2 + 1)

/-- CREDIT (R371, R388): credits come back, to 16 at most. -/
def creditBlock (n : Nat) (b : BitVec 257) : State → State :=
  onBlock n b 0x15 (fun s =>
    updNo s n (fun x => { x with credits := (List.range 16).foldl (fun m h =>
      fmSet 16 m h (min 16 (creditOf x h + field (blockBits b) (4 * h + 187) (4 * h + 184)))) x.credits }))

/-- PEER_LOST (R387): 64 positions in a row without the job's tag. -/
def peerLost (n : Nat) (s : State) : State :=
  let x := portNo s n
  if x.lost < 64 then s
  else
    let s := portEvent n 5 (updNo s n (fun x => { x with lost := 0 }))
    match x.part with
    | some p => killJob s p 0x13
    | none => s

/-! ### Lockstep launches (R386) -/

/-- LOCKSTEP_LAUNCH: refused, and nothing changes, for a tag of 0, a start tick that is no multiple of 8, a module that is
not aligned, an image that fails a check, or a start nearer than the launch and two frames. The route table is taken anew
(R389); the tiles are armed for the frame that begins at the start tick. -/
def lockstepLaunch (p t0 tag : Nat) (img : Image) (s : State) : State :=
  let start := 64 * t0 + s.gt.offset
  if !partExists s p || (partAt s p).job.isSome || tag = 0 || t0 % 8 ≠ 0 || groupId s = 0 || !s.gt.aligned ||
      start < s.cycle + 4096 + 1024 || !img.lockstep || !launchOk s p img true then s
  else
    let routes := (dictVal s 0x6020 4).getD (List.replicate 1024 0xFF)
    let s := launchNow { s with gt := { s.gt with routes := routes } } p img (some (t0, tag))
    updTiles s (img.tiles.map (·.tile)) (armTile (start / 512))

/-! ### Window traffic (R388, R389, R278) -/

/-- The window cell that waits longest for a port: cut here for it, or held at a port's input on its way through. -/
def nextCut (s : State) (n : Nat) : Option (Nat × Nat × LockCell) :=
  s.gt.cut.find? (fun x => routeTo s x.2.2.dstModule.toNat = n)

/-- The cell of a port's input that leads on to port `n`, with the input. -/
def nextHop (s : State) (n : Nat) (c : LockCell) : Option (Nat × Nat) :=
  (List.range 8).findSome? (fun i =>
    match (portNo s i).held.find? (fun y => y.2.dstModule.toNat ≠ memberNo s && routeTo s y.2.dstModule.toNat = n) with
    | some (h, c') => if c' = c then some (i, h) else none
    | none => none)

/-- A cell leaves its pool at a port's input. -/
def leavePool (i h : Nat) (c : LockCell) (s : State) : State :=
  owe i h (updNo s i (fun x => { x with held := x.held.erase (h, c) }))

/-- WINDOW_CELL (R388): into the queue of the routed port. The origin's cell is accepted for its descriptor here (R212); a
cell on its way gains a hop, and is discarded with its 16th. -/
def queueCell (n : Nat) (c : LockCell) (s : State) : State :=
  let push (c : LockCell) (s : State) : State := updNo s n (fun x => { x with winQ := x.winQ ++ [c] })
  if (portNo s n).role ≠ 1 || 256 ≤ (portNo s n).winQ.length then s
  else match nextCut s n with
    | some (t, m, c') =>
      if c' = c then
        let s := { s with gt := { s.gt with cut := s.gt.cut.erase (t, m, c') } }
        let s := push { c with hops := 0 } s
        if t < nTiles then updTile s t (reply m (keyCell c.dstModule.toNat)) else s
      else forwardCell n c push s
    | none => forwardCell n c push s
where
  /-- A cell that another module's port brought goes on. -/
  forwardCell (n : Nat) (c : LockCell) (push : LockCell → State → State) (s : State) : State :=
    match nextHop s n c with
    | none => s
    | some (i, h) =>
      let s := leavePool i h c s
      if c.hops = 15 then portCount i 7 s else push { c with hops := c.hops + 1 } s

/-- A refused window write counted at the partition (R278). -/
def winRefuse (p : Nat) (s : State) : State := updXl s p (fun x => { x with refused := satAdd (2 ^ 32 - 1) x.refused 1 })

/-- The receive window's range that holds a whole write, with its target address (R278). -/
def windowRange (s : State) (c : LockCell) : Option (Nat × Nat) :=
  let off := c.offset.toNat
  let n := 8 * c.len8.toNat
  let hit (y : Nat × Nat) : Bool := y.1 / 16 = c.window.toNat && rHits y.2 off && rHits y.2 (off + n - 1) && rWrite y.2
  ((xlAt s c.rpart.toNat).winTab.find? hit).map (fun y => (y.2, rAddr y.2 off))

/-- A window write is accepted (R278). -/
def windowOk (s : State) (c : LockCell) : Bool :=
  let p := c.rpart.toNat
  let w := fmGet winReset (xlAt s p).wins c.window.toNat
  w.enable && (w.any || w.src = c.srcModule) &&
  (match windowRange s c with
   | none => false
   | some (e, at_) =>
     rTarget e ≠ 3 || (inPart s p (pbLsTile at_) && inLs (tileAt s (pbLsTile at_)) (pbLsOff at_) (8 * c.len8.toNat))) &&
  inPart s p c.cntTile.toNat

/-- The wanted point of a member (R448). -/
def noteWanted (c : LockCell) (s : State) : State :=
  if isRoot s && c.len8 = 1 then
    { s with gov := { s.gov with wanted := fmSet none s.gov.wanted (leAt c.data 2 2) (some (leAt c.data 0 1)) } }
  else s

/-- An accepted window write lands and counts (R215): line writes to DM, or MW packets of the memory attach to LS (R213). DESIGN CHOICE
(log entry 98): where CNT_TILE is not the tile of the LS target, the MW has CNT 0 and names CNT_TILE as its source, and a CNT
counts the bytes once they have landed. -/
def windowLand (c : LockCell) (s : State) : State :=
  let p := c.rpart.toNat
  let n := 8 * c.len8.toNat
  match windowRange s c with
  | none => s
  | some (e, at_) =>
    let t := pbLsTile at_
    let d : Dest := if rTarget e = 0 then ⟨1, at_, c.cntTile.toNat, c.ac.toNat, 0⟩
      else ⟨0, lsDest t (pbLsOff at_), c.cntTile.toNat, c.ac.toNat, 0⟩
    deliver s p (if rTarget e = 0 then 0x1FFF else c.cntTile.toNat) windowMover 4 (c.data.take n) false d

/-- WINDOW_WRITE (R278): a cell for this module leaves its pool; it is checked, then landed or refused. A cell of LEN8 0
does nothing; window 63 is the firmware's (R448). -/
def windowWrite (n : Nat) (c : LockCell) (s : State) : State :=
  match (portNo s n).held.find? (fun y => y.2.dstModule.toNat = memberNo s) with
  | none => s
  | some (h, c') =>
    if c' ≠ c then s
    else
      let s := leavePool n h c s
      let p := c.rpart.toNat
      if c.len8 = 0 then s
      else if c.window = 63 then noteWanted c s
      else if !partExists s p then portCount n 6 s
      else if !windowOk s c then winRefuse p s
      else windowLand c s

/-- WANTED_POINT (R448): the firmware of the root takes a member's cell from the port that holds it. -/
def wantedPoint (c : LockCell) (s : State) : State :=
  let at_ := (List.range 8).find? (fun n =>
    (((portNo s n).held.find? (fun y => y.2.dstModule.toNat = memberNo s)).map (·.2)) = some c)
  match at_ with
  | some n => if c.window = 63 then windowWrite n c s else s
  | none => s

end Sys2Proof.Machine
end

