-- ==== Sys2Proof/Machine/Dict.lean ====
section
/-!
DEFINITION. The entries of the Hedgerow dictionary (R505–R508): index, subindices, type, access by role, whether they are
persisted, and the lengths of a STR or OCTETS value. One row serves a run of subindices of one kind.
-/

namespace Sys2Proof.Machine

/-- The types of R506. -/
inductive EntryType where
  | bool
  | u8
  | u16
  | u32
  | u64
  | i32
  | f32
  | str
  | octets
  | time
  deriving DecidableEq, Repr

/-- The access codes of R508, with no access. -/
inductive Access where
  | none
  | ro
  | rw
  | wo
  | const
  deriving DecidableEq, Repr

/-- A row: subindices `lo` to `hi`; access of the operator, the tenant, the vendor; `own`: the tenant has it for its own
partition only; the least and the greatest length of a STR or OCTETS value; `empty`: CLEAR is accepted (R507). -/
structure EntryRow where
  idx : Nat
  lo : Nat
  hi : Nat
  ty : EntryType
  op : Access
  ten : Access
  ven : Access
  own : Bool
  kept : Bool
  min : Nat
  max : Nat
  empty : Bool
  deriving DecidableEq, Repr

/-- A row that the operator, and with it the vendor, reaches. -/
def opRow (idx lo hi : Nat) (ty : EntryType) (a : Access) (kept : Bool) : EntryRow :=
  ⟨idx, lo, hi, ty, a, .none, a, false, kept, 0, 1024, false⟩

/-- A row that every role reads. -/
def allRow (idx lo hi : Nat) (ty : EntryType) (a : Access) (kept : Bool) : EntryRow :=
  ⟨idx, lo, hi, ty, a, a, a, false, kept, 0, 1024, false⟩

/-- A row of the partitions, subindex 0x01 + n for Pn, with what the tenant may do for its own. -/
def partRow (idx : Nat) (ty : EntryType) (a t : Access) (kept : Bool) : EntryRow :=
  ⟨idx, 1, 32, ty, a, t, a, true, kept, 0, 1024, false⟩

/-- A row whose values have lengths from `m` to `n`. -/
def sized (m n : Nat) (r : EntryRow) : EntryRow := { r with min := m, max := n }

/-- A row whose empty value has a meaning. -/
def orEmpty (r : EntryRow) : EntryRow := { r with empty := true }

/-- Identity, readiness, life cycle, access, firmware (R518, R534, R542, R569). -/
def rowsDevice : List EntryRow :=
  [sized 0 16 (allRow 0x1001 1 3 .str .const false), allRow 0x1001 4 4 .u32 .const false, allRow 0x1001 5 5 .u16 .const false,
   sized 0 32 (allRow 0x1002 1 1 .str .ro false), opRow 0x1002 2 2 .u32 .ro false,
   sized 6 6 (allRow 0x1003 1 9 .octets .const false), allRow 0x1010 0 0 .u32 .ro false, allRow 0x1020 0 0 .u8 .ro true,
   sized 8 8 (opRow 0x1021 0 0 .octets .wo false), opRow 0x1022 0 0 .u32 .ro true,
   orEmpty (sized 16 16 (opRow 0x1030 1 1 .octets .rw true)), opRow 0x1030 2 2 .u16 .rw true,
   orEmpty (sized 17 272 (opRow 0x1030 3 3 .octets .rw true)), opRow 0x1031 0 0 .time .rw false,
   sized 32 32 (opRow 0xA010 0 0 .octets .wo true), sized 8 1024 (opRow 0xA020 1 1 .octets .wo false),
   opRow 0xA020 2 2 .u8 .wo false, opRow 0xA020 3 3 .u32 .ro false,
   allRow 0xF010 1 1 .u32 .const false, ⟨0xF010, 2, 2, .bool, .none, .none, .rw, false, false, 0, 1024, false⟩]

/-- Power (R460, R569). -/
def rowsPower : List EntryRow :=
  [opRow 0x2010 1 1 .u16 .rw true, opRow 0x2010 2 2 .u8 .rw true, opRow 0x2010 3 3 .u16 .rw true,
   opRow 0x2011 1 3 .f32 .ro false, opRow 0x2012 1 20 .f32 .ro false, opRow 0x2013 0 0 .octets .ro false,
   opRow 0x2014 1 3 .u64 .ro false, opRow 0x2020 0 0 .u8 .rw true, allRow 0x2021 0 0 .u8 .ro false,
   opRow 0x2030 1 8 .octets .ro false, opRow 0x2040 1 1 .u16 .rw true, opRow 0x2050 1 6 .f32 .ro false,
   partRow 0x2060 .octets .ro .ro false, opRow 0x2061 0 0 .u64 .ro false, partRow 0x2062 .octets .ro .ro false,
   opRow 0x2070 1 4 .f32 .ro false, opRow 0x2070 5 6 .u64 .ro true]

/-- Partitions, service, slices (R177, R239, R435). -/
def rowsParts : List EntryRow :=
  [sized 4 4 (opRow 0x3001 1 1 .octets .wo false), opRow 0x3001 2 2 .u32 .ro false, partRow 0x3002 .u8 .ro .ro false,
   orEmpty (sized 64 64 (partRow 0x3010 .octets .rw .ro true)), opRow 0x3011 1 32 .u16 .rw true,
   sized 128 128 (partRow 0x3012 .octets .rw .rw true), partRow 0x3040 .u16 .rw .ro true, partRow 0x3050 .u16 .rw .ro true,
   partRow 0x3051 .octets .ro .ro false, partRow 0x3060 .bool .rw .rw true, partRow 0x3070 .u32 .rw .ro true,
   partRow 0x3080 .u8 .rw .ro true, partRow 0x3081 .u16 .rw .rw true, partRow 0x3090 .octets .ro .ro false,
   sized 4 4 (partRow 0x3095 .octets .rw .rw false), partRow 0x3100 .octets .ro .ro false]

/-- Stacks and the Seedbank (R304, R335). -/
def rowsMemory : List EntryRow :=
  [allRow 0x4010 1 20 .u8 .ro false, opRow 0x4011 1 20 .bool .rw true, opRow 0x4020 1 20 .u64 .ro false,
   opRow 0x4021 1 20 .u64 .ro false, opRow 0x4030 1 20 .f32 .ro false, opRow 0x4040 1 20 .octets .ro false,
   allRow 0x4050 0 0 .u64 .ro false, opRow 0x4060 0 0 .u16 .rw true,
   allRow 0x5010 0 0 .u8 .ro false, opRow 0x5011 1 32 .u8 .ro false, allRow 0x5012 1 1 .u64 .ro false,
   opRow 0x5012 2 3 .u64 .ro false, allRow 0x5013 0 0 .u16 .ro false, opRow 0x5014 1 2 .u64 .ro true,
   opRow 0x5015 1 7 .u64 .ro true, opRow 0x5016 0 0 .octets .ro false, sized 16 16 (opRow 0x5020 1 1 .octets .wo false),
   opRow 0x5020 2 2 .u32 .ro false, ⟨0x5021, 1, 1, .u16, .rw, .rw, .rw, false, false, 0, 1024, false⟩,
   allRow 0x5021 2 2 .octets .ro false, opRow 0x5050 0 0 .u16 .rw true, opRow 0x5051 1 16 .octets .ro false]

/-- Coppice (R395). -/
def rowsCoppice : List EntryRow :=
  [opRow 0x6010 0 0 .u8 .rw true, allRow 0x6011 0 0 .u8 .ro false, allRow 0x6012 1 8 .u8 .ro false, opRow 0x6013 1 8 .u8 .ro false,
   opRow 0x6014 1 8 .u8 .rw true, opRow 0x6020 1 1 .u32 .rw true, opRow 0x6020 2 2 .u16 .rw true, opRow 0x6020 3 3 .u8 .rw true,
   sized 1024 1024 (opRow 0x6020 4 4 .octets .rw true), opRow 0x6020 5 5 .u64 .ro false, opRow 0x6021 1 8 .u16 .rw true,
   opRow 0x6030 1 8 .u8 .ro false, opRow 0x6031 1 8 .i32 .ro false, opRow 0x6032 0 0 .i32 .ro false,
   opRow 0x6040 1 8 .octets .ro false, opRow 0x6041 1 8 .octets .ro false,
   orEmpty (sized 16 16 (opRow 0x6050 1 8 .octets .rw true)), opRow 0x6051 0 0 .u16 .rw true,
   orEmpty (sized 17 272 (partRow 0x6052 .octets .rw .rw true)), opRow 0x6053 1 8 .u16 .rw true, opRow 0x6060 1 8 .u8 .rw true]

/-- Graft and tile health (R50, R187, R192, R361). -/
def rowsGraft : List EntryRow :=
  [opRow 0x7010 1 4 .u8 .rw true, allRow 0x7011 1 4 .u8 .ro false, opRow 0x7020 1 6 .octets .ro false,
   ⟨0x7110, 1, 4, .octets, .ro, .ro, .rw, false, true, 132, 132, false⟩, opRow 0x7120 1 4 .octets .ro false,
   opRow 0x7120 5 5 .u32 .ro false, allRow 0x7130 1 4 .octets .ro false, opRow 0x7140 1 8 .octets .ro false, allRow 0x7141 1 8 .u32 .ro false,
   opRow 0x7142 1 8 .octets .ro false, opRow 0x7143 1 8 .octets .ro true, opRow 0x7150 0 0 .u16 .rw true,
   ⟨0x7160, 1, 1, .bool, .none, .none, .rw, false, true, 0, 1024, false⟩,
   ⟨0x7160, 2, 2, .bool, .none, .none, .wo, false, false, 0, 1024, false⟩]

/-- Counters and recovery (R483, R502). -/
def rowsService : List EntryRow :=
  [sized 16 16 (partRow 0x8010 .octets .rw .rw true), partRow 0x8020 .octets .ro .ro false, opRow 0x8030 0 0 .octets .ro false,
   sized 16 16 (partRow 0x8040 .octets .rw .rw true), partRow 0x8041 .octets .ro .ro false, partRow 0x8050 .octets .ro .ro false,
   allRow 0x9001 0 0 .u8 .ro false, partRow 0x9010 .u32 .rw .ro true, partRow 0x9011 .u32 .rw .ro true,
   opRow 0x9020 1 32 .u8 .rw true, partRow 0x9021 .bool .rw .ro false, opRow 0x9030 1 1 .u8 .rw true,
   opRow 0x9030 2 2 .u32 .rw true, opRow 0x9031 0 0 .bool .rw true, opRow 0x9032 0 0 .octets .ro true,
   opRow 0x9040 0 0 .u8 .rw true, opRow 0x9050 0 0 .u8 .wo false, partRow 0x9051 .bool .wo .wo false]

/-- Every row. -/
def entryRows : List EntryRow := rowsDevice ++ rowsPower ++ rowsParts ++ rowsMemory ++ rowsCoppice ++ rowsGraft ++ rowsService

/-- The row of an entry, subindex 0 of an entry listed from 0x01 aside. -/
def entryRow (idx sub : Nat) : Option EntryRow := entryRows.find? (fun r => r.idx = idx && r.lo ≤ sub && sub ≤ r.hi)

/-- The rows of an index. -/
def indexRows (idx : Nat) : List EntryRow := entryRows.filter (·.idx = idx)

/-- Highest subindex of an index (R505). -/
def lastSub (idx : Nat) : Nat := (indexRows idx).foldl (fun m r => max m r.hi) 0

/-- The value of an entry with key index · 256 + subindex is kept in NOR (R509). -/
def keptKey (key : Nat) : Bool := (entryRow (key / 256) (key % 256)).any (·.kept)

/-- Bytes of a value of a type with a fixed length (R506); 0: as the row says. -/
def typeBytes (t : EntryType) : Nat :=
  match t with
  | .bool | .u8 => 1
  | .u16 => 2
  | .u32 | .i32 | .f32 => 4
  | .u64 | .time => 8
  | .str | .octets => 0

end Sys2Proof.Machine
end

