-- ==== Sys2Proof/Machine/Partitions.lean ====
section
/-!
DEFINITION. Partition commands (R176, R177, R237–R240, R316, R399–R406): definitions, the checks of CREATE, transit grants,
CREATE, DELETE, RESET, recreation.
-/

namespace Sys2Proof.Machine

/-- A result reported in 0x3001:02. -/
def partResult (code p : Nat) (s : State) : State := { s with ctl := { s.ctl with cmdResult := code + 256 * p } }

/-- A definition (R400). -/
structure PartDef where
  blocks : List Nat
  dmBase : Nat
  dmSize : Nat
  ports : Nat
  recreate : Bool
  svcWeight : Nat
  share : Nat
  energyShare : Nat
  sessBase : Nat
  sessCount : Nat
  deriving DecidableEq, Repr

/-- The definition that 64 bytes spell; none where it is invalid. -/
def parseDef (d : List Byte) : Option PartDef :=
  let bits := leAt d 0 17
  let blocks := (List.range 132).filter bits.testBit
  let x : PartDef :=
    { blocks := blocks, dmBase := leAt d 24 8, dmSize := leAt d 32 8, ports := leAt d 40 1, recreate := leAt d 41 1 = 1,
      svcWeight := leAt d 42 1, share := leAt d 44 2, energyShare := leAt d 46 2, sessBase := leAt d 48 4, sessCount := leAt d 52 4 }
  if d.length = 64 && !blocks.isEmpty && bits < 2 ^ 132 && leAt d 17 7 = 0 && x.dmBase % 2 ^ 30 = 0 && x.dmSize % 2 ^ 30 = 0 &&
    x.dmSize ≠ 0 && leAt d 41 1 ≤ 1 && x.svcWeight ≠ 0 && leAt d 43 1 = 0 && x.share ≠ 0 && x.sessBase < 2 ^ 20 &&
    x.sessBase + x.sessCount ≤ 2 ^ 20 && leAt d 56 8 = 0
  then some x else none

/-- The stored definition of a partition. -/
def partDef (s : State) (p : Nat) : Option PartDef := parseDef ((dictVal s 0x3010 (p + 1)).getD [])

/-- Existing partitions other than `p`. -/
def others (s : State) (p : Nat) : List (Nat × Part) := s.parts.filter (fun x => x.1 ≠ p && partExists s x.1)

/-- Two spans of bytes or IDs, as base and length, meet. -/
def spansMeet (a n b m : Nat) : Bool := n ≠ 0 && m ≠ 0 && a < b + m && b < a + n

/-! ### Dynamic slots (R176, R178) -/

/-- Mesh outputs that packets between tiles of a list cross: along the source's row, then along the destination's column. -/
def pairOutputs (ts : List Nat) : List (Nat × Nat) :=
  let rows := (ts.map rowOf).dedup
  let cols := (ts.map colOf).dedup
  let loR := rows.foldl min 47
  let hiR := rows.foldl max 0
  let loC := cols.foldl min 43
  let hiC := cols.foldl max 0
  let along (n lo hi : Nat) : List Nat := (List.range n).filter (fun x => lo ≤ x && x < hi)
  rows.flatMap (fun r =>
    let mine := (ts.filter (fun t => rowOf t = r)).map colOf
    (along 44 (mine.foldl min 43) hiC).map (fun x => (r * nCols + x, 1)) ++
    (along 44 loC (mine.foldl max 0)).map (fun x => (r * nCols + x + 1, 3))) ++
  cols.flatMap (fun c =>
    let mine := (ts.filter (fun t => colOf t = c)).map rowOf
    (along 48 loR (mine.foldl max 0)).map (fun y => (y * nCols + c, 2)) ++
    (along 48 (mine.foldl min 47) hiR).map (fun y => ((y + 1) * nCols + c, 0)))

/-- Outputs that packets between a tile and the memory attach cross, both ways, with the memory port at the end (R178). -/
def corridorOutputs (t : Nat) : List (Nat × Nat) :=
  let r := rowOf t
  let c := colOf t
  let up := (List.range r).flatMap (fun y => [(y * nCols + c, 2), ((y + 1) * nCols + c, 0)])
  let down := ((List.range 47).filter (r ≤ ·)).flatMap (fun y => [(y * nCols + c, 2), ((y + 1) * nCols + c, 0)])
  let left := (List.range c).flatMap (fun x => [(r * nCols + x, 1), (r * nCols + x + 1, 3)])
  let right := ((List.range 43).filter (c ≤ ·)).flatMap (fun x => [(r * nCols + x, 1), (r * nCols + x + 1, 3)])
  (if r < 24 then up else down) ++ (if c < 22 then left else right) ++ [(corridorEnd t true, 9), (corridorEnd t false, 9)]

/-- Outputs on which the partition needs transit groups: those it does not own wholly. -/
def transitOutputs (ts : List Nat) : List (Nat × Nat) :=
  ((pairOutputs ts ++ ts.flatMap corridorOutputs).dedup).filter (fun x =>
    !(ts.contains x.1 && (match outTile x.1 x.2 with
      | some u => ts.contains u
      | none => false)))

/-- Groups of an output that no other partition holds. -/
def freeGroups (s : State) (p : Nat) (x : Nat × Nat) : List Nat :=
  (List.range 64).filter (fun g => !(others s p).any (fun q => ownsSlot s q.1 x.1 x.2 (8 * g)))

/-- The grant of two of the free groups on every crossed output: which two, the manual leaves open. None where an output, or
an output inside the partition's blocks, lacks them. -/
def grantFor (s : State) (p : Nat) (ts : List Nat) : Option (FMap Nat) :=
  let inside := ts.flatMap (fun t => ((List.range 4).filter (fun d => match neighbour t d with
    | some u => ts.contains u
    | none => false)).map (fun d => (t, d)))
  if inside.any (fun x => (freeGroups s p x).length < 64) then none
  else
    (transitOutputs ts).foldl (fun (acc : Option (FMap Nat)) x => acc.bind (fun m =>
      let free := freeGroups s p x
      if free.length < 2 then none
      else
        let i := Config.freeNat (s.fresh + 2 * (16 * x.1 + x.2)) % free.length
        let j := (i + 1 + Config.freeNat (s.fresh + 2 * (16 * x.1 + x.2) + 1) % (free.length - 1)) % free.length
        some (fmSet 0 m (16 * x.1 + x.2) (2 ^ free.getD i 0 + 2 ^ free.getD j 0)))) (some [])

/-! ### Home slices (R237) -/

/-- The slices a creation takes, one die at a time, the lowest free slice of each; `fuel` bounds the turns. -/
def takeSlices : Nat → Nat → Nat → List Nat → List Nat
  | 0, _, _, _ => []
  | fuel + 1, n, d, free =>
    if n = 0 || free.isEmpty then []
    else match free.find? (fun h => sliceDie h = d) with
      | some h => h :: takeSlices fuel (n - 1) ((d + 1) % 4) (free.erase h)
      | none => takeSlices fuel n ((d + 1) % 4) free

/-- Free slices; those that `p` itself holds count as free. -/
def freeSlices (s : State) (p : Nat) : List Nat :=
  (List.range 256).filter (fun h => !(sliceAt s h).valid || (sliceAt s h).part.toNat = p)

/-! ### CREATE (R402, R403) -/

/-- The area of an enabled dirty log lies in a DM range (R287, R402). -/
def dlogIn (s : State) (base size : Nat) : Bool :=
  (List.range 32).any (fun q =>
    let x := xlAt s q
    let bits := ceilDiv (ceilDiv (partAt s q).dmSize 65536) 32768 * 4096
    x.dlogEnable && (spansMeet base size x.dlogBitmap bits || (x.dlogRing2 ≠ 0 && spansMeet base size x.dlogRing (8 * 2 ^ x.dlogRing2))))

/-- Tiles of blocks. -/
def defTiles (d : PartDef) : List Nat := d.blocks.flatMap blockTiles

/-- The code of CREATE, its checks in the order of the codes. -/
def createCode (s : State) (p : Nat) : Nat :=
  match partDef s p with
  | none => 0x01
  | some d =>
    let os := others s p
    let need := dictNat s 0x3050 (p + 1) 8
    if d.blocks.any (fun b => os.any (fun q => q.2.blocks.contains b)) then 0x02
    else if dmCapacity s < d.dmBase + d.dmSize + 2 ^ 30 || os.any (fun q => spansMeet d.dmBase d.dmSize q.2.dmBase q.2.dmSize) ||
      dlogIn s d.dmBase d.dmSize then 0x03
    else if (freeSlices s p).length < need then 0x04
    else if (grantFor s p (defTiles d)).isNone then 0x05
    else if os.any (fun q => spansMeet d.sessBase d.sessCount q.2.sessBase q.2.sessCount) then 0x06
    else if (List.range 8).any (fun n => d.ports.testBit n &&
      ((fmGet portUnset s.coppice n).role ≠ 1 || os.any (fun q => q.2.lockPorts.toNat.testBit n))) then 0x07
    else if partExists s p then 0x08
    else if 65536 < (os.map (·.2.energyShare)).sum + d.energyShare then 0x09
    else 0

/-- The steps of CREATE, its checks passed (R403). Energy accounts and the count of kills stay until a deletion (R454, R469). -/
def createNow (s : State) (p : Nat) (d : PartDef) : State :=
  let ts := defTiles d
  let grant := (grantFor s p ts).getD []
  let ed := dictNat s 0x3040 (p + 1) 0x2010
  let list := takeSlices 1024 (dictNat s 0x3050 (p + 1) 8) 0 (freeSlices s p)
  let s := wakeStacks { s with fresh := s.fresh + 70000 }
  let s := updTiles s ts (fun y => { y with regs := { y.regs with part := BitVec.ofNat 5 p, partValid := true } })
  let s := list.foldl (fun s h => updSlice s h (fun x => { x with part := BitVec.ofNat 5 p, valid := true })) s
  let s := { s with sliceLists := fmSet [] s.sliceLists p list, esp := { s.esp with grants := fmSet [] s.esp.grants p grant } }
  let s := updXl s p (fun x => { x with table := [], wins := [], winTab := [], dieCache := [] })
  let s := (List.range d.sessCount).foldl (fun s k => updSess s (d.sessBase + k) (fun _ => sessReset)) s
  let s := { s with
    coppice := (List.range 8).foldl (fun m n => if d.ports.testBit n then fmUpd portUnset m n (fun x => { x with part := some p }) else m) s.coppice
    pcount := fmSet [] s.pcount p [] }
  sealChanged (updPart s p (fun x => { partReset with
    energy := x.energy, kills := x.kills, hold := x.hold,
    state := 2, blocks := d.blocks, dmBase := d.dmBase, dmSize := d.dmSize, lockPorts := BitVec.ofNat 8 d.ports,
    svcWeight := d.svcWeight, share := d.share, energyShare := d.energyShare, sessBase := d.sessBase, sessCount := d.sessCount,
    dynE := field ed 15 8, dynD := field ed 7 0 }))

/-- Partition commands are served: device ready, and Deployed (R538, R540). -/
def partsServed (s : State) : Bool := s.boot.ready.toNat.testBit 10 && s.boot.life = 2

/-- CREATE. -/
def create (p : Nat) (s : State) : State :=
  if !partsServed s then s
  else
    let code := createCode s p
    match partDef s p with
    | some d => if code = 0 then partResult 0 p (createNow s p d) else partResult code p s
    | none => partResult code p s

/-- Recreation at device ready (R405, R406): every definition with RECREATE set, in ascending number; a refused one stays
stored as not recreated. -/
def recreate (s : State) : State :=
  if s.boot.life ≠ 2 then s
  else (List.range 32).foldl (fun s p =>
    match partDef s p with
    | none => s
    | some d =>
      if !d.recreate then s
      else if createCode s p = 0 then scanExtent (createNow s p d) p
      else updPart s p (fun x => { x with state := 7 })) s

/-! ### DELETE and RESET (R404) -/

/-- A session in DM parked at once, pinned or not, or freed where no extent takes it. -/
def parkOrFree (p : Nat) (s : State) (i : Nat) : State :=
  let s1 := updSess s i (fun x => if x.st = .parking then x else { x with st := .parking, generation := x.generation + 1 })
  let s1 := sessionParked i (startPark i s1)
  if (sessExtent s p).isSome && (sessAt s1 i).st = .parked then s1 else closeSess 1 s i

/-- Sessions at a deletion: resident ones are parked or freed, resumes end as parked. -/
def settleSessions (s : State) (p : Nat) : State :=
  (sessionsOf s p).foldl (fun s x =>
    let i := x.1
    let st := (sessAt s i).st
    let drop (s : State) : State := { s with seed := { s.seed with moving := s.seed.moving.filter (fun m => m.id ≠ i) } }
    if st = .resident || st = .active || st = .parking then parkOrFree p s i
    else if st = .resuming then updSess (dropKv (drop s) i) i (fun y => { y with st := .parked })
    else s) s

/-- The dirty lines of a slice go to DM; its lines and directory are empty, its registers cleared but for the poisoned-line
address (R240, R268). -/
def freeSlice (s : State) (h : Nat) : State :=
  let s := (sliceAt s h).lines.foldl (fun s x => evictHline s h x.1) s
  updSlice s h (fun x => { sliceReset with ready := x.ready, poisonLine := x.poisonLine, poisonHi := x.poisonHi, misroute := x.misroute })

/-- The partition's ranges, windows and dirty log gone; a withdrawal that was draining is done (R285, R287). -/
def clearXl (x : Xl) : Xl := { xlReset with entry := x.entry, done := x.done || x.withdrawal.isSome || x.start.isSome, overrun := x.overrun, refused := x.refused }

/-- DELETE (R404), whole. DESIGN CHOICE (log entry 104): requests that still wait in an intake end with reason 5 too. -/
def deleteNow (s : State) (p : Nat) : State :=
  let s := updPart s p (fun x => { x with state := 6 })
  let s := killNow (endAll s p 5 (fun _ => true)) p 0x17 false
  let s := settleSessions s p
  let ts := partTiles s p
  let dlog := (xlAt s p).dlogEnable
  let s := updTiles (updXl s p clearXl) ts (fun t => { t with look := [], l1 := l1Reset })
  let s := (sliceList s p).foldl freeSlice s
  let s := updTiles s ts (fun y => { y with regs := { y.regs with part := 0, partValid := false, splitNext := 0 } })
  let ext (e : Option Extent) : Option Extent := e.map (fun x => if x.owner = p then { x with owner := 0xFE } else x)
  let s := { s with
    sliceLists := fmSet [] s.sliceLists p []
    esp := { s.esp with grants := fmSet [] s.esp.grants p [], swaps := fmSet none s.esp.swaps p none }
    seed := { s.seed with extents := fmMap none ext s.seed.extents }
    coppice := fmMap portUnset (fun x => if x.part = some p then { x with part := none } else x) s.coppice }
  let s := if ts.isEmpty && !dlog then s else sealChanged s
  updPart s p (fun _ => partReset)

/-- DELETE. -/
def delete (p : Nat) (s : State) : State :=
  if !partsServed s then s
  else if !partExists s p then partResult 0x08 p s
  else partResult 0 p (deleteNow s p)

/-- The reset of a partition (R404, R468): requests in flight end, the job is killed, the L1s are written back, the hold flag
is cleared. -/
def resetPart (s : State) (p : Nat) : State :=
  let s := endInFlight s p 5
  let s := killNow s p 0x11 false
  let s := writeBackAll s p
  let s := updTiles s (partTiles s p) idleTile
  updPart s p (fun x => { x with hold := false, state := 2 })

/-- RESET: where partition resets are sampled, the snapshot goes first (R475). -/
def reset (p : Nat) (s : State) : State :=
  if !partsServed s then s
  else if !partExists s p then partResult 0x08 p s
  else if sampled s 2 && s.rcv.snap.isNone then partResult 0 p (startSnap (endInFlight s p 5) 2 0x11 (some p))
  else partResult 0 p (resetPart s p)

/-- SESSION_EXTENT (R406): a name that is refused changes nothing. -/
def sessionExtent (p ext : Nat) (s : State) : State :=
  if !extentNameOk s p ext then s
  else
    let s := dictPut s 0x3011 (p + 1) (natLe 2 ext)
    if partExists s p then scanExtent s p else s

end Sys2Proof.Machine
end

