-- ==== Sys2Proof/Machine/Recovery.lean ====
section
/-!
DEFINITION. Resets of the device and the module (R468–R471, R536, R546), the count that withdraws the module (R472–R474), the
hang snapshot and its sample (R330, R475–R479), the watchdogs (R464), escalation.
-/

namespace Sys2Proof.Machine

/-! ### What a reset of the Hazel dies leaves (R470, R546) -/

/-- A lockstep port while the dies are in reset: lanes trained, tables and buffers empty, alignment to come (R366). -/
def portHeld (x : Port) : Port :=
  { x with
    state := if x.state = 4 || x.state = 6 then 3 else x.state, part := none, sendA := [], sendS := [], landA := [], landS := [],
    buf := [], winQ := [], credits := [], owed := [], held := [], samples := [], measured := false, fMin := 0, skewValid := false,
    lost := 0, realign := none, declF := 0 }

/-- The group time of a module whose dies are in reset. -/
def timeHeld (g : GroupTime) : GroupTime :=
  { g with aligned := false, offset := 0, slip := none, slipped := false, redo := g.aligned || g.redo, lag := 0, freq := [], freqSeen := [],
           routes := [], cut := [] }

/-- What is left of a partition's record: its energy accounts, its kills and hold flag, which the Husk keeps. -/
def partHeld (x : Part) : Part := { partReset with energy := x.energy, kills := x.kills, hold := x.hold }

/-- What is left of a stack: whether it was shut down for temperature in the service that ends (R301). -/
def stackHeld (x : Stack) : Stack := { stackReset with hot := x.hot && x.state = .shutDown }

/-- The governor over a device reset: its history stays (R441). -/
def govHeld (g : Gov) : Gov := { g with interval := 0, epoch := 0, clock := 0, halfDone := false, next := 7, goodRun := 0, hot := false, stretchLeft := 0, wanted := [] }

/-- The seal over a device reset (R526, R527). -/
def devHeld (d : Dev) : Dev := { d with mismatch := false, stale := true, touched := true }

/-- Ready bits that a mask leaves. -/
def keepReady (mask : Nat) (b : Boot) : Boot := { b with ready := b.ready &&& BitVec.ofNat 32 mask }

/-- Page writes that are not counted end with the old page or the new one, whole (R319, R332): which of the two is free where
every byte has come. -/
def dropWrites (s : State) : State :=
  s.seed.writes.foldl (fun s w =>
    let s' := { s with fresh := s.fresh + 1 }
    if w.left = 0 && Config.freeNat s.fresh % 2 = 1 then updSeed s' (writePage w.ext w.page w.data w.poison) else s') s

/-- Every Hazel die, stack and home slice in reset: DM, stores, slices and session table gone; uncounted Seedbank writes end; ready bits 3 to 7 and 10 fall; the device cycle counter starts at 0 (R201, R470, R519, R546). -/
def hazelDown (s : State) : State :=
  let s := dropWrites s
  { s with
    cycle := 0, point := 7, tile0 := tileReset, tiles := [], slice0 := sliceReset, slices := [], rings := [], net := [], wires := [],
    esp := { espReset with fifoOld := s.esp.fifoOld, fifoChanged := s.esp.fifoChanged },
    xl := [], stk := fmMap stackReset stackHeld s.stk, dm := { dmReset with failed := s.dm.failed },
    seed := { s.seed with reads := [], writes := [], moving := [] },
    coppice := fmMap portUnset portHeld s.coppice, gt := timeHeld s.gt,
    parts := fmMap partReset partHeld s.parts, sessions := [], homeReports := [], pcount := [], devCount := [], sliceLists := [],
    gov := govHeld s.gov, dev := devHeld s.dev, boot := keepReady 0xFFFFFB07 s.boot }

/-- The Husk in reset too: what is not in NOR, in the Seedbank or in standby-domain hardware takes its reset value (R468, R509,
R536). A trip that is in force stays so. -/
def huskDown (s : State) : State :=
  let g := s.gov
  { s with
    coppice := [], gt := gtReset, parts := fmMap partReset (fun x => { x with kills := [], hold := false }) s.parts,
    gov := { govReset with from_ := s.us, inletSecs := g.inletSecs, inletUs := g.inletUs, sensors := g.sensors, clockStopped := g.clockStopped,
                           huskTrip := g.huskTrip, regTrip := g.regTrip },
    ctl := { ctlReset with vals := s.ctl.vals.filter (fun x => keptKey x.1), clock := s.ctl.clock },
    dev := devReset, esp := { s.esp with fifoChanged := 0 },
    graft := { graftReset with testRec := s.graft.testRec, fieldRec := s.graft.fieldRec, lastFail := s.graft.lastFail },
    seed := { s.seed with status := 0, channels := [], result := 0 },
    boot := { s.boot with active := s.boot.active != s.boot.activate, activate := false, running := none, fwResult := 0, ready := 0,
                          admitted := false },
    pins := { s.pins with vendorTap := false } }

/-! ### The count of resets (R472, R483) -/

/-- Standby-domain time as 0x1031 shows it. -/
def standbyTime (s : State) : Nat := (s.us + s.ctl.clock) % 2 ^ 64

/-- A reset with an internal cause counts toward Withdrawn: 256 and more marks one that the operator commanded. -/
def counted (cause : Nat) : Bool := cause < 256 && !([0x01, 0x0B, 0x0C, 0x0E].contains cause)

/-- Times of the counted resets within the window of 0x9030:02, a new one among them. -/
def countTimes (s : State) (cause : Nat) : List Nat :=
  let old := s.rcv.times.filter (fun t => s.us < t + 1000000 * dictNat s 0x9030 2 3600)
  if counted cause then old ++ [s.us] else old

/-- The reset reaches the limit of 0x9030:01. -/
def withdraws (s : State) (cause : Nat) : Bool := counted cause && dictNat s 0x9030 1 3 ≤ (countTimes s cause).length

/-- A device or module reset entered in the history with its crash slot (R483). -/
def noteReset (s : State) (domain cause slot : Nat) : State :=
  let e := natLe 8 (standbyTime s) ++ natLe 1 (cause % 256) ++ natLe 1 domain ++ natLe 2 slot ++ zeros 4
  devEvent 4 { s with rcv := { s.rcv with
    history := (e :: s.rcv.history).take 16, withdrawn := s.rcv.withdrawn || withdraws s cause, times := countTimes s cause,
    asked := none, snap := none, after := none, resetting := true, starts := s.rcv.starts + 1 } }

/-- The reset itself (R471 steps 3, 4): a device reset ends with the dies held, ready for the start sequence; in Withdrawn they
stay held (R472). -/
def resetNow (domain cause slot : Nat) (s : State) : State :=
  let s := noteReset s domain cause slot
  if domain = 3 then hazelDown s else huskDown (hazelDown s)

/-! ### The hang snapshot (R330, R475–R478) -/

/-- The slot that the next sample goes to: the next in rotation that the lock mask of 0x5050 leaves. -/
def sampleSlot (s : State) : Option Nat :=
  let mask := dictNat s 0x5050 0 0
  ((List.range 16).map (fun i => (s.seed.nextSlot + i) % 16)).find? (fun k => !mask.testBit k)

/-- Bytes received from a tile. -/
def snapBytes (x : Snap) (t : Nat) : List Byte := (fmGet [] x.got t).flatMap (fun w => natLe 4 w.toNat)

/-- Words of a whole tile record and LS sample. -/
def snapWhole : Nat := 16640

/-- A tile of the domain not fully received is silent (R476). -/
def silent (x : Snap) (t : Nat) : Bool := x.tiles.contains t && (fmGet [] x.got t).length < snapWhole

/-- The record of a tile in a sample (R477, R479). -/
def sampleRecord (x : Snap) (t : Nat) : List Byte :=
  if !x.tiles.contains t then zeros 1024
  else if silent x t then fit 0 1024 (natLe 2 t ++ [0, 4])
  else
    let b := (snapBytes x t).take 1024
    b.take 3 ++ [3] ++ b.drop 4

/-- LS sample of a tile: what has arrived. -/
def sampleLs (x : Snap) (t : Nat) : List Byte := if x.tiles.contains t then fit 0 65536 ((snapBytes x t).drop 1024) else zeros 65536

/-- Slices whose records a sample holds. -/
def sampleSlices (s : State) (x : Snap) : List Nat :=
  if 3 ≤ x.domain then List.range 256 else (List.range 32).flatMap (fun p => if x.parts.testBit p then fmGet [] s.sliceLists p else [])

/-- A page of a sample but the header page. The contents of slice and Husk records the manual does not list: they are free from
number `free` on. -/
def samplePage (s : State) (x : Snap) (free k : Nat) : List Byte :=
  let any_ (i n : Nat) : List Byte := (List.range n).map (fun j => Config.freeByte (free + i + j))
  if k ≤ 132 then (List.range 16).flatMap (fun i => sampleRecord x (16 * (k - 1) + i))
  else if k ≤ 148 then
    (List.range 16).flatMap (fun i =>
      let h := 16 * (k - 133) + i
      if (sampleSlices s x).contains h then any_ (1024 * h) 1024 else zeros 1024)
  else if k ≤ 164 then (if 3 ≤ x.domain then any_ (262144 + 16384 * (k - 149)) 16384 else zeros 16384)
  else ((sampleLs x ((k - 165) / 4)).drop (16384 * ((k - 165) % 4))).take 16384

/-- Last page of a sample. -/
def lastPage : Nat := 8612

/-- The fault record of the kill that the snapshot goes before; zeros for a larger reset (R478). -/
def sampleFault (s : State) (x : Snap) (p : Option Nat) : List Byte :=
  match p with
  | some p => if x.domain ≤ 2 then faultBytes (makeRecord ((partAt s p).faults.faults ++ owedFaults s p) x.cause) else zeros 192
  | none => zeros 192

/-- The header page (R478); `b` marks the budget, `w` that the reset enters Withdrawn, `dcrc` the CRC of the other pages. -/
def sampleHeader (s : State) (x : Snap) (p : Option Nat) (b w : Bool) (dcrc : Nat) : List Byte :=
  let still := (x.tiles.filter (silent x)).length
  let head :=
    natLe 4 1 ++ natLe 1 (x.cause % 256) ++ natLe 1 x.domain ++ natLe 1 (bnat b + 2 * bnat x.stoppedClock + 4 * bnat w) ++ zeros 1 ++
    natLe 4 x.parts ++ natLe 4 (s.rcv.samples + 1) ++ natLe 8 x.cycle ++ natLe 8 x.us ++ natLe 2 (x.tiles.length - still) ++
    natLe 2 still ++ natLe 4 lastPage ++ zeros 24 ++ fit 0 192 (sampleFault s x p) ++ natLe 4 dcrc
  fit 0 16384 (head ++ natLe 4 (crc32c head))

/-- The sample written into its slot, the header page last (R330, R477); `slot` its number, 0xFFFF where every slot is locked. -/
def writeSample (s : State) (x : Snap) (p : Option Nat) (b w : Bool) : State × Nat :=
  match sampleSlot s with
  | none => (updSeed s (seedCount 7), 0xFFFF)
  | some k =>
    let base := k * 16384
    let pages := (List.range lastPage).map (fun i => (i + 1, samplePage s x s.fresh (i + 1)))
    let seed := pages.foldl (fun y q => writePage 0 (base + q.1) [(0, q.2)] [] y) s.seed
    let dcrc := crc32c (pages.flatMap (·.2))
    let seed := writePage 0 base [(0, sampleHeader s x p b w dcrc)] [] seed
    ({ s with
       fresh := s.fresh + 524288, rcv := { s.rcv with samples := s.rcv.samples + 1 },
       seed := noteWritten 0 (16384 * (lastPage + 1)) { seed with nextSlot := (k + 1) % 16 } }, k)

/-- What a snapshot was taken for goes on: a job kill, a partition reset, a device or module reset (R475). -/
def proceed (s : State) (domain cause : Nat) (p : Option Nat) (slot : Nat) : State :=
  let s := { s with rcv := { s.rcv with snap := none, after := none } }
  if domain = 1 then (match p with
    | some p => killNow s p cause true
    | none => s)
  else if domain = 2 then (match p with
    | some p => resetPart s p
    | none => s)
  else resetNow domain cause slot s

/-- Collection ends (R476): the sample is written, and the reset proceeds, or the larger one asked for meanwhile (R484). -/
def finishSnap (b : Bool) (s : State) : State :=
  match s.rcv.snap, s.rcv.after with
  | some x, some (d, c, p) =>
    let (d', c') := match s.rcv.asked with
      | some (d2, c2) => if d < d2 then (d2, c2) else (d, c)
      | none => (d, c)
    let (s, slot) := writeSample s x p b (3 ≤ d' && withdraws s c')
    proceed s d' c' p slot
  | _, _ => s

/-- The snapshot is whole once every tile has sent its record and LS sample. -/
def snapComplete (s : State) : Bool :=
  s.rcv.snap.any (fun x => x.tiles.all (fun t => snapWhole ≤ (fmGet [] x.got t).length))

/-- SNAP_DATA, and the end of collection with the last words (R475). -/
def snapArrive (t : Nat) (words : List (BitVec 32)) (s : State) : State :=
  let s := snapData t words s
  if snapComplete s then finishSnap false s else s

/-- SNAPSHOT_BUDGET (R476): 50 ms after the first SNAP_REQ. -/
def snapBudget (s : State) : State :=
  match s.rcv.snap with
  | some x => finishSnap true (atUs s (x.us + 50000))
  | none => s

/-- The compute clock stops under a trip: collection ends (R476, R484). -/
def snapStop (s : State) : State :=
  match s.rcv.snap with
  | some x => finishSnap false { s with rcv := { s.rcv with snap := some { x with stoppedClock := true } } }
  | none => s

/-! ### Resets of the device and the module -/

/-- A reset of a domain begins (R471): intake stops; the snapshot goes first where 0x9040 selects the domain and the tiles are up;
a reset during a snapshot waits for its end, and in the snapshot's first cycle takes its place (R484). A boundary-scan session holds the dies already (R570). -/
def beginReset (domain cause : Nat) (s : State) : State :=
  if domain = 3 && s.pins.taken then s
  else if s.rcv.snap.any (fun x => x.domain < domain && x.cycle = s.cycle) && !s.gov.clockStopped then
    startSnap { s with rcv := { s.rcv with resetting := true, began := s.us } } domain cause none
  else if s.rcv.snap.isSome then askReset s domain cause
  else
    let s := { s with rcv := { s.rcv with resetting := true, began := if s.rcv.resetting then s.rcv.began else s.us } }
    if sampled s domain && s.boot.ready.toNat.testBit 6 && !s.gov.clockStopped then startSnap s domain cause none
    else resetNow domain cause 0xFFFF s

/-- DEVICE_RESET (R471), with a cause of R479. -/
def deviceReset (cause : Nat) (s : State) : State := if s.boot.running.isNone then s else beginReset 3 cause s

/-- MODULE_RESET: with cause 0x02 the operator's, which is not counted (R472). -/
def moduleReset (cause : Nat) (s : State) : State := beginReset 4 (if cause = 2 then 258 else cause) s

/-- HUB_WATCHDOG (R464): a die's hub silent for 10 ms. -/
def hubWatchdog (d : Nat) (s : State) : State :=
  if s.esp.hubOk.toNat.testBit d then
    deviceReset 0x08 { s with esp := { s.esp with hubOk := s.esp.hubOk &&& ~~~BitVec.ofNat 4 (2 ^ d) } }
  else s

/-- ESCALATION (R468): a reset that misses its bound is replaced by one of the next domain: after 10 ms a job's by a partition reset, after 100 ms a
partition's by a device reset, after 10 s the device's by a module reset. -/
def escalate (p : Option Nat) (s : State) : State :=
  let began := (s.rcv.snap.map (·.us)).getD s.us
  match p, s.rcv.after with
  | some p, some (1, _, some q) =>
    if p ≠ q then s
    else
      let s := atUs s (began + 10000)
      { s with rcv := { s.rcv with after := some (2, 0x11, some p) } }
  | some p, some (2, _, some q) =>
    if p ≠ q then s
    else
      let s := atUs s (began + 100000)
      { s with rcv := { s.rcv with after := some (3, 0x07, none) } }
  | none, _ => if s.rcv.resetting then beginReset 4 0x07 (atUs s (s.rcv.began + 10000000)) else s
  | _, _ => s

/-- CLEAR_WITHDRAWN (R474): the count goes, and an uncounted device reset starts the module again. -/
def clearWithdrawn (s : State) : State :=
  if !s.rcv.withdrawn then s
  else
    let s := { s with rcv := { s.rcv with withdrawn := false, times := [] } }
    if s.rcv.resetting && s.rcv.snap.isSome then s else deviceReset 0x0C s

/-- ENTER_WITHDRAWN (R474). -/
def enterWithdrawn (s : State) : State :=
  if s.rcv.withdrawn then s else deviceReset 0x0C { s with rcv := { s.rcv with withdrawn := true } }

end Sys2Proof.Machine
end

