-- ==== Sys2Proof/Machine/Power.lean ====
section
/-!
DEFINITION. The governor (R436–R459): estimation intervals, sensors, trips, calibration, the cap and its window, operating points,
stretch events, headroom and its division.
-/

namespace Sys2Proof.Machine

def updGov (s : State) (f : Gov → Gov) : State := { s with gov := f s.gov }

/-- A PWR_EVENT bit (R461) with the device event. -/
def pwrEvent (b : Nat) (s : State) : State :=
  devEvent 1 (updGov s (fun g => { g with event := g.event ||| BitVec.ofNat 5 (2 ^ b) }))

/-- A calibration gain in 1/65,536 (R438). -/
def gainOf (g : Gov) (d : Nat) : Nat := fmGet 65536 g.gains d

/-- A domain's gain set to 1.00 and frozen (R439). -/
def freezeGain (d : Nat) (s : State) : State :=
  if fmGet false s.gov.frozen d then s
  else pwrEvent 3 (updGov s (fun g => { g with gains := fmSet 65536 g.gains d 65536, frozen := fmSet false g.frozen d true }))

/-! ### Stretch events (R385, R444, R450–R452) -/

/-- A trigger starts a stretch event, or extends the one under way to 256 ideal periods after it (R451). -/
def stretchTrigger (s : State) : State :=
  updGov s (fun g =>
    { g with stretchLeft := 256, stretches := if g.stretchLeft = 0 then satAdd (2 ^ 64 - 1) g.stretches 1 else g.stretches })

/-- A fast limit acts (R444). -/
def fastLimit (s : State) : State :=
  pwrEvent 1 (stretchTrigger (updGov s (fun g => { g with fastEvents := satAdd (2 ^ 64 - 1) g.fastEvents 1 })))

/-- DROOP_DETECTION (R450). -/
def droop (_region : Nat) (s : State) : State :=
  if s.gov.clockStopped || !s.boot.ready.toNat.testBit 3 then s else pwrEvent 0 (stretchTrigger s)

/-- STRETCH_EVENT (R451, R452): the ideal periods that are left pass with every second pulse; LAG grows by the others, and past
1,024 kills a lockstep job. -/
def stretch (s : State) : State :=
  if s.gov.clockStopped then s
  else
    let s := advanceTo s (s.cycle + s.gov.stretchLeft / 2)
    if 1024 < s.gt.lag then killLockstep s 0x14 else s

/-- STRETCH_EVENT_END (R444, R451): 256 periods after the last trigger; another follows while the estimate stays above P_CEIL. -/
def stretchEnd (s : State) : State :=
  let s := stretch s
  if 10000000 ≤ s.gov.overNs && s.gov.stretchLeft = 0 then fastLimit s else s

/-! ### Sensors and trips (R453, R563) -/

/-- Sensor readings by number: 0–3 Hazel, 4 Husk, 5 regulators, 8 + c NAND package of channel c. -/
def sensorMap (x : Sensors) : FMap Int :=
  let hazel := (List.range 4).foldl (fun m d => fmSet 0 m d (x.hazel.getD d 0)) []
  let m := fmSet 0 (fmSet 0 hazel 4 x.husk) 5 x.regulator
  (List.range 32).foldl (fun m c => fmSet 0 m (8 + c) (x.nand.getD c 0)) m

/-- Hottest Hazel sensor of the readings in force. -/
def hottestHazel (g : Gov) : Int := (List.range 4).foldl (fun m d => max m (fmGet 0 g.sensors d)) (fmGet 0 g.sensors 0)

/-- Channels whose package fulfils `f`, as a mask. -/
def nandMask (g : Gov) (f : Int → Bool) : Nat := ((List.range 32).map (fun c => if f (fmGet 0 g.sensors (8 + c)) then 2 ^ c else 0)).sum

/-- Throttles by the readings in force; a channel that reads only does so until its package is below 80 °C. -/
def throttles (g : Gov) : Gov :=
  let held := nandMask g (fun t => decide (80000 ≤ t))
  { g with
    hottest := (hottestHazel g).toNat / 1000, thermal := decide (100000 ≤ hottestHazel g), hot := g.hot || decide (95000 < hottestHazel g),
    huskThrottle := decide (100000 ≤ fmGet 0 g.sensors 4), regThrottle := decide (115000 ≤ fmGet 0 g.sensors 5),
    nandThrottle := BitVec.ofNat 32 (nandMask g (fun t => decide (70000 ≤ t))),
    nandStop := (g.nandStop &&& BitVec.ofNat 32 held) ||| BitVec.ofNat 32 (nandMask g (fun t => decide (85000 ≤ t))) }

/-- A Hazel trip: the compute clock stops, every job is killed, a device reset is asked for. No code of R479 names the kill's
cause: it is free. -/
def hazelTrip (s : State) : State :=
  if s.gov.clockStopped || !s.boot.ready.toNat.testBit 3 then s
  else
    let s := snapStop (pwrEvent 4 (updGov s (fun g => { g with clockStopped := true })))
    let (s, k) := draw s
    askReset ((s.parts.map (·.1)).foldl (fun s p => killNow s p (k % 256) false) s) 3 0x04

/-- The inlet outside 20 to 45 °C counts its second once (R563). -/
def inletSecond (g : Gov) (us : Nat) : Gov :=
  if (20000 ≤ g.coolIn && g.coolIn ≤ 45000) || g.inletUs = us / 1000000 + 1 then g
  else { g with inletSecs := satAdd (2 ^ 64 - 1) g.inletSecs 1, inletUs := us / 1000000 + 1 }

/-- The readings of an interval, and what they start: the trips of R453, regulators and Husk last, since a module reset follows. -/
def readSensors (x : Interval) (s : State) : State :=
  let s := updSeed s (agePackages (fun c => fmGet 0 s.gov.sensors (8 + c)) s.us)
  let s := updGov s (fun g => inletSecond (throttles { g with
    sensors := sensorMap x.sensors, coolIn := x.coolantIn, coolOut := x.coolantOut, mainMv := x.mainMv, stbyMv := x.standbyMv }) s.us)
  let s := if 110000 ≤ hottestHazel s.gov then hazelTrip s else s
  let s := if 110000 ≤ fmGet 0 s.gov.sensors 4 && !s.gov.huskTrip then
      beginReset 4 0x0D (updGov s (fun g => { g with huskTrip := true })) else s
  if 125000 ≤ fmGet 0 s.gov.sensors 5 && !s.gov.regTrip then
    beginReset 4 0x09 (updGov s (fun g => { g with regTrip := true })) else s

/-- TRIP_CLEAR (R453): every tripped sensor is below its clear temperature; what it held may start. -/
def tripClear (s : State) : State :=
  let g := s.gov
  let ok : Bool := (!g.clockStopped || hottestHazel g < 90000) && (!g.huskTrip || fmGet 0 g.sensors 4 < 90000) &&
    (!g.regTrip || fmGet 0 g.sensors 5 < 100000)
  if ok then updGov s (fun g => { g with clockStopped := false, huskTrip := false, regTrip := false }) else s

/-! ### Estimation intervals (R436, R444, R454) -/

/-- A supply's voltage at a point, in mV: a fused value of the point (R445). -/
def supplyMv (point supply : Nat) : Nat := Config.fused (100 + 8 * point + supply)

/-- Uncalibrated energy of a domain in an interval of `ns` nanoseconds, in µJ (R436): events by weight and the square of the voltage, leakage by
voltage, temperature and time, over the regulators' efficiency at that load. -/
def rawEnergy (point ns : Nat) (sensors : FMap Int) (x : Interval) (d : Nat) : Nat :=
  let event (a : Activity) : Nat :=
    let w := Config.weight a.kind * a.count
    if 4 < a.supply then w else w * supplyMv point a.supply ^ 2 / max 1 (supplyMv 0 a.supply ^ 2)
  let leak (u : Leak) : Nat := Config.leakage u.unit (supplyMv point u.supply) (fmGet 0 sensors u.sensor) * ns
  let pj := ((x.activity.filter (·.domain = d)).map event).sum + ((x.leaks.filter (·.domain = d)).map leak).sum
  pj * 65536 / max 1 (Config.efficiency (pj / max 1 (1000 * ns))) / 1000000

/-- The uncalibrated estimates of the 21 domains. -/
def rawAll (point ns : Nat) (sensors : FMap Int) (x : Interval) : List Nat := (List.range 21).map (rawEnergy point ns sensors x)

/-- The calibrated estimate of an interval in µJ. -/
def intervalEnergy (g : Gov) (raw : List Nat) : Nat :=
  ((List.range 21).map (fun d => gainOf g d * raw.getD d 0 / 65536)).sum

/-- U64 in mJ, held in µJ. -/
def topEnergy : Nat := (2 ^ 64 - 1) * 1000 + 999

/-- The partition in TILE_CFG of a tile, if it is valid. -/
def tileAccount (s : State) (t : Nat) : Option Nat := if (tileAt s t).regs.partValid then some (partOf s t) else none

/-- The owning partition of a home slice. -/
def sliceAccount (s : State) (h : Nat) : Option Nat := if (sliceAt s h).valid then some (sliceAt s h).part.toNat else none

/-- The partition whose account a consumer's energy is charged to; none: the device (R454). -/
def accountOf (s : State) (c : Consumer) : Option Nat :=
  match c with
  | .tile t => tileAccount s t.val
  | .slot t o k =>
    let e := (fmGet (0 : BitVec 8) (tileAt s t.val).router.active (slotKey o.val k.val)).toNat
    if field e 7 6 = 1 then (List.range 32).find? (fun p => ownsSlot s p t.val o.val k.val)
    else if field e 7 6 = 2 then some (field e 5 1)
    else tileAccount s t.val
  | .router t => tileAccount s t.val
  | .slice h => sliceAccount s h.val
  | .stacks h => sliceAccount s h.val
  | .lockstep n => (portNo s n.val).part
  | .datagram p => some p.val
  | .flash ext => (extentAt s ext).map (·.owner)
  | .device => none

/-- The estimate charged to the accounts by the consumers' shares (R454), regulation losses with them in proportion. -/
def chargeAll (e : Nat) (shares : List (Consumer × Nat)) (s : State) : State :=
  let total := (shares.map (·.2)).sum
  shares.foldl (fun s x =>
    let n := e * x.2 / max 1 total
    match (accountOf s x.1).filter (partExists s) with
    | some p => updPart s p (fun y => { y with energy := fmUpd 0 y.energy 18 (fun v => satAdd topEnergy v n) })
    | none => updGov s (fun g => { g with devAccount := satAdd topEnergy g.devAccount n, devCharge := g.devCharge + n })) s

/-- The estimate of an interval of `ns` nanoseconds against the fast limits (R444). -/
def fastLimits (e ns : Nat) (s : State) : State :=
  let s := updGov s (fun g => { g with overNs := if g.ceilNow * ns < e * 1000 then g.overNs + ns else 0 })
  if 7500 * ns < e * 1000 then fastLimit s
  else if 10000000 ≤ s.gov.overNs && s.gov.stretchLeft = 0 then fastLimit s
  else s

/-- Sums of the present epoch. -/
def addInterval (x : Interval) (raw : List Nat) (e ns : Nat) (g : Gov) : Gov :=
  let sums := (List.range 21).foldl (fun m d => fmUpd 0 m d (· + raw.getD d 0)) g.raw
  let meas := (List.range 20).foldl (fun m d => fmUpd 0 m d (· + x.measuredStacks.getD d 0)) g.meas
  { g with raw := sums, meas := fmUpd 0 meas 20 (· + x.measuredInput), epochE := g.epochE + e, epochNs := g.epochNs + ns,
           est := capAt 65535 (e * 1000 / max 1 ns) }

/-- The standby clock in ns. -/
def nowNs (s : State) : Nat := s.us * 1000 + s.fs / 1000000

/-- The end of the interval that runs: a multiple of 4,096 cycles (R436); while the compute clock stands, the time alone passes. -/
def closeInterval (us : Nat) (s : State) : State :=
  if !clockOn s then atUs s (s.us + us)
  else
    let c := (s.cycle + 4095) / 4096 * 4096
    let c := if c / 4096 ≤ s.gov.interval then c + 4096 else c
    updGov (advanceTo s c) (fun g => { g with interval := c / 4096 })

/-- ESTIMATION_INTERVAL (R436). -/
def estimation (x : Interval) (s : State) : State :=
  let s := closeInterval x.us s
  let ns := nowNs s - s.gov.markNs
  let s := updGov s (fun g => { g with markNs := nowNs s })
  let s := (List.range 21).foldl (fun s d => if x.converterFault.getD d false then freezeGain d s else s) s
  let raw := rawAll s.point ns (sensorMap x.sensors) x
  let e := intervalEnergy s.gov raw
  let s := chargeAll e x.charges (updGov s (addInterval x raw e ns))
  readSensors x (fastLimits e ns s)

/-! ### Calibration and the window (R438–R443) -/

/-- A domain's measured energy in the epoch: a stack's, or the input less the stacks. -/
def measuredOf (g : Gov) (d : Nat) : Nat :=
  if d < 20 then fmGet 0 g.meas d else fmGet 0 g.meas 20 - ((List.range 20).map (fun k => fmGet 0 g.meas k)).sum

/-- One domain at an epoch boundary: its gain a sixteenth of the way to m / e, held within 0.50 to 1.25; a ratio outside 0.25 to
4.0 in 16 epochs in a row freezes it. -/
def calibrate (fusedMax : List Nat) (s : State) (d : Nat) : State :=
  let g := s.gov
  let e := fmGet 0 g.raw d
  let m := measuredOf g d
  if fmGet false g.frozen d || e = 0 then s
  else
    let bad : Bool := 4 * m < e || 4 * e < m
    let run := if bad then fmGet 0 g.badRun d + 1 else 0
    let s := updGov s (fun g => { g with badRun := fmSet 0 g.badRun d run })
    if 16 ≤ run then freezeGain d s
    else if 100 * e < fusedMax.getD d 0 then s
    else
      let old : Int := gainOf g d
      let new := clampInt 32768 81920 (old + (((m * 65536 / e : Nat) : Int) - old) / 16)
      updGov s (fun g => { g with gains := fmSet 65536 g.gains d new.toNat })

/-- Energy of an epoch of the history that falls after time `lo`, in parts of 1/`k` µs: in proportion to its time. -/
def energyAfter (k lo : Nat) (h : Nat × Nat × Nat) : Nat :=
  if h.1 * k ≤ lo then 0 else if lo + h.2.1 * k ≤ h.1 * k then h.2.2 else h.2.2 * (h.1 * k - lo) / max 1 (h.2.1 * k)

/-- Energy drawn in the `n`/`k` µs before now, every instant before the module reset counted at C (R441). -/
def drawnIn (g : Gov) (us k n : Nat) : Nat :=
  let lo := us * k - n
  (g.hist.map (energyAfter k lo)).sum + ceilDiv (g.capNow * (n - (us - g.from_) * k)) (max 1 k)

/-- H_e of an epoch that starts now at the point in force, in µJ (R442), D_e being 2^20 cycles at the point's frequency; halved while a
regulator throttles (R453). -/
def headroomNow (s : State) : Nat :=
  let g := s.gov
  let w := g.winNow * 1000000
  let k := pointMhz s.point
  let h := min (g.capNow * w - drawnIn g s.us k (w * k - 2 ^ 20)) (g.ceilNow * 2 ^ 20 / k)
  if g.regThrottle then h / 2 else h

/-- The ended epoch is overrun (R443). -/
def epochOverrun (g : Gov) : Bool := g.headroom * 102 < g.epochE * 100

/-- The ended epoch joins the history, and its sums begin anew. -/
def closeEpoch (us : Nat) (g : Gov) : Gov :=
  let late := epochOverrun g
  let good : Bool := !late && g.epochE * 100 ≤ g.headroom * 90 && !g.hot
  let mw (e : Nat) : Nat := e * 1000000 / max 1 g.epochNs
  { g with
    hist := (g.hist.filter (fun h => us < h.1 + 61000000)) ++ [(us, g.epochNs / 1000, g.epochE)],
    overrunLast := late, overruns := if late then satAdd (2 ^ 64 - 1) g.overruns 1 else g.overruns,
    goodRun := if good then g.goodRun + 1 else 0, hot := decide (95000 < hottestHazel g), measIn := mw (fmGet 0 g.meas 20),
    measStk := (List.range 20).foldl (fun m k => fmSet 0 m k (mw (fmGet 0 g.meas k))) [], lastEst := mw g.epochE,
    raw := [], meas := [], epochE := 0, epochNs := 0, devLast := g.devCharge, devCharge := 0 }

/-! ### Operating points (R119, R445–R449) -/

/-- The epoch clock: 1 the group cycle, 0 the device cycle counter (R119). -/
def epochClock (s : State) : Nat := bnat (inGroupTime s)

/-- Cycles to the next boundary of the epoch clock, at least 1. -/
def toBoundary (s : State) (half : Bool) : Nat :=
  let g := (epochCycle s s.cycle + (if half then 2 ^ 19 else 0)) % 2 ^ 20
  2 ^ 20 - g

/-- A point takes force (R445, R446). -/
def setPoint (p : Nat) (s : State) : State := { s with point := p }

/-- The frequency change named for an epoch that has come (R380). -/
def freqDue (s : State) (e : Nat) : Option Nat := ((s.gt.freq.filter (fun f => f.1 ≤ e)).getLast?).map (·.2)

/-- The point of the epoch that begins: the group's where the module has a group ID, its governor's choice otherwise. No change
takes effect at the boundary that ends an epoch cut short by a change of the epoch clock. -/
def pointChange (e : Nat) (s : State) : State :=
  let due := if inGroupTime s then freqDue s e else none
  let s := if inGroupTime s then { s with gt := { s.gt with freq := s.gt.freq.filter (fun f => e < f.1) } } else s
  if s.gov.clock ≠ epochClock s then updGov s (fun g => { g with clock := epochClock s })
  else if groupId s ≠ 0 then (match due with
    | some p => setPoint p s
    | none => s)
  else setPoint s.gov.next s

/-! ### Headroom and its division (R456) -/

/-- A partition's guaranteed part of H_D. -/
def guaranteed (hd : Nat) (x : Part) : Nat := hd * x.energyShare / 65536

/-- The epoch's headroom divided among the existing partitions; a deficit of the last epoch reduces its own part alone. -/
def divide (s : State) : State :=
  let h := headroomNow s
  let hd := h - s.gov.devLast
  let ps := s.parts.filter (fun x => partExists s x.1)
  let pool := hd - (ps.map (fun x => guaranteed hd x.2)).sum
  let s := ps.foldl (fun s x => updPart s x.1 (fun y =>
    { y with balance := max 0 ((guaranteed hd y : Int) + min 0 y.balance), drawn := 0 })) s
  updGov s (fun g => { g with headroom := h, pool := pool, poolInit := pool })

/-- The settings of 0x2010 come into force at the boundary, after the headroom of the ended epoch has been judged (R441, R462). -/
def takeSettings (s : State) : State :=
  updGov s (fun g => { g with capNow := dictNat s 0x2010 1 6000, winNow := dictNat s 0x2010 2 5, ceilNow := dictNat s 0x2010 3 6600 })

/-- EPOCH_BOUNDARY (R446): the point changes, and with it the FIFO depths in force (R190; a flit keeps its design latency, R202); gains
move; headroom is divided; idle stacks may enter self-refresh (R289). -/
def epochBoundary (x : EpochMeasure) (s : State) : State :=
  if !s.boot.ready.toNat.testBit 3 || s.gov.clockStopped then s
  else
    let s := advanceTo s (s.cycle + toBoundary s false)
    let e := epochOf (epochCycle s s.cycle)
    let s := (List.range 21).foldl (calibrate x.fusedMax) s
    let s := if epochOverrun s.gov then pwrEvent 2 s else s
    let s := takeSettings (updGov s (closeEpoch s.us))
    let s := mayIdle (pointChange e s)
    let s := divide (updGov s (fun g => { g with epoch := e, halfDone := false, group := decide (groupId s ≠ 0) }))
    updGov s (fun g => { g with avg := drawnIn g s.us 1 (g.winNow * 1000000) / (g.winNow * 1000000) })

/-- Points slower than `p` whose rating the running jobs' declarations exceed (R449). -/
def overRating (s : State) (q : Nat) : Bool :=
  (List.range 4).any (fun d => 1400 * pointMhz q < declared s d * pointMhz s.point)

/-- No point below the first whose rating is exceeded is chosen (R449). -/
def ratingLimit (s : State) (p : Nat) : Nat :=
  match (List.range 8).find? (fun q => s.point < q && overRating s q) with
  | some q => min p q
  | none => p

/-- The point a module wants for itself (R447). -/
def ownPoint (s : State) : Nat :=
  let g := s.gov
  let slower := min 7 (s.point + 1)
  if !s.parts.any (fun x => partExists s x.1) then 7
  else if g.thermal then slower
  else if g.overrunLast then ratingLimit s slower
  else if 16 ≤ g.goodRun then s.point - 1
  else s.point

/-- The ceiling of 0x2020 (R447). -/
def ceilPoint (s : State) (p : Nat) : Nat := max p (dictNat s 0x2020 0 0)

/-- A member's wanted point on its way to the root as a window cell (R448). -/
def sendWanted (p : Nat) (s : State) : State :=
  match (s.parts.find? (fun x => x.2.job.any (·.lockstep))).map (·.1) with
  | none => s
  | some part =>
    let e := epochOf (groupCycle s s.cycle)
    let data := natLe 1 p ++ natLe 1 (bnat s.gov.thermal + 2 * bnat s.gov.overrunLast) ++ natLe 2 (memberNo s) ++ natLe 4 e
    let c : LockCell :=
      { kind := 3, jobTag := 0, tick := 0, pos := 0, poison := false, dstModule := BitVec.ofNat 10 (dictNat s 0x2040 1 0),
        srcModule := BitVec.ofNat 10 (memberNo s), rpart := BitVec.ofNat 5 part, window := 63, offset := 0, cntTile := 0, ac := 0,
        len8 := 1, hops := 0, crc := 0, data := fit 0 64 data }
    { s with gt := { s.gt with cut := s.gt.cut ++ [(nTiles, 0, c)] } }

/-- The group point that a root chooses: the lowest of its own and the members' (R448). -/
def groupPoint (s : State) : Nat :=
  let own := ceilPoint s (ownPoint s)
  let all := s.gov.wanted.foldl (fun m x => max m (x.2.getD 0)) own
  min 7 (if s.gov.thermal then max own (ratingLimit s all) else ratingLimit s all)

/-- POINT_DECISION (R446–R448): cycle 2^19 of an epoch. -/
def decidePoint (s : State) : State :=
  if !s.boot.ready.toNat.testBit 3 || s.gov.clockStopped then s
  else
    let s := if (epochCycle s s.cycle) % 2 ^ 20 = 2 ^ 19 && !s.gov.halfDone then s else advanceTo s (s.cycle + toBoundary s true)
    let s := updGov s (fun g => { g with halfDone := true })
    if groupId s = 0 then updGov s (fun g => { g with next := ceilPoint s (ownPoint s) })
    else if isRoot s then
      if !s.gt.aligned then s
      else
        let p := groupPoint s
        let e := epochOf (groupCycle s s.cycle) + 3
        sendFreq { s with gt := { s.gt with freqSeen := s.gt.freqSeen ++ [e], freq := s.gt.freq ++ [(e, p)] } } e p none
    else sendWanted (ownPoint s) s

end Sys2Proof.Machine
end

