-- ==== Sys2Proof/Machine/Lifecycle.lean ====
section
/-!
DEFINITION. Boot and firmware (R531–R534), main power and the start sequence (R535–R539), the PCIe link (R539, R554), life-cycle
states and transitions (R540–R547).
-/

namespace Sys2Proof.Machine

def updBoot (s : State) (f : Boot → Boot) : State := { s with boot := f s.boot }

/-- A ready bit of 0x1010 (R519). -/
def readyBit (s : State) (n : Nat) : Bool := s.boot.ready.toNat.testBit n
def raiseReady (n : Nat) (b : Boot) : Boot := { b with ready := b.ready ||| BitVec.ofNat 32 (2 ^ n) }
def dropReady (n : Nat) (b : Boot) : Boot := { b with ready := b.ready &&& ~~~BitVec.ofNat 32 (2 ^ n) }

/-- A slot of the firmware's NOR: A where `b` is false. -/
def slotOf (x : Boot) (b : Bool) : Memory := if b then x.slotB else x.slotA
def setSlot (b : Bool) (m : Memory) (x : Boot) : Boot := if b then { x with slotB := m } else { x with slotA := m }

/-! ### Boot (R532, R533) and what follows it -/

/-- The image of a slot is accepted (R532). -/
def slotOk (x : Boot) (b : Bool) : Bool := Config.imageSigned (slotOf x b) && decide (x.fusedMin ≤ Config.imageVersion (slotOf x b))

/-- Role of a port in a lane profile (R365): 0 off, 1 lockstep, 2 service, 3 mirror. -/
def profileRole (profile n : Nat) : Nat :=
  if profile = 0 then (if n ≤ 5 then 1 else 2)
  else if profile = 1 then 1
  else if profile = 2 then (if n ≤ 3 then 1 else 2)
  else if profile = 3 then (if n ≤ 5 then 1 else if n = 6 then 2 else 3)
  else if profile = 4 then (if n ≤ 3 then 1 else if n ≤ 5 then 2 else 3)
  else if profile = 5 then (if n ≤ 5 then 0 else 2)
  else 0

/-- The ports by the profile of 0x6010 and the media of 0x6014 (R364, R366). -/
def takeProfile (s : State) : State :=
  let p := dictNat s 0x6010 0 0
  let s := { s with gt := { s.gt with profile := p } }
  (List.range 8).foldl (fun s n =>
    let role := profileRole p n
    updNo s n (fun x => { x with role := role, state := if role = 0 then 0 else 1, media := dictNat s 0x6014 (n + 1) 0 })) s

/-! ### Transitions (R541–R547) -/

/-- Roles: 0 operator, 1 tenant, 2 vendor. A pair of states and a role that R541 lists. -/
def lifeAllowed (old new role : Nat) : Bool :=
  (old = 0 && new = 1 && role = 2) || (old = 1 && new = 2 && role = 0) || (old = 2 && new = 3 && role = 0) ||
  (old = 3 && new = 2 && role = 0) || (old = 3 && new = 1 && role = 2) || (old ≠ 0 && old < 4 && new = 4 && role = 0)

/-- The Seedbank after its keys are destroyed and its metadata reset (R543 steps 4, 5): extent 0 alone, under a new key. -/
def cryptoErase (key : Nat) (x : Seed) : Seed :=
  { x with extents := [(0, some ⟨0xFF, 4, key, 0⟩)], mem := [], poison := [], lost := [], loc := [], staged := [], reads := [], writes := [],
           moving := [] }

/-- Every block that is not retired erased (R543 step 6). -/
def blockErase (x : Seed) : Seed :=
  { x with blocks := x.blocks.map (fun b => if b.2.use_ = .retired then b else (b.1, { b.2 with erases := b.2.erases + 1, reads := 0, born := fmGet 0 x.aged (blockChannel b.1), use_ := .free, pages := 0, queued := false })) }

/-- A health map with its Pruned entries cleared, for the defaults of R547. -/
def keepFaults (m : List Byte) : List Byte :=
  m.map (fun b => (List.range 4).foldl (fun v i => if field b.toNat (2 * i + 1) (2 * i) = 1 then v &&& ~~~BitVec.ofNat 8 (3 * 4 ^ i) else v) b)

/-- Persisted entries at their defaults, but for those that every transition keeps (R547). -/
def resetKept (s : State) : State :=
  let keep (x : Nat × Option (List Byte)) : Option (Nat × Option (List Byte)) :=
    if !keptKey x.1 then some x
    else if x.1 / 256 = 0x7110 then x.2.map (fun v => (x.1, some (keepFaults v)))
    else none
  { s with ctl := { s.ctl with vals := s.ctl.vals.filterMap keep },
           gov := { s.gov with inletSecs := 0 }, pins := { s.pins with refLosses := 0 } }

/-- Result, target and last step of a transition (0x1022). -/
def lifeCode (code target step : Nat) : Nat := code + 256 * target + 65536 * step

/-- Steps 4 to 8 of R543. -/
def lifeSteps (new : Nat) (s : State) : State :=
  let s := { s with fresh := s.fresh + 2, boot := { s.boot with seed := s.fresh + 1 }, seed := cryptoErase s.fresh s.seed }
  let s := if new = 4 then { s with seed := blockErase s.seed } else s
  let s := if new = 1 || new = 4 then resetKept s else s
  updBoot s (fun b => { b with life := new, record := none, lifeResult := lifeCode 0 new 8 })

/-- MAIN_POWER_LOST (R536): as a module reset of all but the management cores, the dictionary and the Seedbank scan. -/
def mainLost (s : State) : State :=
  if !readyBit s 2 && !s.boot.admitted then s
  else
    let s := hazelDown s
    let g := s.gov
    let s := { s with
      gov := { govReset with from_ := s.us, inletSecs := g.inletSecs, inletUs := g.inletUs, sensors := g.sensors, clockStopped := g.clockStopped,
                             huskTrip := g.huskTrip, regTrip := g.regTrip },
      dev := devReset, gt := gtReset, coppice := [],
      graft := { graftReset with testRec := s.graft.testRec, fieldRec := s.graft.fieldRec, lastFail := s.graft.lastFail },
      rcv := { s.rcv with snap := none, after := none, asked := none, resetting := false },
      ctl := { s.ctl with mbx := [], msix := [], pend := [] } }
    takeProfile (takeSettings (updBoot s (fun b => { keepReady 0x3 b with admitted := false })))

/-- Step 9: a device reset, or for Retired the dies held and main power off. -/
def lifeEnd (new : Nat) (s : State) : State :=
  let s := updBoot s (fun b => { b with lifeResult := lifeCode 0 new 9 })
  if new = 4 then mainLost (hazelDown s)
  else beginReset 3 0x0B s

/-- The role of a requester (R516, R520): I3C and the PF mailbox the operator, the PF mailbox the vendor after its AUTH, a VF mailbox
its tenant, a UDP session as it was opened. -/
def clientAt (s : State) (r : Nat) : Client := fmGet clientReset s.ctl.clients r

def updClient (s : State) (r : Nat) (f : Client → Client) : State :=
  { s with ctl := { s.ctl with clients := fmUpd clientReset s.ctl.clients r f } }

/-- Number of a requester: 0 I3C, 1 PF mailbox, 2 + n VF mailbox of Pn, 64 + k UDP session k. -/
def clientNo (r : Requester) : Nat :=
  match r with
  | .i3c => 0
  | .pfMailbox => 1
  | .vfMailbox n => 2 + n.val
  | .udp k => 64 + k

def roleOf (s : State) (r : Nat) : Nat :=
  if 2 ≤ r && r < 34 then 1 else if r = 0 then 0 else if (clientAt s r).vendor && (clientAt s r).authed then 2 else 0

/-- A transition may start now (R538, R545). -/
def lifeReady (s : State) : Bool := (readyBit s 10 && !s.rcv.resetting) || (s.rcv.withdrawn && readyBit s 1)

/-- TRANSITION: the 8 bytes written to 0x1021 by a requester (R542, R543). -/
def transition (r : Nat) (c : List Byte) (s : State) : State :=
  let new := leAt c 0 1
  let old := s.boot.life
  let stop (code : Nat) : State := updBoot s (fun b => { b with lifeResult := lifeCode code new 0 })
  if c.length ≠ 8 || roleOf s r = 1 || !lifeReady s then s
  else if !lifeAllowed old new (roleOf s r) then stop 0x01
  else if leAt c 4 4 ≠ crc32c Config.serial then stop 0x02
  else if leAt c 1 3 ≠ 0 then stop 0x03
  else
    let ps := (s.parts.filter (fun x => partExists s x.1)).map (·.1)
    let s := ps.foldl (fun s p => killNow (endAll s p 5 (fun _ => true)) p 0x17 false) s
    let s := updBoot s (fun b => { b with record := some (old, new) })
    lifeEnd new (lifeSteps new s)

/-- BOOT: the ROM accepts the active slot, or the other, or runs its loader; the firmware then serves the dictionary, takes its
persisted settings, and completes a transition that a power loss cut short (R544). -/
def bootUp (s : State) : State :=
  let b := s.boot
  if b.running.isSome then s
  else
    let pick : Option Bool := if slotOk b b.active then some b.active else if slotOk b (!b.active) then some (!b.active) else none
    let s := updBoot { s with pins := { s.pins with standby := true } } (fun b => raiseReady 0 { b with active := pick.getD b.active, running := some pick, upUs := s.us })
    match pick with
    | none => s
    | some _ =>
      let s := takeProfile (takeSettings s)
      match b.record with
      | some (_, new) => updBoot (lifeSteps new s) (fun b => { b with lifeResult := lifeCode 0 new 8 })
      | none => s

/-! ### Firmware update (R534) -/

/-- The slot that does not run next. -/
def inactive (x : Boot) : Bool := !x.active

/-- CHUNK: bytes 0 to 3 the offset, the rest data; one that reaches beyond 48 MiB is refused. -/
def chunk (data : List Byte) (s : State) : State :=
  let off := leAt data 0 4
  if s.boot.running.isNone || data.length < 8 || 1024 < data.length || off % 4 ≠ 0 || 48 * 2 ^ 20 < off + data.length - 4 then s
  else updBoot s (fun b => setSlot (inactive b) (memWrite (slotOf b (inactive b)) off (data.drop 4)) b)

/-- ERASE_INACTIVE_SLOT. -/
def eraseSlot (ok : Bool) (s : State) : State :=
  if s.boot.running.isNone then s
  else if ok then updBoot s (fun b => setSlot (inactive b) [] { b with fwResult := 0 })
  else updBoot s (fun b => { b with fwResult := 3 })

/-- CHECK_AND_ACTIVATE. -/
def checkSlot (s : State) : State :=
  if s.boot.running.isNone then s
  else
    let m := slotOf s.boot (inactive s.boot)
    if !Config.imageSigned m then updBoot s (fun b => { b with fwResult := 1 })
    else if Config.imageVersion m < s.boot.fusedMin then updBoot s (fun b => { b with fwResult := 2 })
    else updBoot s (fun b => { b with fwResult := 0, activate := true })

/-- RAISE_MINIMUM: fuses blown up to the running image's version; never lowered. -/
def raiseMinimum (s : State) : State :=
  match s.boot.running with
  | some (some b) => updBoot s (fun x => { x with fusedMin := min 64 (max x.fusedMin (Config.imageVersion (slotOf x b))), fwResult := 0 })
  | _ => s

/-! ### Main power (R536, R556) -/

/-- The firmware, not the loader, runs. -/
def firmwareRuns (s : State) : Bool := s.boot.running.any (·.isSome)

/-- MAIN_ADMISSION: bit 0 set, not Retired, no loader, and the Seedbank read, failed, or 30 s gone. -/
def mainAdmission (s : State) : State :=
  if !readyBit s 0 || s.boot.life = 4 || !firmwareRuns s || readyBit s 2 || s.gov.huskTrip || s.gov.regTrip then s
  else
    let s := if readyBit s 1 || s.seed.status = 3 then s else atUs s (s.boot.upUs + 30000000)
    let up (x : Port) : Port := if x.state = 1 then { x with state := 2 } else x
    { s with boot := raiseReady 2 { s.boot with admitted := true }, coppice := fmMap portUnset up s.coppice }

/-! ### The start sequence (R300, R352, R535, R537) -/

/-- Stacks at a start (R300, R301): failed marks and failing stages exclude, a hot one waits, the others become active. -/
def startStack (x : StartResults) (s : State) (k : Nat) : State :=
  if fmGet false s.dm.failed k then updStack s k (exclude 1)
  else match x.stackFail.find? (·.1 = k) with
    | some (_, stage) =>
      let seen := (List.range 30).map (fun i => Config.freeByte (s.fresh + i))
      let s := { s with fresh := s.fresh + 30, dm := { s.dm with failed := fmSet false s.dm.failed k true } }
      updStack s k (fun y => { exclude 1 y with record := [BitVec.ofNat 8 (stage - 1), BitVec.ofNat 8 stage] ++ seen })
    | none =>
      if (stackAt s k).hot && x.stackHot.contains k then updStack s k (fun y => { y with state := .training })
      else updStack { s with fresh := s.fresh + 30 } k (activate s.fresh (x.stackTemp.getD k 0))

/-- Tiles after their self-test (R50): RouterFault stays; a tile that fails is Pruned; the others are Idle, Healthy. -/
def startTile (x : StartResults) (s : State) (t : Nat) : State :=
  let h := healthOf s t
  let put (st : TileState) (s : State) : State := updTile s t (fun y => { y with regs := { y.regs with state := st } })
  if h = 2 then put .routerFault s
  else if x.selfTestFail.contains t then setHealth (put .pruned s) t 1
  else
    let s := if (tileAt s t).regs.state = .wiping then put .idle s else s
    if h = 1 then setHealth s t 0 else s

/-- The lockstep ports align anew (R366). -/
def realignAll (s : State) : State :=
  (List.range 8).foldl (fun s n => if (portNo s n).role = 1 && (portNo s n).linked && (portNo s n).state = 3 then startAlign n s else s) s

/-- START_SEQUENCE: the Hazel dies at point 7 with the first headroom, Graft, and with every die usable the stacks, tile stores and
slices, and the FIFOs; tiles that no Twig order reaches are set to RouterFault (R200). In Withdrawn, under a trip, a held pin session, or without REFCLK where it is awaited, nothing starts. -/
def startSequence (x : StartResults) (s : State) : State :=
  if !readyBit s 2 || readyBit s 3 || s.rcv.withdrawn || s.rcv.snap.isSome || s.gov.clockStopped || s.gov.huskTrip || s.gov.regTrip ||
      s.pins.refHold || s.pins.taken then s
  else
    let s := divide { s with point := 7, gov := { s.gov with markNs := nowNs s }, boot := { raiseReady 3 s.boot with onUs := s.us } }
    let s := graftTest x.graft s
    let s := { s with rcv := { s.rcv with resetting := false } }
    if !readyBit s 4 then s
    else
      let s := dmSettle ((List.range 20).foldl (startStack x) s)
      let wipe (y : Tile) : Tile := if y.regs.state = .off then { tileReset with regs := { tileReset.regs with state := .wiping } } else y
      let s := (List.range nTiles).foldl (startTile x) (mapTiles s wipe)
      let s := { s with slice0 := { sliceReset with ready := true }, slices := [], boot := raiseReady 6 s.boot, esp := { s.esp with hubOk := 0xF } }
      let s := (List.range 4).foldl (fun s d => faultCut 528 d s) (fifoTraining x s)
      realignAll { s with boot := raiseReady 7 s.boot }

/-- DEVICE_READY (R535): bits 3 to 7 all 1, not Retired, not Withdrawn; the partitions are recreated (R405). -/
def deviceReady (s : State) : State :=
  let all : Bool := [3, 4, 5, 6, 7].all (readyBit s)
  if !all || readyBit s 10 || s.boot.life = 4 || s.rcv.withdrawn then s
  else recreate { s with boot := { raiseReady 10 s.boot with readyUs := s.us } }

/-! ### The PCIe link (R539, R554, R560) -/

/-- PCIE_LINK_UP. -/
def linkUp (s : State) : State :=
  if readyBit s 2 && s.pins.perst && s.pins.refclk && !s.pins.taken then updBoot s (raiseReady 9) else s

/-- PCIE_LINK_DOWN. -/
def linkLost (s : State) : State := updBoot s (dropReady 9)

end Sys2Proof.Machine
end

