-- ==== Sys2Proof/Machine/Entries.lean ====
section
/-!
DEFINITION. Values of the dictionary's entries (R50, R164, R165, R177, R192, R239, R304, R335, R361, R395, R435, R460, R483, R502, R518,
R534, R542, R569), their defaults, and what a write may hold.
-/

namespace Sys2Proof.Machine

/-! ### Encodings (R506) -/

/-- Bytes of the binary32 nearest to `n / d`. -/
def f32Of (n : Int) (d : Nat) : List Byte :=
  let x := n.natAbs * 2 ^ 64
  natLe 4 (roundIeee fmtFP32 (sticky (decide (n < 0)) (x / d) (-64) (decide (x % d = 0))))

def textBytes (xs : List Nat) : List Byte := xs.map (BitVec.ofNat 8)

/-- U64 values in a row. -/
def u64s (xs : List Nat) : List Byte := xs.flatMap (natLe 8)

/-! ### Defaults of the stored entries -/

/-- The default of an entry that a write stores. -/
def entryDefault (idx sub : Nat) : List Byte :=
  match idx with
  | 0x1030 => if sub = 2 then natLe 2 28041 else if sub = 3 then zeros 17 else []
  | 0x2010 => if sub = 1 then natLe 2 6000 else if sub = 2 then natLe 1 5 else natLe 2 6600
  | 0x3011 => natLe 2 0xFFFF
  | 0x3012 => zeros 128
  | 0x3040 => natLe 2 0x2010
  | 0x3050 => natLe 2 8
  | 0x3070 => natLe 4 10000
  | 0x3080 => natLe 1 0xFF
  | 0x3081 => natLe 2 50
  | 0x4060 => natLe 2 64
  | 0x6020 => if sub = 1 then zeros 4 else if sub = 2 then zeros 2 else if sub = 3 then natLe 1 0xFF else List.replicate 1024 0xFF
  | 0x6021 => natLe 2 0xFFFF
  | 0x6051 => natLe 2 30641
  | 0x6052 => zeros 17
  | 0x7110 => zeros 132
  | 0x7150 => natLe 2 16
  | 0x8010 => zeros 16
  | 0x8040 => zeros 16
  | 0x9010 => natLe 4 20000
  | 0x9011 => natLe 4 1000
  | 0x9020 => natLe 1 3
  | 0x9030 => if sub = 1 then natLe 1 3 else natLe 4 3600
  | 0x9040 => natLe 1 0x0C
  | _ => ((entryRow idx sub).map (fun r => zeros (typeBytes r.ty))).getD []

/-- The stored value of an entry, or its default. -/
def storedVal (s : State) (idx sub : Nat) : List Byte := (dictVal s idx sub).getD (entryDefault idx sub)

/-! ### Values -/

/-- The slot that runs. -/
def runningSlot (s : State) : Option Bool := s.boot.running.bind id

def valueDevice (s : State) (idx sub : Nat) : List Byte :=
  match idx, sub with
  | 0x1001, 1 => textBytes [0x44, 0x72, 0x61, 0x76, 0x68, 0x65, 0x6C]
  | 0x1001, 2 => textBytes [0x4E, 0x59, 0x4D, 0x2D, 0x43, 0x51, 0x34, 0x2D, 0x4C]
  | 0x1001, 3 => Config.serial.take 16
  | 0x1001, 4 => natLe 4 (Config.fused 0)
  | 0x1001, 5 => natLe 2 (Config.fused 1)
  | 0x1002, 1 =>
    match runningSlot s with
    | some b => (Config.imageName (slotOf s.boot b)).take 32
    | none => textBytes [0x52, 0x4F, 0x4D, 0x2D, 0x4C, 0x4F, 0x41, 0x44, 0x45, 0x52]
  | 0x1002, 2 => natLe 4 (((runningSlot s).map (fun b => Config.imageVersion (slotOf s.boot b))).getD (Config.fused 4))
  | 0x1003, n => macOf (n - 1)
  | 0x1010, _ => natLe 4 s.boot.ready.toNat
  | 0x1020, _ => natLe 1 s.boot.life
  | 0x1022, _ => natLe 4 s.boot.lifeResult
  | 0x1031, _ => natLe 8 (standbyTime s)
  | 0xA020, _ => natLe 4 s.boot.fwResult
  | 0xF010, 1 => natLe 4 (Config.fused 2)
  | 0xF010, _ => natLe 1 (bnat s.pins.vendorTap)
  | _, _ => storedVal s idx sub

/-- Hottest sensor of 0x2050, in m°C. -/
def hotOf (s : State) (sub : Nat) : Int :=
  if sub ≤ 5 then fmGet 0 s.gov.sensors (sub - 1)
  else (List.range 32).foldl (fun m c => max m (fmGet 0 s.gov.sensors (8 + c))) (fmGet 0 s.gov.sensors 8)

def valuePower (s : State) (idx sub : Nat) : List Byte :=
  let g := s.gov
  match idx, sub with
  | 0x2011, 1 => f32Of g.measIn 1000
  | 0x2011, 2 => f32Of g.lastEst 1000
  | 0x2011, _ => f32Of g.avg 1
  | 0x2012, k => f32Of (fmGet 0 g.measStk (k - 1) : Nat) 1000
  | 0x2013, _ => (List.range 21).flatMap (fun d => f32Of (gainOf g d) 65536)
  | 0x2014, 1 => natLe 8 g.stretches
  | 0x2014, 2 => natLe 8 g.fastEvents
  | 0x2014, _ => natLe 8 g.overruns
  | 0x2021, _ => natLe 1 s.point
  | 0x2030, k => natLe 2 (pointMhz (k - 1)) ++ (List.range 6).flatMap (fun i => natLe 2 (Config.fused (100 + 8 * (k - 1) + i))) ++ zeros 2
  | 0x2050, k => f32Of (hotOf s k) 1000
  | 0x2060, k => u64s ((List.range 19).map (fun i => fmGet 0 (partAt s (k - 1)).energy i / 1000))
  | 0x2061, _ => natLe 8 (g.devAccount / 1000)
  | 0x2062, k =>
    let x := partAt s (k - 1)
    if partExists s (k - 1) then f32Of x.rho 65536 ++ natLe 8 (ofSigned 64 x.balanceAt) else zeros 12
  | 0x2070, 1 => f32Of g.coolIn 1000
  | 0x2070, 2 => f32Of g.coolOut 1000
  | 0x2070, 3 => f32Of g.mainMv 1000
  | 0x2070, 4 => f32Of g.stbyMv 1000
  | 0x2070, 5 => natLe 8 g.inletSecs
  | 0x2070, _ => natLe 8 s.pins.refLosses
  | _, _ => storedVal s idx sub

/-- Entry 0x3100 (R164, R165): the record of the last kill since the last launch; without one every field is at its reset value. -/
def faultEntry (l : FaultLog) : List Byte := faultBytes (if l.cause = 0 then faultLogReset else l)

def valueParts (s : State) (r idx sub : Nat) : List Byte :=
  let p := sub - 1
  let x := partAt s p
  match idx with
  | 0x3001 => natLe 4 s.ctl.cmdResult
  | 0x3002 => natLe 1 x.state
  | 0x3051 => (fmGet [] s.sliceLists p).map (BitVec.ofNat 8)
  | 0x3100 => faultEntry x.faults
  | 0x3090 => u64s ((List.range 18).map (fun i => fmGet 0 x.account i) ++ (List.range 5).map (fun i => fmGet 0 x.counts (i + 1)))
  | 0x3095 =>
    match fmGet none (clientAt s r).selSession p with
    | some i => if inSpan s p i then sessRecord (sessAt s i) else []
    | none => []
  | _ => storedVal s idx sub

/-- Status of a NAND channel (0x5011): failed, degraded by a lost die, or as it trained. -/
def channelStatus (s : State) (c : Nat) : Nat :=
  let v := fmGet 0 s.seed.channels c
  if v = 0 && s.seed.deadDies.any (fun d => d / 8 = c) then 1 else v

/-- The header page of a crash slot, empty where its checks fail. -/
def crashHeader (s : State) (k : Nat) : List Byte :=
  let h := memRead s.seed.mem (k * 2 ^ 28) 16384
  if leAt h 0 4 = 1 && leAt h 260 4 = crc32c (h.take 260) then h else []

def valueMemory (s : State) (r idx sub : Nat) : List Byte :=
  let k := stackAt s (sub - 1)
  let seedUp := readyBit s 1
  match idx, sub with
  | 0x4010, _ => natLe 1 k.reason
  | 0x4011, _ => natLe 1 (bnat (fmGet false s.dm.failed (sub - 1)))
  | 0x4020, _ => natLe 8 k.ce
  | 0x4021, _ => natLe 8 k.ue
  | 0x4030, _ => f32Of (k.temp : Nat) 1
  | 0x4040, _ => k.record
  | 0x4050, _ => natLe 8 (if readyBit s 5 then dmCapacity s else 0)
  | 0x5010, _ => natLe 1 s.seed.status
  | 0x5011, _ => natLe 1 (if seedUp then channelStatus s (sub - 1) else 0)
  | 0x5012, 1 => natLe 8 105553116266496
  | 0x5012, 2 => natLe 8 (if seedUp then allocated s.seed * 2 ^ 30 else 0)
  | 0x5012, _ => natLe 8 (if seedUp then headroom s.seed else 0)
  | 0x5013, _ => natLe 2 (if seedUp then endurance s.seed else 10000)
  | 0x5014, 1 => natLe 8 s.seed.written
  | 0x5014, _ => natLe 8 s.seed.programmed
  | 0x5015, n => natLe 8 (fmGet 0 s.seed.counts n)
  | 0x5016, _ => if seedUp then s.seed.lastPoison else []
  | 0x5020, _ => natLe 4 s.seed.result
  | 0x5021, 1 => natLe 2 (clientAt s r).selExtent
  | 0x5021, _ =>
    let n := (clientAt s r).selExtent
    let own : Bool := roleOf s r ≠ 1 || (extentAt s n).any (fun e => e.owner = r - 2)
    if seedUp && own then extentRecord s n else []
  | 0x5051, n => if seedUp then crashHeader s (n - 1) else []
  | _, _ => storedVal s idx sub

def valueCoppice (s : State) (idx sub : Nat) : List Byte :=
  let x := portNo s (sub - 1)
  match idx, sub with
  | 0x6011, _ => natLe 1 s.gt.profile
  | 0x6012, _ => natLe 1 x.role
  | 0x6013, _ => natLe 1 x.state
  | 0x6020, 5 => natLe 8 s.gt.offset
  | 0x6030, _ => natLe 1 x.fMin
  | 0x6031, _ => natLe 4 (ofSigned 32 x.skew)
  | 0x6032, _ => natLe 4 (ofSigned 32 s.gt.lag)
  | 0x6040, _ => u64s ((List.range 8).map (fmGet 0 x.counts))
  | 0x6041, _ => u64s ((List.range 8).map (fmGet 0 x.discards))
  | _, _ => storedVal s idx sub

def valueGraft (s : State) (idx sub : Nat) : List Byte :=
  let l := sub - 1
  let up := readyBit s 4
  match idx, sub with
  | 0x7011, _ => natLe 1 (if up then fmGet 0 s.graft.profile l else 0)
  | 0x7020, _ => if up then fmGet [] s.graft.caps sub else []
  | 0x7120, 5 => natLe 4 s.esp.fifoChanged
  | 0x7120, _ => if readyBit s 7 then (fmGet [] s.esp.fifo l).flatMap (fifoRecord s.point) else []
  | 0x7130, _ => (List.range (crossings l)).map (fun i => BitVec.ofNat 8 (if up then seamClass s (l, i) else 0))
  | 0x7140, _ => if up then linkRecords s l else []
  | 0x7141, _ => natLe 4 (if up then linkCounts s l else 0)
  | 0x7142, _ => testRecord s l
  | 0x7143, _ => fieldRecord s l
  | _, _ => storedVal s idx sub

/-- The sums that a read of 0x8050 returns: the completed banks of the partition's tiles that answer, events of other tenants as
0 for the tenant (R496, R502). -/
def sweepValue (tenant : Bool) (s : State) (p : Nat) : List Byte :=
  let ts := (partTiles s p).filter (twigUp s)
  let sum (i : Nat) : Nat := (ts.map (fun t =>
    let d := (tileAt s t).cnt.done
    if tenant then openVal d i else fmGet 0 d.vals i)).sum
  u64s ((List.range 16).map sum) ++ natLe 4 ts.length ++ zeros 4

/-- A fixed counter summed over every tile. -/
def fcSum (s : State) (i : Nat) : Nat := s.tiles.foldl (fun n t => n + fmGet 0 t.2.cnt.fc i) 0

def valueService (s : State) (r idx sub : Nat) : List Byte :=
  let p := sub - 1
  match idx with
  | 0x8020 => u64s ((List.range 16).map (fmGet 0 (fmGet [] s.pcount p)))
  | 0x8030 => u64s [fcSum s 8, fmGet 0 s.devCount 1 + fcSum s 2, fcSum s 0, fmGet 0 s.devCount 3]
  | 0x8041 => u64s [(partAt s p).traceBytes, (partAt s p).traceOff]
  | 0x8050 => sweepValue (roleOf s r = 1) s p
  | 0x9001 => natLe 1 (if s.rcv.withdrawn then 2 else bnat s.rcv.resetting)
  | 0x9021 => natLe 1 (bnat (partAt s p).hold)
  | 0x9031 => natLe 1 (bnat s.rcv.withdrawn)
  | 0x9032 => s.rcv.history.flatten
  | _ => storedVal s idx sub

/-- The value of an entry for requester `r`. -/
def entryValue (s : State) (r idx sub : Nat) : List Byte :=
  match idx / 4096 with
  | 2 => valuePower s idx sub
  | 3 => valueParts s r idx sub
  | 4 => valueMemory s r idx sub
  | 5 => valueMemory s r idx sub
  | 6 => valueCoppice s idx sub
  | 7 => valueGraft s idx sub
  | 8 => valueService s r idx sub
  | 9 => valueService s r idx sub
  | _ => valueDevice s idx sub

/-! ### What a write may hold -/

/-- A source allowlist: entries of 16 bytes of prefix and a length of 0 to 128 (0x6052). -/
def allowlistOk (v : List Byte) : Bool :=
  v.length % 17 = 0 && (chunks 17 (v.length / 17) v).all (fun e => leAt e 16 1 ≤ 128)

/-- Bytes of device memory that an area of a partition may take, and its tiles: the partition's, or those of its stored
definition while it is absent. -/
def areaLimits (s : State) (p : Nat) : Nat × Nat :=
  if partExists s p then ((partAt s p).dmSize, (partTiles s p).length)
  else match partDef s p with
    | some d => (d.dmSize, (defTiles d).length)
    | none => (0, 0)

/-- 0x8010: off, or an area within DM_SIZE. -/
def streamOk (s : State) (p : Nat) (v : List Byte) : Bool :=
  let log2 := leAt v 8 1
  let lim := areaLimits s p
  leAt v 0 8 % 128 = 0 && leAt v 9 7 = 0 &&
  (log2 = 0 || (4 ≤ log2 && log2 ≤ 16 && leAt v 0 8 + lim.2 * 2 ^ log2 * 128 ≤ lim.1))

/-- A value of a fixed-length number in the entry's stated range. -/
def numberOk (s : State) (r idx sub n : Nat) : Bool :=
  match idx with
  | 0x1030 => n ≠ 0
  | 0xA020 => 1 ≤ n && n ≤ 3
  | 0x2010 =>
    if sub = 1 then 1000 ≤ n && n ≤ 6000 && n ≤ leNat (storedVal s 0x2010 3)
    else if sub = 2 then 1 ≤ n && n ≤ 60
    else leNat (storedVal s 0x2010 1) ≤ n && n ≤ 7000
  | 0x2020 => n ≤ 7
  | 0x2040 => n ≤ 1023
  | 0x3011 => extentNameOk s (sub - 1) n
  | 0x3040 => 8 ≤ n / 256 && n / 256 ≤ 64 && 4 ≤ n % 256 && n % 256 ≤ 60 && n % 256 ≤ n / 256
  | 0x3050 => 2 ≤ n && n ≤ 256
  | 0x3070 => 1 ≤ n && n ≤ 10000000
  | 0x3080 => (n ≤ 31 && n + 1 ≠ sub) || n = 0xFF
  | 0x3081 => 1 ≤ n && n ≤ 60000
  | 0x4060 => n ≠ 0
  | 0x5021 => if roleOf s r = 1 then (extentAt s n).any (fun e => e.owner = r - 2) else n ≤ 4095
  | 0x6010 => n ≤ 5
  | 0x6014 => n ≤ 1
  | 0x6020 => if sub = 2 then n ≤ 1023 else if sub = 3 then n ≤ 7 || n = 0xFF else true
  | 0x6021 => n < 8192 || n = 0xFFFF
  | 0x6051 => n ≠ 0
  | 0x6053 => n ≤ 4094
  | 0x6060 => n < 16
  | 0x7010 => n ≤ 2
  | 0x7150 => n ≠ 0
  | 0x9010 => 1000 ≤ n && n ≤ 10000000
  | 0x9011 => 1 ≤ n && n ≤ 600000
  | 0x9021 => n = 0
  | 0x9030 => if sub = 1 then n ≠ 0 else 60 ≤ n && n ≤ 86400
  | 0x9040 => n < 16
  | 0x9050 => n = 1 || n = 2
  | _ => true

/-- A value of an OCTETS entry, of a length that its row admits. -/
def octetsOk (s : State) (idx sub : Nat) (v : List Byte) : Bool :=
  match idx with
  | 0x1030 => sub ≠ 3 || allowlistOk v
  | 0xA020 => leAt v 0 4 % 4 = 0 && leAt v 0 4 + v.length - 4 ≤ 48 * 2 ^ 20
  | 0x3095 => inSpan s (sub - 1) (leNat v)
  | 0x6020 => v.all (fun b => b.toNat ≤ 7 || b = 0xFF)
  | 0x6052 => allowlistOk v
  | 0x7110 => v.all (fun b => (List.range 4).all (fun i => field b.toNat (2 * i + 1) (2 * i) ≠ 3))
  | 0x8010 => streamOk s (sub - 1) v
  | 0x8040 => leAt v 0 8 % 4096 = 0 && leAt v 12 1 ≤ 1 && leAt v 13 3 = 0
  | _ => true

/-- A written value is in the entry's type and range (R506). -/
def valueOk (s : State) (r : Nat) (row : EntryRow) (sub : Nat) (v : List Byte) : Bool :=
  match row.ty with
  | .octets => row.min ≤ v.length && v.length ≤ row.max && octetsOk s row.idx sub v
  | .str => row.min ≤ v.length && v.length ≤ row.max
  | .bool => v.length = 1 && leNat v ≤ 1 && numberOk s r row.idx sub (leNat v)
  | t => v.length = typeBytes t && numberOk s r row.idx sub (leNat v)

end Sys2Proof.Machine
end

