-- ==== Sys2Proof/Machine/Hedgerow.lean ====
section
/-!
DEFINITION. Service of the dictionary: access checks and abort codes (R505–R511, R538, R540), what a write does, frames and their
requesters (R512–R516), mailboxes (R517), MCTP control messages and address assignment.
-/

namespace Sys2Proof.Machine

/-! ### Abort codes (R511) -/

def cNoIndex : Nat := 0x01000001
def cNoSubindex : Nat := 0x01000002
def cNoAccess : Nat := 0x02000001
def cWriteRo : Nat := 0x02000002
def cReadWo : Nat := 0x02000003
def cValueRange : Nat := 0x03000001
def cZeroLength : Nat := 0x03000002
def cBusy : Nat := 0x04000001
def cNotReady : Nat := 0x04000002
def cSequence : Nat := 0x05000001
def cTooLong : Nat := 0x05000002
def cNotAuth : Nat := 0x05000003
def cMalformed : Nat := 0x05000004
def cStoreFailed : Nat := 0x06000001

/-! ### Access (R505, R508) -/

/-- Indices that the loader, or the firmware of a retired module, serves (R533, R540). -/
def servedIdx (s : State) (idx : Nat) : Bool :=
  if (runningSlot s).isNone then [0x1001, 0x1002, 0x1020, 0xA020].contains idx
  else if s.boot.life = 4 then [0x1001, 0x1002, 0x1010, 0x1020, 0x9032].contains idx
  else true

/-- What requester `r` may do at a subindex of a row. -/
def accessAt (s : State) (r : Nat) (row : EntryRow) (sub : Nat) : Access :=
  match roleOf s r with
  | 0 => row.op
  | 1 => if row.own && sub ≠ 0 && sub ≠ r - 1 then .none else row.ten
  | _ => row.ven

/-- The access lets its holder read (R508). -/
def reads (a : Access) : Bool := a = .ro || a = .rw || a = .const

/-- An entry as a requester finds it: its row and access, or an abort code. Subindex 0 of a list is CONST, the row none. -/
def findEntry (s : State) (r idx sub : Nat) : Except Nat (Option EntryRow × Access) :=
  let rows := indexRows idx
  if rows.isEmpty || !servedIdx s idx then .error cNoIndex
  else if sub = 0 && !rows.any (·.lo = 0) then
    if rows.any (fun x => reads (accessAt s r x 0)) then .ok (none, .const) else .error cNoAccess
  else match entryRow idx sub with
    | none => .error cNoSubindex
    | some row => if accessAt s r row sub = .none then .error cNoAccess else .ok (some row, accessAt s r row sub)

/-- Entries whose reads wait for device ready (R538). -/
def readWaits (s : State) (idx : Nat) : Bool := (idx = 0x3095 || idx = 0x8050) && !readyBit s 10

/-- A read: the value, or an abort code. -/
def dictRead (s : State) (r idx sub : Nat) : Except Nat (List Byte) :=
  match findEntry s r idx sub with
  | .error c => .error c
  | .ok (none, _) => .ok (natLe 1 (lastSub idx))
  | .ok (some _, a) =>
    if a = .wo then .error cReadWo
    else if readWaits s idx then .error cNotReady
    else .ok (entryValue s r idx sub)

/-! ### Writes -/

/-- Partition commands (R402). -/
def partCommand (v : List Byte) (s : State) : State :=
  let op := leAt v 0 1
  let p := leAt v 1 1
  if op = 0 || 3 < op || 32 ≤ p || leAt v 2 2 ≠ 0 then partResult 0x01 (p % 32) s
  else if op = 1 then create p s
  else if op = 2 then delete p s
  else reset p s

/-- The module runs a partition command: a reset whose snapshot is under way. -/
def partBusy (s : State) : Bool := s.rcv.after.any (fun x => x.1 = 2)

/-- An entry that the present state makes RO (R177, R239, R435, R540, R569). -/
def stateRo (s : State) (idx sub n : Nat) : Bool :=
  ([0x3010, 0x3040, 0x3050].contains idx && partExists s (sub - 1)) || (idx = 0x3001 && s.boot.life ≠ 2) ||
  (idx = 0xF010 && n = 1 && s.boot.life ≠ 0 && s.boot.life ≠ 3)

/-- A command that waits for its ready bit (R538, R545). -/
def commandWaits (s : State) (idx : Nat) : Bool :=
  (idx = 0x5020 && !readyBit s 1) || ([0x3001, 0x3095, 0x9051].contains idx && !readyBit s 10) || (idx = 0x1021 && !lifeReady s)

/-- What a write that is accepted does: a command, or the entry takes the value. -/
def entryWrite (r : Nat) (row : EntryRow) (sub : Nat) (v : List Byte) (s : State) : State :=
  let n := leNat v
  match row.idx with
  | 0x1021 => transition r v s
  | 0x1031 => { s with ctl := { s.ctl with clock := (n + 2 ^ 64 - s.us % 2 ^ 64) % 2 ^ 64 } }
  | 0xA020 => if sub = 1 then chunk v s else if n = 1 then eraseSlot true s else if n = 2 then checkSlot s else raiseMinimum s
  | 0xF010 => { s with pins := { s.pins with vendorTap := n = 1 } }
  | 0x3001 => partCommand v s
  | 0x3011 => sessionExtent (sub - 1) n s
  | 0x3095 => updClient s r (fun c => { c with selSession := fmSet none c.selSession (sub - 1) (some n) })
  | 0x4011 => { s with dm := { s.dm with failed := fmSet false s.dm.failed (sub - 1) (decide (n = 1)) } }
  | 0x5020 => extentCmd (extOp v) v s
  | 0x5021 => updClient s r (fun c => { c with selExtent := n })
  | 0x7160 =>
    if sub = 1 then dictPut s 0x7160 1 v else if n = 1 then { s with graft := { s.graft with fieldRec := [] } } else s
  | 0x9021 => holdClear (sub - 1) s
  | 0x9031 => if n = 0 then clearWithdrawn s else enterWithdrawn s
  | 0x9050 => if n = 1 then deviceReset 1 s else moduleReset 2 s
  | 0x9051 => if n = 1 then killCommand (sub - 1) s else s
  | idx => dictPut s idx sub v

/-- A write: the state after it, and 0 or an abort code. `stored` is false where NOR fails (R509). -/
def dictWrite (r idx sub : Nat) (v : List Byte) (stored : Bool) (s : State) : State × Nat :=
  match findEntry s r idx sub with
  | .error c => (s, c)
  | .ok (none, _) => (s, cWriteRo)
  | .ok (some row, a) =>
    if a = .ro || a = .const || stateRo s idx sub (leNat v) then (s, cWriteRo)
    else if idx = 0xA010 && 64 ≤ r then (s, cNoAccess)
    else if v.isEmpty then (s, cZeroLength)
    else if commandWaits s idx then (s, cNotReady)
    else if !valueOk s r row sub v then (s, cValueRange)
    else if idx = 0x3001 && partBusy s then (s, cBusy)
    else if row.kept && !stored then (s, cStoreFailed)
    else (entryWrite r row sub v s, 0)

/-- CLEAR (R507). -/
def dictClear (r idx sub : Nat) (stored : Bool) (s : State) : State × Nat :=
  match findEntry s r idx sub with
  | .error c => (s, c)
  | .ok (none, _) => (s, cValueRange)
  | .ok (some row, a) =>
    if !row.empty then (s, cValueRange)
    else if a = .ro || stateRo s idx sub 0 then (s, cWriteRo)
    else if row.kept && !stored then (s, cStoreFailed)
    else (dictPut s idx sub [], 0)

/-! ### Frames (R512–R515) -/

/-- A response frame. -/
def respFrame (f : HFrame) (op off session : Nat) (data : List Byte) : List Byte :=
  natLe 2 0x4E48 ++ natLe 1 1 ++ natLe 1 op ++ natLe 4 session ++ natLe 4 f.seq ++ natLe 2 f.index ++ natLe 1 f.sub ++ zeros 1 ++
  natLe 4 off ++ natLe 2 data.length ++ zeros 2 ++ data

/-- Mailbox of a requester: 0 the PF's, 1 + n that of VF n. -/
def mbxOf (r : Requester) : Option Nat :=
  match r with
  | .pfMailbox => some 0
  | .vfMailbox n => some (1 + n.val)
  | _ => none

def mbxAt (s : State) (m : Nat) : Mbx := fmGet mbxReset s.ctl.mbx m
def updMbx (s : State) (m : Nat) (f : Mbx → Mbx) : State := { s with ctl := { s.ctl with mbx := fmUpd mbxReset s.ctl.mbx m f } }

/-- A response on its way: in the mailbox's buffer with DONE and the mailbox's vector, or out by I3C or UDP. -/
def respond (r : Requester) (frame : List Byte) (s : State) : State :=
  match mbxOf r with
  | some m =>
    raiseMsix m (if m = 0 then 1 else 16) (updMbx s m (fun x => { x with busy := false, done := true, buf := memWrite x.buf 0 frame }))
  | none => emit s (.response (clientNo r) frame)

/-- Data of an abort response. -/
def abortData (c : Nat) : List Byte := natLe 4 c

/-- The frame's fixed fields are as R512 has them for operation `op`. -/
def frameOk (op : Nat) (f : HFrame) : Bool :=
  let none_ : Bool := f.data.isEmpty && f.length = 0
  f.magic.toNat = 0x4E48 && f.version.toNat = 1 && f.op.toNat = op && f.reserved15 = 0 && f.reserved22 = 0 &&
  (if op = 3 then f.data.isEmpty && f.length ≤ 1024
   else f.offset = 0 && f.length = f.data.length && f.length ≤ 1024 &&
     (if op = 0x02 || op = 0x11 then true else if op = 0x10 then f.length = 1 else none_))

/-- The transport of a requester is served (R516, R520, R521, R533, R568). -/
def transportUp (s : State) (r : Requester) : Bool :=
  readyBit s 0 &&
  match r with
  | .i3c => true
  | .udp _ => firmwareRuns s && !s.pins.taken
  | .pfMailbox => firmwareRuns s && readyBit s 9
  | .vfMailbox n => firmwareRuns s && readyBit s 9 && readyBit s 10 && partExists s n.val

/-- A source of the management port that 0x1030:03 admits. -/
def sourceOk (s : State) (src : List Byte) : Bool :=
  let v := storedVal s 0x1030 3
  (chunks 17 (v.length / 17) v).any (fun e =>
    let n := leAt e 16 1
    beAt src 0 16 / 2 ^ (128 - n) = beAt e 0 16 / 2 ^ (128 - n))

def isUdp (r : Requester) : Bool := match r with | .udp _ => true | _ => false

/-- A success (`.ok` data) or an abort as the response's OP and data. -/
def outcomeFrame (op : Nat) (f : HFrame) (off session : Nat) (x : Except Nat (List Byte)) : List Byte :=
  match x with
  | .ok data => respFrame f (op + 0x80) off session data
  | .error c => respFrame f 0xFF off session (abortData c)

/-- A crash slot's bytes, which are read with no snapshot (R514). -/
def crashBytes (s : State) (sub off n : Nat) : List Byte :=
  if (valueMemory s 0 0x5051 sub).isEmpty then [] else memRead s.seed.mem ((sub - 1) * 2 ^ 28 + off) (min n (2 ^ 28 - off))

/-- READ_SEG (R514). -/
def readSegment (r idx sub off n : Nat) (s : State) : State × Except Nat (List Byte) :=
  match dictRead s r idx sub with
  | .error c => (s, .error c)
  | .ok v =>
    let key := 256 * idx + sub
    if idx = 0x5051 && sub ≠ 0 then (s, .ok (crashBytes s sub off n))
    else if n = 0 then (s, .ok [])
    else
      let held : Option (List Byte) :=
        if off = 0 then some v else (clientAt s r).snap.bind (fun x => if x.1 = key then some x.2 else none)
      match held with
      | none => (s, .error cSequence)
      | some bytes =>
        let keep := if bytes.length ≤ off + n then none else some (key, bytes)
        (updClient s r (fun c => { c with snap := keep, snapAt := s.us }), .ok ((bytes.drop off).take n))

/-- READ, WRITE, READ_SEG or CLEAR of an accepted request. -/
def execOp (op : Nat) (r : Nat) (f : HFrame) (stored : Bool) (s : State) : State × Except Nat (List Byte) :=
  let code (x : State × Nat) : State × Except Nat (List Byte) := (x.1, if x.2 = 0 then .ok [] else .error x.2)
  if op = 1 then
    match dictRead s r f.index f.sub with
    | .ok v => (s, if 1024 < v.length then .error cTooLong else .ok v)
    | .error c => (s, .error c)
  else if op = 2 then code (dictWrite r f.index f.sub f.data stored s)
  else if op = 3 then readSegment r f.index f.sub f.offset f.length s
  else code (dictClear r f.index f.sub stored s)

/-! ### Sessions (R513, R516) -/

/-- The lowest UDP session number that is free, of 1 to 8. -/
def freeUdp (s : State) : Option Nat := ((List.range 8).map (· + 1)).find? (fun k => !(clientAt s (64 + k)).open_)

/-- A nonce: 16 free bytes. -/
def nonceAt (free : Nat) : List Byte := (List.range 16).map (fun i => Config.freeByte (free + i))

/-- OPEN over UDP: a session at SEQ 0, whose stored response is the OPEN's. -/
def openFrame (f : HFrame) (src : List Byte) (s : State) : State :=
  let role := leAt f.data 0 1
  let nonce := nonceAt s.fresh
  let refuse (code : Nat) : State := respond (.udp 0) (outcomeFrame 0x10 f 0 0 (.error code)) s
  if role ≠ 0 && role ≠ 2 then refuse cValueRange
  else if f.seq ≠ 0 then refuse cSequence
  else match freeUdp s with
    | none => refuse cBusy
    | some k =>
      let frame := outcomeFrame 0x10 f 0 k (.ok nonce)
      let c : Client := { clientReset with open_ := true, vendor := role = 2, nonce := nonce, src := src, lastUs := s.us,
                                           seq := 0, resp := frame }
      respond (.udp k) frame (updClient { s with fresh := s.fresh + 16 } (64 + k) (fun _ => c))

/-- A session ends: a UDP requester is gone, the PF mailbox is the operator's again. -/
def endSession (r : Requester) (s : State) : State :=
  updClient s (clientNo r) (fun c => if isUdp r then clientReset else { c with nonce := [], vendor := false, authed := false })

/-- The proof of AUTH is right (R516): HMAC-SHA-256 under 0xA010, or the vendor's signature, over the nonce and SESSION. -/
def proofOk (s : State) (c : Client) (session : Nat) (proof : List Byte) : Bool :=
  let m := c.nonce ++ natLe 4 session
  !c.nonce.isEmpty &&
  (if c.vendor then proof.length = 96 && Config.vendorProof m proof
   else match dictVal s 0xA010 0 with
     | some key => proof = hmacSha256 key m
     | none => false)

/-- Session number of a requester's frames. -/
def sessionOf (r : Requester) : Nat := match r with | .udp k => k | _ => 0

/-- An accepted request carried out, its response stored for a repetition and sent; a write that resets the Husk sends none. -/
def serveAccepted (op : Nat) (r : Requester) (f : HFrame) (stored : Bool) (s : State) : State :=
  let n := clientNo r
  let reply (s : State) (x : Except Nat (List Byte)) : State :=
    let frame := outcomeFrame op f f.offset (sessionOf r) x
    if s.boot.running.isNone then s else respond r frame (updClient s n (fun c => { c with seq := f.seq, resp := frame }))
  if op = 0x10 then
    let role := leAt f.data 0 1
    if role ≠ 0 && role ≠ 2 then reply s (.error cValueRange)
    else
      reply (updClient { s with fresh := s.fresh + 16 } n
        (fun c => { c with nonce := nonceAt s.fresh, vendor := role = 2, authed := false })) (.ok (nonceAt s.fresh))
  else if op = 0x11 then
    if proofOk s (clientAt s n) (sessionOf r) f.data then
      reply (updClient s n (fun c => { c with authed := true, nonce := [] })) (.ok [])
    else if isUdp r then respond r (outcomeFrame op f 0 (sessionOf r) (.error cNotAuth)) (endSession r s)
    else reply (endSession r s) (.error cNotAuth)
  else if op = 0x12 then
    if isUdp r then respond r (outcomeFrame op f 0 (sessionOf r) (.ok [])) (endSession r s) else reply (endSession r s) (.ok [])
  else if isUdp r && !(clientAt s n).authed then reply s (.error cNotAuth)
  else
    let (s, x) := execOp op n f stored s
    reply s x

/-- A frame of operation `op` from a requester: its transport, its form, its session, its SEQ (R515), then the operation. The
management port discards silently what does not come from an admitted source (R516). -/
def serveFrame (op : Nat) (r : Requester) (f : HFrame) (src : List Byte) (stored : Bool) (s : State) : State :=
  let n := clientNo r
  let c := clientAt s n
  let from_ := if op = 0x10 then src else c.src
  let refuse (code : Nat) : State := respond r (outcomeFrame op f f.offset (sessionOf r) (.error code)) s
  let sessions : Bool := match r with | .udp _ => true | .pfMailbox => true | _ => false
  if !transportUp s r || (isUdp r && (op = 0x10 || c.open_) && !sourceOk s from_) then s
  else if !frameOk op f || (0x10 ≤ op && !sessions) || (!isUdp r && f.session ≠ 0) then refuse cMalformed
  else if op = 0x10 && isUdp r then openFrame f src s
  else if isUdp r && !c.open_ then refuse cNotAuth
  else
    let s := if isUdp r then updClient s n (fun c => { c with lastUs := s.us }) else s
    if f.seq = c.seq && !c.resp.isEmpty then respond r c.resp s
    else if f.seq ≠ (c.seq + 1) % 2 ^ 32 then refuse cSequence
    else serveAccepted op r f stored s

/-- The operations of R513. -/
def knownOp (op : Nat) : Bool := [1, 2, 3, 4, 0x10, 0x11, 0x12].contains op

/-- SEGMENT_SNAPSHOT_EXPIRY (R514). -/
def segmentExpiry (r : Requester) (s : State) : State :=
  let c := clientAt s (clientNo r)
  if c.snap.isNone then s else updClient (atUs s (c.snapAt + 1000000)) (clientNo r) (fun c => { c with snap := none })

/-- SESSION_IDLE_TIMEOUT (R516). -/
def idleTimeout (k : Nat) (s : State) : State :=
  let c := clientAt s (64 + k)
  if c.open_ then endSession (.udp k) (atUs s (c.lastUs + 60000000)) else s

/-! ### Mailboxes (R517) -/

/-- The frame in a mailbox's buffer. -/
def mbxFrame (x : Mbx) : HFrame :=
  let h := memRead x.buf 0 24
  let n := leAt h 20 2
  { magic := BitVec.ofNat 16 (leAt h 0 2), version := BitVec.ofNat 8 (leAt h 2 1), op := BitVec.ofNat 8 (leAt h 3 1),
    session := leAt h 4 4, seq := leAt h 8 4, index := leAt h 12 2, sub := leAt h 14 1, reserved15 := BitVec.ofNat 8 (leAt h 15 1),
    offset := leAt h 16 4, length := n, reserved22 := BitVec.ofNat 16 (leAt h 22 2),
    data := if leAt h 3 1 = 3 then [] else memRead x.buf 24 (min n 1024) }

/-- A write of GO (R517): ignored while BUSY, with OVERRUN; else BUSY until the response is in the buffer. -/
def mbxGo (m : Nat) (s : State) : State :=
  updMbx s m (fun x => if x.busy then { x with overrun := true } else { x with busy := true, done := false })

/-- The frame of a busy mailbox is served; a mailbox whose transport is gone is idle again. -/
def serveMailbox (m : Nat) (s : State) : State :=
  let r : Requester := if m = 0 then .pfMailbox else .vfMailbox (Fin.ofNat 32 (m - 1))
  if !(mbxAt s m).busy then s
  else if !transportUp s r then updMbx s m (fun x => { x with busy := false })
  else
    let f := mbxFrame (mbxAt s m)
    let op := f.op.toNat
    serveFrame (if knownOp op then op else 256) r f [] true s

/-- Busy mailboxes served in the order of R515. -/
def serveMailboxes (s : State) : State := (List.range 33).foldl (fun s m => serveMailbox m s) s

/-! ### I3C (R516) -/

/-- The answer to an MCTP control message, completion code first. -/
def mctpAnswer (cmd : McmpCmd) (s : State) : State :=
  match cmd with
  | .setEndpointId e =>
    if e = 0 || e = 0xFF then emit s (.mctp [2])
    else emit { s with ctl := { s.ctl with eid := e } } (.mctp [0, 0, e, 0])
  | .getEndpointId => emit s (.mctp [0, s.ctl.eid, 0, 0])
  | .getVersionSupport t =>
    if t = 0xFF || t = 0x00 || t = 0x7E then emit s (.mctp ([0, 1] ++ natLe 4 (Config.fused 5))) else emit s (.mctp [0x80])
  | .getMessageTypeSupport => emit s (.mctp [0, 1, 0x7E])

/-- MCTP_CONTROL_MESSAGE. -/
def mctpControl (cmd : McmpCmd) (s : State) : State := if transportUp s .i3c then mctpAnswer cmd s else s

/-- ENTDAA: the module's dynamic address. -/
def entdaa (a : BitVec 7) (s : State) : State :=
  if transportUp s .i3c then { s with ctl := { s.ctl with i3cAddr := a } } else s

end Sys2Proof.Machine
end

