-- ==== Sys2Proof/Machine/Registers.lean ====
section
/-!
DEFINITION. The registers a host reaches (R52, R201, R267, R280, R287, R305, R396, R410, R461, R492, R517, R520–R524, R527): where an
address leads, what a read returns and latches, what a write does, the bit aliases (R528); the seal (R525, R526).
-/

namespace Sys2Proof.Machine

/-! ### Where an address leads (R520, R521) -/

/-- A register block with an offset in it: MSI-X table and pending-bit array of a function, tile, Espalier, home slice, translation block, stack,
Coppice port, governor, device, mailbox, counter block, queue pair. -/
inductive RegLoc where
  | msix (fn off : Nat)
  | pba (fn off : Nat)
  | tile (t off : Nat)
  | esp (off : Nat)
  | slice (h off : Nat)
  | xl (p off : Nat)
  | stack (k off : Nat)
  | port (n off : Nat)
  | gov (off : Nat)
  | dev (off : Nat)
  | mbx (m off : Nat)
  | cnt (t off : Nat)
  | qp (p q off : Nat)
  deriving DecidableEq, Repr

/-- The block of an address in the physical function's BAR0. -/
def pfLoc (a : Nat) : Option RegLoc :=
  if a < 0x20 then some (.msix 0 a)
  else if a = 0x8000 then some (.pba 0 0)
  else if 0x100000 ≤ a && a < 0x184000 then some (.tile ((a - 0x100000) / 0x100) (a % 0x100))
  else if 0x184000 ≤ a && a < 0x184100 then some (.esp (a - 0x184000))
  else if 0x188000 ≤ a && a < 0x18A000 then some (.slice ((a - 0x188000) / 0x20) (a % 0x20))
  else if 0x18A000 ≤ a && a < 0x18B000 then some (.xl ((a - 0x18A000) / 0x80) (a % 0x80))
  else if 0x18B000 ≤ a && a < 0x18B500 then some (.stack ((a - 0x18B000) / 0x40) (a % 0x40))
  else if 0x18C000 ≤ a && a < 0x18C100 then some (.port ((a - 0x18C000) / 0x20) (a % 0x20))
  else if 0x18D000 ≤ a && a < 0x18D100 then some (.gov (a - 0x18D000))
  else if 0x18E000 ≤ a && a < 0x18E100 then some (.dev (a - 0x18E000))
  else if 0x18F000 ≤ a && a < 0x190000 then some (.mbx 0 (a - 0x18F000))
  else if 0x190000 ≤ a && a < 0x1B1000 then some (.cnt ((a - 0x190000) / 0x40) (a % 0x40))
  else none

/-- The block of an address in the BAR0 of virtual function `n`; tiles of other partitions are none. -/
def vfLoc (s : State) (n a : Nat) : Option RegLoc :=
  if a < 0x110 then some (.msix (1 + n) a)
  else if a = 0x800 then some (.pba (1 + n) 0)
  else if 0x10000 ≤ a && a < 0x10400 then some (.qp n ((a - 0x10000) / 0x40) (a % 0x40))
  else if 0x20000 ≤ a && a < 0x21000 then some (.mbx (1 + n) (a - 0x20000))
  else if 0x30000 ≤ a && a < 0x30030 then some (.xl n (a - 0x30000))
  else match pfLoc a with
    | some (.tile t off) => if inPart s n t then some (.tile t off) else none
    | some (.cnt t off) => if inPart s n t then some (.cnt t off) else none
    | _ => none

/-- Blocks that answer before device ready: the MSI-X range, the device block, the mailbox. -/
def earlyLoc (l : RegLoc) : Bool :=
  match l with
  | .msix _ _ | .pba _ _ | .dev _ | .mbx _ _ => true
  | _ => false

/-- The physical function's role is the operator's, a virtual function's the tenant's. -/
def isOperator (f : Fn) : Bool := match f with | .pf => true | .vf _ => false

/-- The register that an access reaches: over the PCIe link, in a listed block, and but for the early ones once the device is
ready and not in reset; a virtual function while its partition exists. -/
def locate (s : State) (f : Fn) (a : Nat) : Option RegLoc :=
  let l := match f with
    | .pf => pfLoc a
    | .vf n => if partExists s n.val then vfLoc s n.val a else none
  let up : Bool := readyBit s 10 && !s.rcv.resetting
  l.bind (fun l => if pcieUp s && a % 4 = 0 && (earlyLoc l || up) then some l else none)

/-! ### Values (the words as a read returns them) -/

def espWord (s : State) (off : Nat) : Nat :=
  if off = 0x00 then seamDegraded s * 2 ^ 8 + s.esp.hubOk.toNat * 2 ^ 4 + bnat s.esp.trained
  else if off = 0x04 then s.cycle % 2 ^ 32
  else if off = 0x08 then s.esp.cycleHi.toNat
  else if off = 0x0C then s.esp.misroute
  else 0

def sliceWord (x : Slice) (off : Nat) : Nat :=
  if off = 0x00 then bnat x.valid * 2 ^ 7 + x.part.toNat
  else if off = 0x04 then x.txns.length * 2 ^ 8 + bnat x.ready
  else if off = 0x08 then bnat x.timeout * 4 + bnat x.poisonFill * 2 + bnat x.late
  else if off = 0x0C then x.poisonLine % 2 ^ 32 / 128 * 128
  else if off = 0x10 then x.poisonHi
  else 0

/-- XL_DRAIN.TILES: tiles that have not reported; a window's withdrawal asks no tile. -/
def drainTiles (x : Xl) : Nat := (x.withdrawal.map (fun w => (w.waiting.filter (· < nTiles)).length)).getD 0

def xlWord (x : Xl) (off : Nat) : Nat :=
  if off < 0x20 then field x.entry (8 * off + 31) (8 * off)
  else if off = 0x24 then x.result * 2 ^ 8 + bnat x.overrun * 4 + bnat x.done * 2 + bnat x.busy
  else if off = 0x28 then drainTiles x
  else if off = 0x2C then x.refused
  else if off = 0x40 then bnat x.dlogEnable * 2 ^ 31 + bnat x.dlogOverflow * 2 ^ 30 + x.dlogRing2
  else if off = 0x44 then x.dlogBitmap % 2 ^ 32
  else if off = 0x48 then x.dlogBitmap / 2 ^ 32
  else if off = 0x4C then x.dlogRing % 2 ^ 32
  else if off = 0x50 then x.dlogRing / 2 ^ 32
  else if off = 0x54 then x.dlogProd
  else if off = 0x58 then x.dlogCons
  else 0

/-- Code of STK_STATUS.STATE. -/
def stackCode (x : StackState) : Nat :=
  match x with
  | .off => 0
  | .training => 1
  | .wiping => 2
  | .active => 3
  | .selfRefresh => 4
  | .excluded => 5
  | .shutDown => 6

def stackWord (x : Stack) (off : Nat) : Nat :=
  if off = 0x00 then x.temp % 256 * 2 ^ 16 + x.ref.toNat * 2 ^ 8 + stackCode x.state
  else if off = 0x04 then capAt (2 ^ 32 - 1) x.ce
  else if off = 0x08 then capAt (2 ^ 32 - 1) x.ue
  else if off = 0x0C then x.last % 2 ^ 32 / 64 * 64
  else if off = 0x10 then x.lastHi
  else 0

def portWord (x : Port) (off : Nat) : Nat :=
  if off = 0x00 then x.fMin * 2 ^ 16 + x.lanes.toNat * 2 ^ 8 + x.state * 2 ^ 4 + x.role
  else if off = 0x04 then bnat x.skewValid * 2 ^ 31 + ofSigned 12 (clampInt (-2048) 2047 x.skew)
  else if off = 0x08 then x.event.toNat
  else 0

def govWord (s : State) (off : Nat) : Nat :=
  let g := s.gov
  if off = 0x00 then
    g.hottest % 256 * 2 ^ 16 + bnat (g.stretchLeft ≠ 0) * 2 ^ 11 + bnat g.group * 2 ^ 10 + bnat g.thermal * 2 ^ 9 +
    bnat g.overrunLast * 2 ^ 8 + s.point % 8
  else if off = 0x04 then capAt 65535 g.est
  else if off = 0x08 then capAt 65535 g.avg
  else if off = 0x0C then g.event.toNat
  else 0

def devWord (s : State) (off : Nat) : Nat :=
  let d := s.dev
  if off = 0x00 then s.boot.ready.toNat
  else if off = 0x04 then d.event.toNat
  else if off = 0x08 then bnat d.enable * 2 ^ 31
  else if off = 0x0C then bnat d.mismatch * 4 + bnat d.stale * 2 + bnat d.armed
  else if off = 0x10 then d.ref.toNat
  else if off = 0x14 then d.last.toNat
  else if off = 0x18 then d.sweeps
  else 0

def mbxWord (x : Mbx) (off : Nat) : Nat :=
  if off = 0x04 then bnat x.overrun * 4 + bnat x.done * 2 + bnat x.busy
  else if 0x800 ≤ off then leNat (memRead x.buf (off - 0x800) 4)
  else 0

def qpWord (x : Qp) (off : Nat) : Nat :=
  if off = 0x00 then x.ctrl.toNat
  else if off = 0x04 then x.sqLo.toNat
  else if off = 0x08 then x.sqHi.toNat
  else if off = 0x0C then x.rqLo.toNat
  else if off = 0x10 then x.rqHi.toNat
  else if off = 0x14 then x.tail
  else if off = 0x18 then x.head
  else if off = 0x1C then x.rqTail
  else if off = 0x20 then x.rqHead
  else if off = 0x24 then bnat (!x.held.isEmpty) * 4 + bnat x.badEntry * 2 + bnat x.dmaErr
  else 0

/-- A word as a read returns it; vector control of an MSI-X entry reads masked until it is written. -/
def regWord (operator : Bool) (s : State) (l : RegLoc) : Nat :=
  match l with
  | .msix fn off => fmGet (if off % 16 = 12 then 1 else 0) s.ctl.msix (4096 * fn + off)
  | .pba fn _ => (List.range 32).foldl (fun m v => m + bnat (fmGet false s.ctl.pend (32 * fn + v)) * 2 ^ v) 0
  | .tile t off => if twigUp s t then tileWord s.cycle t (tileAt s t) off else 0
  | .esp off => espWord s off
  | .slice h off => sliceWord (sliceAt s h) off
  | .xl p off => xlWord (xlAt s p) off
  | .stack k off => stackWord (stackAt s k) off
  | .port n off => portWord (portNo s n) off
  | .gov off => govWord s off
  | .dev off => devWord s off
  | .mbx m off => mbxWord (mbxAt s m) off
  | .cnt t off => if twigUp s t then cntWord operator (tileAt s t) off else 0
  | .qp p q off => qpWord (qpAt s p q) off

/-! ### Masks of the RW, W1C and WO bits of a word -/

def xlMasks (off : Nat) : Nat × Nat × Nat :=
  if off < 0x20 then (0xFFFFFFFF, 0, 0)
  else if off = 0x20 then (0, 0, 0xFFFFFFFF)
  else if off = 0x24 then (0, 4, 0)
  else if off = 0x40 then (0x8000001F, 0x40000000, 0)
  else if off = 0x44 || off = 0x4C then (0xFFFFF000, 0, 0)
  else if off = 0x48 || off = 0x50 then (0x1FF, 0, 0)
  else if off = 0x58 then (0xFFFFFFFF, 0, 0)
  else if off = 0x5C then (0, 0, 0xFFFFFFFF)
  else (0, 0, 0)

def devMasks (off : Nat) : Nat × Nat × Nat :=
  if off = 0x04 then (0, 0x1F, 0)
  else if off = 0x08 then (0x80000000, 0, 1)
  else if off = 0x0C then (0, 4, 0)
  else if off = 0x10 then (0xFFFFFFFF, 0, 0)
  else (0, 0, 0)

def regMasks (l : RegLoc) : Nat × Nat × Nat :=
  match l with
  | .tile _ off => tileMasks off
  | .slice _ off => if off = 0x08 then (0, 7, 0) else (0, 0, 0)
  | .xl _ off => xlMasks off
  | .port _ off => if off = 0x08 then (0, 0x3F, 0) else (0, 0, 0)
  | .gov off => if off = 0x0C then (0, 0x1F, 0) else (0, 0, 0)
  | .dev off => devMasks off
  | .mbx _ off => if off = 0 then (0, 0, 1) else if off = 4 then (0, 4, 0) else if 0x800 ≤ off then (0xFFFFFFFF, 0, 0) else (0, 0, 0)
  | .cnt _ off => cntMasks off
  | .qp _ _ off => if off = 0x24 then (0, 3, 0) else (0, 0, 0)
  | _ => (0, 0, 0)

/-! ### Dirty log (R287) -/

/-- An area of the dirty log: below the firmware's reserve, outside every partition's range. -/
def dlogAreaOk (s : State) (base size : Nat) : Bool :=
  base + size ≤ dmCapacity s - 2 ^ 30 &&
  !(s.parts.any (fun x => partExists s x.1 && spansMeet base size x.2.dmBase x.2.dmSize))

/-- Granules of a partition's range. -/
def granules (s : State) (p : Nat) : Nat := ceilDiv (partAt s p).dmSize 65536

def bitmapOk (s : State) (p : Nat) : Bool := dlogAreaOk s (xlAt s p).dlogBitmap (ceilDiv (granules s p) 32768 * 4096)

/-- OVERFLOW cleared by a write of DLOG_CTRL. -/
def dlogW1c (p v : Nat) (s : State) : State :=
  updXl s p (fun x => { x with dlogOverflow := x.dlogOverflow && !v.testBit 30 })

/-- DLOG_CTRL: ENABLE stays 0 where an area or RING_LOG2 does not fit. -/
def dlogCtrl (p v : Nat) (s : State) : State :=
  let x := xlAt s p
  let ring := v % 32
  let ringOk : Bool := ring = 0 || (10 ≤ ring && ring ≤ 24 && dlogAreaOk s x.dlogRing (8 * 2 ^ ring))
  let on : Bool := v.testBit 31 && ringOk && bitmapOk s p
  let s' := updXl s p (fun x => { x with dlogEnable := on, dlogRing2 := ring })
  if on = x.dlogEnable && ring = x.dlogRing2 then s' else sealChanged s'

/-- DLOG_CLEAR: a page of the bitmap to zero, within the partition's range. -/
def dlogClear (p v : Nat) (s : State) : State :=
  let n := v % 1024
  if granules s p ≤ 32768 * n || !bitmapOk s p then s
  else
    let lo := (xlAt s p).dlogBitmap + 4096 * n
    let out (a : Nat) : Bool := a < lo || lo + 4096 ≤ a
    { s with dm := { s.dm with
      mem := s.dm.mem.filter (fun c => out c.1), poison := s.dm.poison.filter (fun w => out (64 * w)),
      errs := s.dm.errs.filter (fun w => out (64 * w.1)) } }

/-- A dirty-log base; ignored while ENABLE is 1. -/
def dlogBase (p off v : Nat) (s : State) : State :=
  let x := xlAt s p
  let put (old : Nat) : Nat := if off = 0x44 || off = 0x4C then old / 2 ^ 32 * 2 ^ 32 + v / 4096 * 4096 else v % 512 * 2 ^ 32 + old % 2 ^ 32
  if x.dlogEnable then s
  else
    let y := if off ≤ 0x48 then { x with dlogBitmap := put x.dlogBitmap } else { x with dlogRing := put x.dlogRing }
    let s' := updXl s p (fun _ => y)
    if x = y then s' else sealChanged s'

/-! ### Writes -/

/-- A write to a translation block; the dirty log is the operator's (R280). -/
def xlRegWrite (operator : Bool) (p off v : Nat) (s : State) : State :=
  if off < 0x20 then updXl s p (fun x => { x with entry := putField x.entry (8 * off + 31) (8 * off) v })
  else if off = 0x20 then xlWrite p v s
  else if off = 0x24 then if v.testBit 2 then updXl s p (fun x => { x with overrun := false }) else s
  else if !operator then s
  else if off = 0x40 then dlogCtrl p v s
  else if 0x44 ≤ off && off ≤ 0x50 then dlogBase p off v s
  else if off = 0x58 then updXl s p (fun x => { x with dlogCons := v })
  else if off = 0x5C then dlogClear p v s
  else s

/-- COMMIT (R526): the first sweep that begins after it becomes the reference. -/
def sealCommit (s : State) : State := { s with dev := { s.dev with commit := true } }

/-- A write of SEAL_REF (R526): in force from the start of the next sweep. -/
def sealWrite (v : Nat) (s : State) : State := { s with dev := { s.dev with ref := BitVec.ofNat 32 v, refWait := true } }

/-- A write to the device block (R527). -/
def devRegWrite (off v : Nat) (s : State) : State :=
  if off = 0x04 then { s with dev := { s.dev with event := w1c s.dev.event (BitVec.ofNat 5 v) } }
  else if off = 0x08 then
    let s := { s with dev := { s.dev with enable := v.testBit 31 } }
    if v.testBit 0 then sealCommit s else s
  else if off = 0x0C then if v.testBit 2 then { s with dev := { s.dev with mismatch := false } } else s
  else if off = 0x10 then sealWrite v s
  else s

/-- A write to a mailbox (R517). -/
def mbxRegWrite (m off v : Nat) (s : State) : State :=
  if off = 0 then if v.testBit 0 then mbxGo m s else s
  else if off = 4 then if v.testBit 2 then updMbx s m (fun x => { x with overrun := false }) else s
  else if 0x800 ≤ off then
    updMbx s m (fun x => if x.busy then x else { x with buf := memWrite x.buf (off - 0x800) (natLe 4 v) })
  else s

/-- A ring base of a queue pair; ignored while the pair is enabled. -/
def qpBase (p q off v : Nat) (s : State) : State :=
  let x := qpAt s p q
  let w := BitVec.ofNat 32 v
  let lo := BitVec.ofNat 32 (v / 4096 * 4096)
  if qpEnable x then s
  else
    let y := if off = 0x04 then { x with sqLo := lo } else if off = 0x08 then { x with sqHi := w }
      else if off = 0x0C then { x with rqLo := lo } else { x with rqHi := w }
    let s' := updQp s p q (fun _ => y)
    if x = y then s' else sealChanged s'

/-- A write to a queue pair (R410). -/
def qpRegWrite (p q off v : Nat) (s : State) : State :=
  if off = 0x00 then qpCtrl p q v s
  else if 0x04 ≤ off && off ≤ 0x10 then qpBase p q off v s
  else if off = 0x14 then qpSqTail p q v s
  else if off = 0x20 then qpRqHead p q v s
  else if off = 0x24 then
    updQp s p q (fun x => { x with badEntry := x.badEntry && !v.testBit 1, dmaErr := x.dmaErr && !v.testBit 0 })
  else s

/-- A word written to its register. -/
def regPut (operator : Bool) (l : RegLoc) (v : Nat) (s : State) : State :=
  match l with
  | .msix fn off =>
    let w := if off % 16 = 0 then v / 4 * 4 else if off % 16 = 12 then v % 2 else v
    let s := { s with ctl := { s.ctl with msix := fmSet (if off % 16 = 12 then 1 else 0) s.ctl.msix (4096 * fn + off) w } }
    if off % 16 = 12 && w = 0 && fmGet false s.ctl.pend (32 * fn + off / 16) then
      raiseMsix fn (off / 16) { s with ctl := { s.ctl with pend := fmSet false s.ctl.pend (32 * fn + off / 16) false } }
    else s
  | .pba _ _ => s
  | .tile t off => if twigUp s t then tileWrite operator t off v s else s
  | .esp _ => s
  | .slice h off =>
    if off = 0x08 then
      updSlice s h (fun x => { x with timeout := x.timeout && !v.testBit 2, poisonFill := x.poisonFill && !v.testBit 1, late := x.late && !v.testBit 0 })
    else s
  | .xl p off => xlRegWrite operator p off v s
  | .stack _ _ => s
  | .port n off => if off = 0x08 then updNo s n (fun x => { x with event := w1c x.event (BitVec.ofNat 6 v) }) else s
  | .gov off => if off = 0x0C then updGov s (fun g => { g with event := w1c g.event (BitVec.ofNat 5 v) }) else s
  | .dev off => devRegWrite off v s
  | .mbx m off => mbxRegWrite m off v s
  | .cnt t off => if twigUp s t then cntWrite operator t off v s else s
  | .qp p q off => qpRegWrite p q off v s

/-- XL_CMD keeps its own time: BUSY from the cycle of arrival (R281). -/
def isXlCmd (l : RegLoc) : Bool := match l with | .xl _ off => off = 0x20 | _ => false

/-- A write that acts before what the hardware does in its cycle: to a word with W1C bits and no other that a write can set, and of DLOG_CLEAR (R288). -/
def actsFirst (l : RegLoc) : Bool :=
  let m := regMasks l
  decide (m.2.1 ≠ 0 ∧ m.1 = 0 ∧ m.2.2 = 0) || (match l with | .xl _ off => off = 0x5C | _ => false)

/-- What a write clears before its cycle in a word that has other bits to set, too (R529). -/
def clearFirst (operator : Bool) (l : RegLoc) (v : Nat) (s : State) : State :=
  match l with
  | .xl p off => if off = 0x40 && operator then dlogW1c p v s else s
  | _ => s

/-- What a write does reaches its register in the cycle after it arrives (R523): a W1C clear before what the hardware does in that cycle, so
that a bit it sets stays set, any other value after it (R77, R524, R529). -/
def writeNext (l : RegLoc) (first put : State → State) (s : State) : State :=
  if isXlCmd l then put s
  else if actsFirst l then nextCycle put s
  else put (nextCycle first s)

def regWriteAt (operator : Bool) (l : RegLoc) (v : Nat) (s : State) : State :=
  writeNext l (clearFirst operator l v) (regPut operator l v) s

/-- A word write by a function to an address of its BAR0. -/
def regWrite (f : Fn) (a v : Nat) (s : State) : State :=
  match locate s f a with
  | some l => regWriteAt (isOperator f) l v s
  | none => s

/-- ALIAS_WRITE (R528): bit `k` of the word takes the value by its access code, in one change of the word. -/
def aliasPut (l : RegLoc) (k : Nat) (b : Bool) (s : State) : State :=
  let (rw, c1, wo) := regMasks l
  let word := regWord true s l
  let keep := word &&& rw
  if rw.testBit k then regPut true l (if b then keep ||| 2 ^ k else keep &&& (2 ^ 32 - 1 - 2 ^ k)) s
  else if c1.testBit k then if b then regPut true l (keep ||| 2 ^ k) s else s
  else if wo.testBit k then regPut true l (keep ||| (if b then 2 ^ k else 0)) s
  else s

/-- A write at an address of the alias range 0x0200_0000 to 0x03FF_FFFF. -/
def aliasWrite (a v : Nat) (s : State) : State :=
  let off := a - 0x2000000
  if a < 0x2000000 || 0x4000000 ≤ a || a % 4 ≠ 0 then s
  else match locate s .pf (0x100000 + off / 128 * 4) with
    | some l =>
      let k := off % 128 / 4
      writeNext l (clearFirst true l (if v.testBit 0 then 2 ^ k else 0)) (aliasPut l k (v.testBit 0)) s
    | none => s

/-- What a read of an alias address returns: its bit, in bit 0, with nothing latched (R528). -/
def aliasWord (a : Nat) (s : State) : Nat :=
  let off := a - 0x2000000
  if a < 0x2000000 || 0x4000000 ≤ a || a % 4 ≠ 0 then 0
  else match locate s .pf (0x100000 + off / 128 * 4) with
    | some l => bnat ((regWord true s l).testBit (off % 128 / 4))
    | none => 0

/-! ### Latching reads (R39, R201, R268, R305, R493) -/

/-- A register read given to its reader. -/
def readOut (operator : Bool) (l : RegLoc) (s : State) : State := emit s (.regValue (BitVec.ofNat 32 (regWord operator s l)))

/-- AC_VALUE_LO. -/
def readAc (f : Fn) (t : Nat) (s : State) : State :=
  match locate s f (0x100000 + 0x100 * t + 0x20) with
  | some l =>
    let s := readOut (isOperator f) l s
    if twigUp s t then updTile s t latchAc else s
  | none => emit s (.regValue 0)

/-- CNT_LO. -/
def readCnt (f : Fn) (t : Nat) (s : State) : State :=
  match locate s f (0x190000 + 0x40 * t + 0x14) with
  | some l =>
    let s := readOut (isOperator f) l s
    if twigUp s t then updTile s t (latchCnt (isOperator f)) else s
  | none => emit s (.regValue 0)

/-- ESP_CYCLE_LO. -/
def readCycle (s : State) : State :=
  match locate s .pf 0x184004 with
  | some l => { readOut true l s with esp := { s.esp with cycleHi := BitVec.ofNat 32 (s.cycle / 2 ^ 32) } }
  | none => emit s (.regValue 0)

/-- HS_POISON_LO. -/
def readPoison (h : Nat) (s : State) : State :=
  match locate s .pf (0x188000 + 0x20 * h + 0x0C) with
  | some l => updSlice (readOut true l s) h (fun x => { x with poisonHi := x.poisonLine / 2 ^ 32 % 512 })
  | none => emit s (.regValue 0)

/-- STK_LAST_LO. -/
def readLast (k : Nat) (s : State) : State :=
  match locate s .pf (0x18B000 + 0x40 * k + 0x0C) with
  | some l => updStack (readOut true l s) k (fun x => { x with lastHi := x.last / 2 ^ 32 % 512 })
  | none => emit s (.regValue 0)

/-! ### The seal (R525, R526) -/

/-- The words that hold sealed fields, every other bit 0: tiles, dirty logs, counter selections, queue pairs. -/
def sealedWords (s : State) : List Nat :=
  let up := readyBit s 3
  let tile (t : Nat) (off mask : Nat) : Nat := if up then tileWord s.cycle t (tileAt s t) off &&& mask else 0
  (List.range nTiles).flatMap (fun t => [tile t 0x04 0x00FF0000, tile t 0x10 0xFF]) ++
  (List.range 32).flatMap (fun p =>
    let x := xlAt s p
    [xlWord x 0x40 &&& 0x8000001F, xlWord x 0x44, xlWord x 0x48, xlWord x 0x4C, xlWord x 0x50]) ++
  (List.range nTiles).flatMap (fun t => (List.range 4).map (fun i => if up then cntWord true (tileAt s t) (4 * i) else 0)) ++
  (List.range 32).flatMap (fun p => (List.range 16).flatMap (fun q =>
    (List.range 5).map (fun i => qpWord (qpAt s p q) (4 * i))))

/-- SWEEP: the sweep under way ends, and the next begins. One in which a sealed field was written has a free result. -/
def sweep (s : State) : State :=
  let d := s.dev
  let crc := if d.touched then Config.freeWord s.fresh else BitVec.ofNat 32 (crc32c ((sealedWords s).flatMap (natLe 4)))
  let bad : Bool := d.enable && d.armed && !d.stale && !d.touched && crc ≠ d.ref && !d.refSweep
  let d := { d with last := crc, sweeps := (d.sweeps + 1) % 2 ^ 32, mismatch := d.mismatch || bad }
  let d := if d.refSweep then { d with ref := crc, stale := false, armed := true } else d
  let d := if d.refWait then { d with stale := false, armed := true } else d
  let s' := { s with fresh := s.fresh + bnat d.touched, dev := { d with refSweep := d.commit, commit := false, refWait := false, touched := false } }
  if bad then devEvent 0 s' else s'

end Sys2Proof.Machine
end

