-- ==== Sys2Proof/Machine/Pins.lean ====
section
/-!
DEFINITION. The module's pins and supplies (R552–R558), the reference clock (R559, R560), the boundary-scan port (R566–R568, R570).
-/

namespace Sys2Proof.Machine

def updPins (s : State) (f : Pins → Pins) : State := { s with pins := f s.pins }

/-- ALERT_N is asserted while any bit of DEV_EVENT is 1 (R552). -/
def alertAsserted (s : State) : Bool := s.dev.event ≠ 0

/-- The boundary cells drive the pins: EXTEST, CLAMP, EXTEST_PULSE and EXTEST_TRAIN (R566). -/
def cellsDrive (i : BitVec 8) : Bool := [3, 4, 6, 7].contains i.toNat

/-- The level of ALERT_N, open drain with the rack's pull-up: low where the module pulls it, by its function or by its cell; HIGHZ lets it go. -/
def alertLevel (s : State) : Bool := if cellsDrive s.pins.tap then s.pins.cells.alert else s.pins.tap = 5 || !alertAsserted s

/-- SDA, where another party drives `v`: an open-drain pin that the module's cell can pull low. -/
def sdaLevel (s : State) (v : Bool) : Bool := v && !(cellsDrive s.pins.tap && !s.pins.cells.sda)

/-- What a transmit pair carries under boundary scan (R566, R567): its function's signal; a level; a pulse or a train of its cell's polarity; nothing. -/
inductive PairDrive where
  | function
  | level (v : Bool)
  | pulse (v : Bool)
  | train (v : Bool)
  | off
  deriving DecidableEq, Repr

/-- Transmit pair `k` as the TAP's instruction leaves it. -/
def pairDrive (s : State) (k : Nat) : PairDrive :=
  let v := s.pins.cells.tx.getLsbD k
  match s.pins.tap.toNat with
  | 3 => .level v
  | 4 => .level v
  | 5 => .off
  | 6 => .pulse v
  | 7 => .train v
  | _ => .function

/-! ### Resets and supplies -/

/-- MOD_RESET_N (R553): at its rising edge, after it was low for `lowNs`; between 2 µs and 10 µs the module takes it or not. -/
def modResetN (lowNs : Nat) (taken : Bool) (s : State) : State :=
  if s.pins.taken || lowNs < 2000 || (lowNs < 10000 && !taken) then s else beginReset 4 2 s

/-- PERST_N (R554). -/
def perstN (level : Bool) (s : State) : State :=
  if s.pins.taken then s
  else
    let s := updPins s (fun x => { x with perst := level })
    if level then s else linkLost s

/-- STANDBY_LOST (R557): as loss of all power. What is in NOR and NAND stays; the standby clock starts anew at power-up. -/
def standbyLost (s : State) : State :=
  let s := huskDown (hazelDown s)
  { s with
    us := 0, fs := 0, stk := [], seed := { s.seed with agedUs := 0 },
    ctl := { s.ctl with clock := 0 },
    gov := { govReset with inletSecs := s.gov.inletSecs },
    rcv := { s.rcv with snap := none, after := none, asked := none, resetting := false, times := [] },
    pins := { pinsReset with standby := false, refLosses := s.pins.refLosses } }

/-! ### Reference clock (R559, R560) -/

/-- The module's compute clock derives from REFCLK: a root, no group, or its own reference after a holdover. -/
def clockFromRef (s : State) : Bool := groupId s = 0 || isRoot s || s.gt.own

/-- REFCLK_LOST (R560 step 1). -/
def refclkLost (s : State) : State :=
  if !s.pins.refclk then s
  else linkLost (updPins s (fun x => { x with refclk := false, refLost := some s.us, refLosses := satAdd (2 ^ 64 - 1) x.refLosses 1 }))

/-- REFCLK_RETURN (step 2). -/
def refclkReturn (s : State) : State :=
  if s.pins.refclk then s else updPins s (fun x => { x with refclk := true, refLost := none })

/-- REFCLK_HOLDOVER_EXPIRY (step 3): every job is killed, a device reset with cause 0x0A, the dies held. No code of R479 names the
kills' cause: it is free. -/
def refclkExpiry (s : State) : State :=
  match s.pins.refLost with
  | none => s
  | some u =>
    let s := updPins (atUs s (u + 1000000)) (fun x => { x with refLost := none })
    if !clockFromRef s then s
    else
      let (s, k) := draw s
      let s := (s.parts.map (·.1)).foldl (fun s p => killNow s p (k % 256) false) s
      deviceReset 0x0A (updPins s (fun x => { x with refHold := true }))

/-- REFCLK_RETURNED_10_MS: the dies may leave reset. -/
def refclkSteady (s : State) : State :=
  if s.pins.refclk && s.pins.refHold then updPins s (fun x => { x with refHold := false }) else s

/-! ### Boundary scan (R566–R568) -/

/-- Instructions that take the connector pins. -/
def pinDriving (i : BitVec 8) : Bool := 3 ≤ i.toNat && i.toNat ≤ 7

/-- An instruction loaded. -/
def loadTap (i : BitVec 8) (s : State) : State := updPins s (fun x => { x with tap := i })

/-- A pin-driving instruction in Update-IR (R568): intake stops, every job ends with no snapshot, the Hazel dies are held, the PCIe
link and every port go down. No code of R479 names the kills' cause: it is free. -/
def takePins (i : BitVec 8) (s : State) : State :=
  let s := loadTap i s
  if s.pins.taken then s
  else
    let (s, k) := draw s
    let s := (s.parts.map (·.1)).foldl (fun s p => killNow s p (k % 256) false) s
    let s := { s with rcv := { s.rcv with snap := none, after := none, asked := none } }
    let down (x : Port) : Port := if x.state = 0 then x else { x with state := 1, lanes := 0 }
    let s := hazelDown s
    let s := coppiceReady { s with coppice := fmMap portUnset down s.coppice }
    updPins (linkLost s) (fun x => { x with taken := true })

/-- TRST_N low (R566): the TAP holds IDCODE. -/
def trstN (s : State) : State := loadTap 1 s

/-- BYPASS, by its code or one that acts as it. -/
def loadBypass (s : State) : State := loadTap 0xFF s

/-- What the outside drives at the pins and shifts in at this scan: the oldest waiting; where none waits, nothing is known of it (free values). -/
def takeScan (s : State) : State × PinLevels × PinCells :=
  match s.pins.scans with
  | y :: rest => (updPins s (fun p => { p with scans := rest }), y)
  | [] =>
    let (s, a) := draw s
    let (s, b) := draw s
    let (s, c) := draw s
    (s, ⟨a.testBit 0, a.testBit 1, a.testBit 2, BitVec.ofNat 48 b⟩, ⟨a.testBit 3, a.testBit 4, BitVec.ofNat 48 c⟩)

/-- The boundary register captures the pins' levels and shifts them out, REFCLK as running or stopped, and the cells take the values shifted in (R567).
SAMPLE/PRELOAD disturbs no pin (R568). -/
def scan (s : State) : State :=
  let (s, x, c) := takeScan s
  let out := Output.captured s.pins.perst x.modReset (alertLevel s) x.scl (sdaLevel s x.sda) s.pins.refclk x.rx
  updPins (emit s out) (fun p => { p with cells := c })

/-- IDCODE: the register that 0xF010:01 shows is shifted out. -/
def idcode (s : State) : State := emit (loadTap 1 s) (.regValue (BitVec.ofNat 32 (Config.fused 2)))

/-- A vendor instruction (R566): enabled by 0xF010:02 in Manufacturing and Recovery; it acts as BYPASS otherwise. -/
def vendorTap (code : BitVec 8) (s : State) : State :=
  let on : Bool := s.pins.vendorTap && (s.boot.life = 0 || s.boot.life = 3) && 0x80 ≤ code.toNat && code.toNat ≤ 0xFE
  loadTap (if on then code else 0xFF) s

/-- BOUNDARY_SCAN_END: the TAP holds an instruction that does not drive the pins; a module reset with cause 0x0E follows. -/
def scanEnd (s : State) : State :=
  if s.pins.taken && !pinDriving s.pins.tap then beginReset 4 0x0E (updPins s (fun x => { x with taken := false })) else s

end Sys2Proof.Machine
end

