-- ==== Sys2Proof/Machine/Tiles.lean ====
section
/-!
DEFINITION. One meaning for each command: the life of a tile: launch, first bundle, prune, bank arbitration.
-/

namespace Sys2Proof.Machine

/-- LAUNCH of an image, which the partition's model table may name (R407, R408). -/
def launchImage (p : Nat) (img : Image) (s : State) : State :=
  let s' := launch p img s
  if (partAt s p).job.isSome || (partAt s' p).job.isNone then s'
  else
    let named := (List.range 8).find? (fun m => (modelEntry s p m).2.1 ≠ 0 && (modelEntry s p m).2.2 = img.modelTag)
    updPart s' p (fun x => { x with model := named })

/-- LAUNCH (R571). -/
def execLaunch (p : PartId) (img : Image) (s : State) : Host.Outcome State Fault Refusal :=
  .next (launchImage p.val img s)

/-- FIRST_BUNDLE (R89). -/
def execFirstBundle (p : PartId) (s : State) : Host.Outcome State Fault Refusal :=
  .next (firstBundle p.val s)

/-- TILE_PRUNE (R53). -/
def execTilePrune (t : TileId) (f : Fn) (v : BitVec 32) (s : State) : Host.Outcome State Fault Refusal :=
  .next (regWrite f (0x100000 + 0x100 * t.val + 0x0C) v.toNat s)

/-- PRUNE (R43). -/
def execPrune (x : TwigMsg) (s : State) : Host.Outcome State Fault Refusal :=
  .next (prune x.die.val x.header s)

/-- PRUNE_FRAME_F (R43). -/
def execPruneFrameF (t : TileId) (s : State) : Host.Outcome State Fault Refusal :=
  .next (pruneFrameF t.val s)

/-- PRUNE_WRITEBACK_DONE (R43). -/
def execPruneWritebackDone (t : TileId) (s : State) : Host.Outcome State Fault Refusal :=
  .next (pruneDone t.val s)

/-- PRUNE_WRITEBACK_TIMEOUT (R44). -/
def execPruneWritebackTimeout (t : TileId) (s : State) : Host.Outcome State Fault Refusal :=
  .next (pruneTimeout t.val s)

/-- BANK_WAIT_LIMIT (R29). -/
def execBankWaitLimit (t : TileId) (bank : Fin 32) (r : BankRequester) (s : State) : Host.Outcome State Fault Refusal :=
  .next (bankWaitLimit t.val bank.val (requesterOrder r) s)

end Sys2Proof.Machine
end

