-- ==== Sys2Proof/Machine/Vectors.lean ====
section
/-!
DEFINITION. One meaning for each command: the vector functions, in the V slot and in GX (R139–R141).
-/

namespace Sys2Proof.Machine

/-- A vector function `n` at its site: a V slot of a bundle, or an instruction of a thread group (format R, or format I with
the code that has bit 7 set). -/
def vecCmd (n : Nat) (site : VecSite) (s : State) : State :=
  match site with
  | .vslot t w e => slotCmd .v (opFits .v n w.toNat) t.val w.toNat e s
  | .gx t g w =>
    gxCmd (gxFits [n, 0x80 + n] w.toNat) t.val g.val w.toNat (gxVec n t.val g.val w.toNat) s

/-- ADD (R140). -/
def execAdd (site : VecSite) (s : State) : Host.Outcome State Fault Refusal :=
  .next (vecCmd 1 site s)

/-- SUB (R140). -/
def execSub (site : VecSite) (s : State) : Host.Outcome State Fault Refusal :=
  .next (vecCmd 2 site s)

/-- MUL (R140). -/
def execMul (site : VecSite) (s : State) : Host.Outcome State Fault Refusal :=
  .next (vecCmd 3 site s)

/-- FMA (R140). -/
def execFma (site : VecSite) (s : State) : Host.Outcome State Fault Refusal :=
  .next (vecCmd 4 site s)

/-- MIN (R140). -/
def execMin (site : VecSite) (s : State) : Host.Outcome State Fault Refusal :=
  .next (vecCmd 5 site s)

/-- MAX (R140). -/
def execMax (site : VecSite) (s : State) : Host.Outcome State Fault Refusal :=
  .next (vecCmd 6 site s)

/-- ABS (R140). -/
def execAbs (site : VecSite) (s : State) : Host.Outcome State Fault Refusal :=
  .next (vecCmd 7 site s)

/-- NEG (R140). -/
def execNeg (site : VecSite) (s : State) : Host.Outcome State Fault Refusal :=
  .next (vecCmd 8 site s)

/-- CVT (R80). -/
def execCvt (site : VecSite) (s : State) : Host.Outcome State Fault Refusal :=
  .next (vecCmd 9 site s)

/-- CMPEQ (R141). -/
def execCmpeq (site : VecSite) (s : State) : Host.Outcome State Fault Refusal :=
  .next (vecCmd 10 site s)

/-- CMPLT (R141). -/
def execCmplt (site : VecSite) (s : State) : Host.Outcome State Fault Refusal :=
  .next (vecCmd 11 site s)

/-- CMPLE (R141). -/
def execCmple (site : VecSite) (s : State) : Host.Outcome State Fault Refusal :=
  .next (vecCmd 12 site s)

/-- SEL (R141). -/
def execSel (site : VecSite) (s : State) : Host.Outcome State Fault Refusal :=
  .next (vecCmd 13 site s)

/-- RCP (R141). -/
def execRcp (site : VecSite) (s : State) : Host.Outcome State Fault Refusal :=
  .next (vecCmd 14 site s)

/-- RSQRT (R141). -/
def execRsqrt (site : VecSite) (s : State) : Host.Outcome State Fault Refusal :=
  .next (vecCmd 15 site s)

/-- EXP2 (R141). -/
def execExp2 (site : VecSite) (s : State) : Host.Outcome State Fault Refusal :=
  .next (vecCmd 16 site s)

/-- LOG2 (R141). -/
def execLog2 (site : VecSite) (s : State) : Host.Outcome State Fault Refusal :=
  .next (vecCmd 17 site s)

/-- SQRT (R140). -/
def execSqrt (site : VecSite) (s : State) : Host.Outcome State Fault Refusal :=
  .next (vecCmd 18 site s)

/-- AND (R140). -/
def execAndV (site : VecSite) (s : State) : Host.Outcome State Fault Refusal :=
  .next (vecCmd 19 site s)

/-- OR (R140). -/
def execOrV (site : VecSite) (s : State) : Host.Outcome State Fault Refusal :=
  .next (vecCmd 20 site s)

/-- XOR (R140). -/
def execXorV (site : VecSite) (s : State) : Host.Outcome State Fault Refusal :=
  .next (vecCmd 21 site s)

/-- SHL (R140). -/
def execShl (site : VecSite) (s : State) : Host.Outcome State Fault Refusal :=
  .next (vecCmd 22 site s)

/-- SHR (R140). -/
def execShr (site : VecSite) (s : State) : Host.Outcome State Fault Refusal :=
  .next (vecCmd 23 site s)

/-- SRA (R140). -/
def execSra (site : VecSite) (s : State) : Host.Outcome State Fault Refusal :=
  .next (vecCmd 24 site s)

/-- MULHI (R140). -/
def execMulhi (site : VecSite) (s : State) : Host.Outcome State Fault Refusal :=
  .next (vecCmd 25 site s)

/-- CLZ (R140). -/
def execClz (site : VecSite) (s : State) : Host.Outcome State Fault Refusal :=
  .next (vecCmd 26 site s)

/-- POPC (R140). -/
def execPopc (site : VecSite) (s : State) : Host.Outcome State Fault Refusal :=
  .next (vecCmd 27 site s)

/-- FLOOR (R140). -/
def execFloor (site : VecSite) (s : State) : Host.Outcome State Fault Refusal :=
  .next (vecCmd 28 site s)

/-- RINT (R140). -/
def execRint (site : VecSite) (s : State) : Host.Outcome State Fault Refusal :=
  .next (vecCmd 29 site s)

end Sys2Proof.Machine
end

