-- ==== Sys2Proof/Machine/Bundles.lean ====
section
/-!
DEFINITION. One meaning for each command: the slots of a bundle and what follows from them (R89–R128).
-/

namespace Sys2Proof.Machine

/-- MMA (R95). -/
def execMma (t : TileId) (w : BitVec 80) (e : BundleEnd) (s : State) : Host.Outcome State Fault Refusal :=
  .next (slotCmd .m (opFits .m 1 w.toNat) t.val w.toNat e s)

/-- MMA_SA (R97). -/
def execMmaSa (t : TileId) (w : BitVec 80) (e : BundleEnd) (s : State) : Host.Outcome State Fault Refusal :=
  .next (slotCmd .m (opFits .m 2 w.toNat) t.val w.toNat e s)

/-- MMA_SB (R97). -/
def execMmaSb (t : TileId) (w : BitVec 80) (e : BundleEnd) (s : State) : Host.Outcome State Fault Refusal :=
  .next (slotCmd .m (opFits .m 3 w.toNat) t.val w.toNat e s)

/-- CLEAR (R100). -/
def execClear (t : TileId) (w : BitVec 80) (e : BundleEnd) (s : State) : Host.Outcome State Fault Refusal :=
  .next (slotCmd .m (opFits .m 4 w.toNat) t.val w.toNat e s)

/-- ACCUMULATION_COMPLETE (R97). -/
def execAccumulationComplete (t : TileId) (s : State) : Host.Outcome State Fault Refusal :=
  .next (accumulationComplete t.val s)

/-- RAMP_HOLD_END (R123). -/
def execRampHoldEnd (t : TileId) (s : State) : Host.Outcome State Fault Refusal :=
  .next (rampHoldEnd t.val s)

/-- READOUT (R104). -/
def execReadout (t : TileId) (w : BitVec 64) (e : BundleEnd) (s : State) : Host.Outcome State Fault Refusal :=
  .next (slotCmd .v (opFits .v 0x20 w.toNat) t.val w.toNat e s)

/-- IMPORT (R105). -/
def execImportRaw (t : TileId) (w : BitVec 64) (e : BundleEnd) (s : State) : Host.Outcome State Fault Refusal :=
  .next (slotCmd .v (opFits .v 0x21 w.toNat) t.val w.toNat e s)

/-- SHELL_START (R106). -/
def execShellStart (t : TileId) (w : BitVec 64) (e : BundleEnd) (s : State) : Host.Outcome State Fault Refusal :=
  .next (slotCmd .v (opFits .v 0x22 w.toNat) t.val w.toNat e s)

/-- STATE_COPY (R107). -/
def execStateCopy (t : TileId) (w : BitVec 64) (e : BundleEnd) (s : State) : Host.Outcome State Fault Refusal :=
  .next (slotCmd .v (opFits .v 0x23 w.toNat) t.val w.toNat e s)

/-- SEND (R110). -/
def execSend (t : TileId) (w : BitVec 64) (e : BundleEnd) (s : State) : Host.Outcome State Fault Refusal :=
  .next (slotCmd .x (opFits .x 1 w.toNat) t.val w.toNat e s)

/-- RECV (R112). -/
def execRecv (t : TileId) (w : BitVec 64) (e : BundleEnd) (s : State) : Host.Outcome State Fault Refusal :=
  .next (slotCmd .x (opFits .x 2 w.toNat) t.val w.toNat e s)

/-- NSEND (R113). -/
def execNsend (t : TileId) (w : BitVec 64) (e : BundleEnd) (s : State) : Host.Outcome State Fault Refusal :=
  .next (slotCmd .x (opFits .x 3 w.toNat) t.val w.toNat e s)

/-- NRECV (R113). -/
def execNrecv (t : TileId) (w : BitVec 64) (e : BundleEnd) (s : State) : Host.Outcome State Fault Refusal :=
  .next (slotCmd .x (opFits .x 4 w.toNat) t.val w.toNat e s)

/-- MOVE (R109). -/
def execMove (t : TileId) (w : BitVec 64) (e : BundleEnd) (s : State) : Host.Outcome State Fault Refusal :=
  .next (slotCmd .x (opFits .x 5 w.toNat) t.val w.toNat e s)

/-- LOOP (R115). -/
def execLoop (t : TileId) (w : BitVec 40) (e : BundleEnd) (s : State) : Host.Outcome State Fault Refusal :=
  .next (slotCmd .c (opFits .c 1 w.toNat) t.val w.toNat e s)

/-- BRC (R117). -/
def execBrc (t : TileId) (w : BitVec 40) (e : BundleEnd) (s : State) : Host.Outcome State Fault Refusal :=
  .next (slotCmd .c (opFits .c 2 w.toNat) t.val w.toNat e s)

/-- WAIT (R120). -/
def execWait (t : TileId) (w : BitVec 40) (e : BundleEnd) (s : State) : Host.Outcome State Fault Refusal :=
  .next (slotCmd .c (opFits .c 3 w.toNat) t.val w.toNat e s)

/-- WAIT_TIMEOUT (R121). -/
def execWaitTimeout (t : TileId) (g : Option GSlot) (s : State) : Host.Outcome State Fault Refusal :=
  .next (waitTimeout t.val (g.map (·.val)) s)

/-- SEQUENCER_STALL_TIMEOUT (R467). -/
def execSequencerStallTimeout (t : TileId) (s : State) : Host.Outcome State Fault Refusal :=
  .next (stallTimeout t.val s)

/-- GRANT (R32). -/
def execGrant (t : TileId) (w : BitVec 40) (e : BundleEnd) (s : State) : Host.Outcome State Fault Refusal :=
  .next (slotCmd .c (opFits .c 4 w.toNat) t.val w.toNat e s)

/-- GRANT_END (R77). -/
def execGrantEnd (t : TileId) (s : State) : Host.Outcome State Fault Refusal :=
  .next (grantEnd t.val s)

/-- MARK (R118). -/
def execMark (t : TileId) (w : BitVec 40) (e : BundleEnd) (s : State) : Host.Outcome State Fault Refusal :=
  .next (slotCmd .c (opFits .c 5 w.toNat) t.val w.toNat e s)

/-- EPOCH (R119). -/
def execEpoch (t : TileId) (w : BitVec 40) (e : BundleEnd) (s : State) : Host.Outcome State Fault Refusal :=
  .next (slotCmd .c (opFits .c 6 w.toNat) t.val w.toNat e s)

/-- ADDI (R115). -/
def execAddi (t : TileId) (w : BitVec 40) (e : BundleEnd) (s : State) : Host.Outcome State Fault Refusal :=
  .next (slotCmd .c (opFits .c 7 w.toNat) t.val w.toNat e s)

/-- SETL (R115). -/
def execSetl (t : TileId) (w : BitVec 40) (e : BundleEnd) (s : State) : Host.Outcome State Fault Refusal :=
  .next (slotCmd .c (opFits .c 8 w.toNat) t.val w.toNat e s)

/-- ENV (R115). -/
def execEnv (t : TileId) (w : BitVec 40) (e : BundleEnd) (s : State) : Host.Outcome State Fault Refusal :=
  .next (slotCmd .c (opFits .c 9 w.toNat) t.val w.toNat e s)

/-- SCOPE (R115). -/
def execScope (t : TileId) (w : BitVec 40) (e : BundleEnd) (s : State) : Host.Outcome State Fault Refusal :=
  .next (slotCmd .c (opFits .c 10 w.toNat) t.val w.toNat e s)

/-- PHASE (R125). -/
def execPhase (t : TileId) (w : BitVec 40) (e : BundleEnd) (s : State) : Host.Outcome State Fault Refusal :=
  .next (slotCmd .c (opFits .c 11 w.toNat) t.val w.toNat e s)

/-- PHASE_RELOAD (R125). -/
def execPhaseReload (p : PartId) (s : State) : Host.Outcome State Fault Refusal :=
  .next (phaseReload p.val s)

/-- END (R124). -/
def execEndStream (t : TileId) (w : BitVec 40) (e : BundleEnd) (s : State) : Host.Outcome State Fault Refusal :=
  .next (slotCmd .c (opFits .c 12 w.toNat) t.val w.toNat e s)

/-- JOB_CLOSE (R124). -/
def execJobClose (p : PartId) (s : State) : Host.Outcome State Fault Refusal :=
  .next (jobClose p.val s)

/-- PAUSE (R90). -/
def execPause (t : TileId) (idle : BitVec 4) (s : State) : Host.Outcome State Fault Refusal :=
  .next (slotPause t.val idle s)

end Sys2Proof.Machine
end

