-- ==== Sys2Proof/Machine/Espalier.lean ====
section
/-!
DEFINITION. One meaning for each command: the fabric and the hub: slot tables, swaps, Twig (R165–R203).
-/

namespace Sys2Proof.Machine

/-- SLOT_TABLE_ENTRY (R171). -/
def execSlotTableEntry (t : TileId) (o : RouterOut) (link : LinkCheck) (s : State) : Host.Outcome State Fault Refusal :=
  .next (slotEntry t.val o.val link s)

/-- FLIT_LANDING (R112). -/
def execFlitLanding (t : TileId) (lane : Option Dir) (f : Flit) (s : State) : Host.Outcome State Fault Refusal :=
  .next (flitLanding t.val (lane.map (·.val)) f s)

/-- DYNAMIC_CYCLE (R179). -/
def execDynamicCycle (t : TileId) (o : RouterOut) (link : LinkCheck) (s : State) : Host.Outcome State Fault Refusal :=
  .next (dynamicCycle t.val o.val link s)

/-- SWAP (R175). -/
def execSwap (x : TwigMsg) (frame : Nat) (s : State) : Host.Outcome State Fault Refusal :=
  .next (twigSwap x.die.val x.header frame s)

/-- SWAP_FRAME (R175). -/
def execSwapFrame (p : PartId) (s : State) : Host.Outcome State Fault Refusal :=
  .next (swapFrame p.val s)

/-- TABLE_WR (R197). -/
def execTableWr (x : TwigMsg) (words : List (BitVec 32)) (s : State) : Host.Outcome State Fault Refusal :=
  .next (twigTable x.die.val x.header words s)

/-- HEARTBEAT (R197). -/
def execHeartbeat (t : TileId) (s : State) : Host.Outcome State Fault Refusal :=
  .next (heartbeat t.val s)

/-- HEARTBEAT_MISS (R466). -/
def execHeartbeatMiss (t : TileId) (s : State) : Host.Outcome State Fault Refusal :=
  .next (heartbeatMiss t.val s)

/-- HEARTBEAT_PROBE_TIMEOUT (R466). -/
def execHeartbeatProbeTimeout (t : TileId) (s : State) : Host.Outcome State Fault Refusal :=
  .next (probeTimeout t.val s)

/-- FENCE (R197). -/
def execFence (x : TwigMsg) (s : State) : Host.Outcome State Fault Refusal :=
  .next (fence x.die.val x.header s)

/-- FENCE_DONE (R197). -/
def execFenceDone (t : TileId) (s : State) : Host.Outcome State Fault Refusal :=
  .next (fenceDone t.val s)

/-- KILL (R197). -/
def execKill (x : TwigMsg) (s : State) : Host.Outcome State Fault Refusal :=
  .next (twigKill x.die.val x.header s)

/-- START (R197). -/
def execStart (x : TwigMsg) (frame : Nat) (s : State) : Host.Outcome State Fault Refusal :=
  .next (twigStart x.die.val x.header frame s)

/-- REG_RD (R197). -/
def execRegRd (x : TwigMsg) (off : Nat) (s : State) : Host.Outcome State Fault Refusal :=
  .next (regRd x.die.val x.header off s)

/-- REG_WR (R197). -/
def execRegWr (x : TwigMsg) (off : Nat) (v : BitVec 32) (s : State) : Host.Outcome State Fault Refusal :=
  .next (regWr x.die.val x.header off v.toNat s)

/-- REG_DATA (R197). -/
def execRegData (t : TileId) (x : RegReply) (s : State) : Host.Outcome State Fault Refusal :=
  .next (regData t.val x.tag x.value s)

/-- EVENT (R197). -/
def execEvent (t : TileId) (k : TwigEvent) (s : State) : Host.Outcome State Fault Refusal :=
  .next (twigEvent t.val k s)

/-- LAUNCH_REC (R130). -/
def execLaunchRec (x : TwigMsg) (r : BitVec 64) (s : State) : Host.Outcome State Fault Refusal :=
  .next (launchRec x.die.val x.header r s)

/-- SNAP_REQ (R475). -/
def execSnapReq (d : DieId) (h : BitVec 32) (hang : Bool) (s : State) : Host.Outcome State Fault Refusal :=
  .next (snapReq d.val h hang s)

/-- SNAP_DATA (R475). -/
def execSnapData (t : TileId) (words : List (BitVec 32)) (s : State) : Host.Outcome State Fault Refusal :=
  .next (snapArrive t.val words s)

/-- COUNTER_SNAPSHOT (R494). -/
def execCounterSnapshot (t : TileId) (s : State) : Host.Outcome State Fault Refusal :=
  .next (if twigUp s t.val then updTile s t.val counterSnapshot else s)

/-- GROUP_RESIDENT (R131). -/
def execGroupResident (t : TileId) (s : State) : Host.Outcome State Fault Refusal :=
  .next (groupResident t.val s)

/-- PROMOTION (R136). -/
def execPromotion (t : TileId) (s : State) : Host.Outcome State Fault Refusal :=
  .next (promotion t.val s)

end Sys2Proof.Machine
end

