-- ==== Sys2Proof/Machine/Threads.lean ====
section
/-!
DEFINITION. One meaning for each command: GX, the thread groups, and the movers' kills (R129–R163).
-/

namespace Sys2Proof.Machine

/-- NOP (R139). -/
def execNop (t : TileId) (g : GSlot) (w : BitVec 64) (s : State) : Host.Outcome State Fault Refusal :=
  .next (gxCmd (gxFits [0x00] w.toNat) t.val g.val w.toNat (fun _ _ _ s => gxNop t.val g.val w.toNat s) s)

/-- MOVI (R142). -/
def execMovi (t : TileId) (g : GSlot) (w : BitVec 64) (s : State) : Host.Outcome State Fault Refusal :=
  .next (gxCmd (gxFits [0x20] w.toNat) t.val g.val w.toNat (gxMovi t.val g.val w.toNat) s)

/-- RDSPEC (R142). -/
def execRdspec (t : TileId) (g : GSlot) (w : BitVec 64) (s : State) : Host.Outcome State Fault Refusal :=
  .next (gxCmd (gxFits [0x21] w.toNat) t.val g.val w.toNat (gxRdspec t.val g.val w.toNat) s)

/-- SETP (R142). -/
def execSetp (t : TileId) (g : GSlot) (w : BitVec 64) (s : State) : Host.Outcome State Fault Refusal :=
  .next (gxCmd (gxFits [0x22] w.toNat) t.val g.val w.toNat (gxSetp t.val g.val w.toNat) s)

/-- PLOG (R142). -/
def execPlog (t : TileId) (g : GSlot) (w : BitVec 64) (s : State) : Host.Outcome State Fault Refusal :=
  .next (gxCmd (gxFits [0x23] w.toNat) t.val g.val w.toNat (gxPlog t.val g.val w.toNat) s)

/-- VOTE (R142). -/
def execVote (t : TileId) (g : GSlot) (w : BitVec 64) (s : State) : Host.Outcome State Fault Refusal :=
  .next (gxCmd (gxFits [0x24] w.toNat) t.val g.val w.toNat (gxVote t.val g.val w.toNat) s)

/-- SHFL (R142). -/
def execShfl (t : TileId) (g : GSlot) (w : BitVec 64) (s : State) : Host.Outcome State Fault Refusal :=
  .next (gxCmd (gxFits [0x25] w.toNat) t.val g.val w.toNat (gxShfl t.val g.val w.toNat) s)

/-- LFOLD (R142). -/
def execLfold (t : TileId) (g : GSlot) (w : BitVec 64) (s : State) : Host.Outcome State Fault Refusal :=
  .next (gxCmd (gxFits [0x26] w.toNat) t.val g.val w.toNat (gxLfold t.val g.val w.toNat) s)

/-- LD (R143). -/
def execLd (t : TileId) (g : GSlot) (w : BitVec 64) (s : State) : Host.Outcome State Fault Refusal :=
  .next (gxCmd (gxFits [0x30] w.toNat) t.val g.val w.toNat (gxLd t.val g.val w.toNat) s)

/-- ST (R143). -/
def execSt (t : TileId) (g : GSlot) (w : BitVec 64) (s : State) : Host.Outcome State Fault Refusal :=
  .next (gxCmd (gxFits [0x31] w.toNat) t.val g.val w.toNat (gxSt t.val g.val w.toNat) s)

/-- ATOM (R151). -/
def execAtom (t : TileId) (g : GSlot) (w : BitVec 64) (s : State) : Host.Outcome State Fault Refusal :=
  .next (gxCmd (gxFits [0x40] w.toNat) t.val g.val w.toNat (gxAtomic true t.val g.val w.toNat) s)

/-- ATOMN (R150). -/
def execAtomn (t : TileId) (g : GSlot) (w : BitVec 64) (s : State) : Host.Outcome State Fault Refusal :=
  .next (gxCmd (gxFits [0x41] w.toNat) t.val g.val w.toNat (gxAtomic false t.val g.val w.toNat) s)

/-- LADD (R153). -/
def execLadd (t : TileId) (g : GSlot) (w : BitVec 64) (s : State) : Host.Outcome State Fault Refusal :=
  .next (gxCmd (gxFits [0x42] w.toNat) t.val g.val w.toNat (gxLadd t.val g.val w.toNat) s)

/-- BAR (R157). -/
def execBar (t : TileId) (g : GSlot) (w : BitVec 64) (s : State) : Host.Outcome State Fault Refusal :=
  .next (gxCmd (gxFits [0x50] w.toNat) t.val g.val w.toNat (gxBar t.val g.val w.toNat) s)

/-- WAITAC (R158). -/
def execWaitac (t : TileId) (g : GSlot) (w : BitVec 64) (s : State) : Host.Outcome State Fault Refusal :=
  .next (gxCmd (gxFits [0x51] w.toNat) t.val g.val w.toNat (gxWaitac t.val g.val w.toNat) s)

/-- RDAC (R158). -/
def execRdac (t : TileId) (g : GSlot) (w : BitVec 64) (s : State) : Host.Outcome State Fault Refusal :=
  .next (gxCmd (gxFits [0x52] w.toNat) t.val g.val w.toNat (gxRdac t.val g.val w.toNat) s)

/-- MOVEG (R158). -/
def execMoveg (t : TileId) (g : GSlot) (w : BitVec 64) (s : State) : Host.Outcome State Fault Refusal :=
  .next (gxCmd (gxFits [0x53] w.toNat) t.val g.val w.toNat (gxMoveg t.val g.val w.toNat) s)

/-- SPAWN (R158). -/
def execSpawn (t : TileId) (g : GSlot) (w : BitVec 64) (s : State) : Host.Outcome State Fault Refusal :=
  .next (gxCmd (gxFits [0x54] w.toNat) t.val g.val w.toNat (fun _ mask x s => gxSpawn t.val g.val w.toNat mask x s) s)

/-- BR (R154). -/
def execBr (t : TileId) (g : GSlot) (w : BitVec 64) (s : State) : Host.Outcome State Fault Refusal :=
  .next (gxCmd (gxFits [0x60] w.toNat) t.val g.val w.toNat (fun _ mask x s => gxBr t.val g.val w.toNat mask x s) s)

/-- EXIT (R155). -/
def execExit (t : TileId) (g : GSlot) (w : BitVec 64) (s : State) : Host.Outcome State Fault Refusal :=
  .next (gxCmd (gxFits [0x61] w.toNat) t.val g.val w.toNat (fun _ mask x s => gxExit t.val g.val w.toNat mask x s) s)

/-- GMMA (R160). -/
def execGmma (t : TileId) (g : GSlot) (w : BitVec 64) (s : State) : Host.Outcome State Fault Refusal :=
  .next (gxCmd (gxFits [0x70] w.toNat) t.val g.val w.toNat (fun c _ x s => gxGmma t.val g.val w.toNat c x s) s)

/-- GMMA_START (R161). -/
def execGmmaStart (t : TileId) (g : GSlot) (s : State) : Host.Outcome State Fault Refusal :=
  .next (gmmaStart t.val g.val s)

/-- GREAD (R162). -/
def execGread (t : TileId) (g : GSlot) (w : BitVec 64) (s : State) : Host.Outcome State Fault Refusal :=
  .next (gxCmd (gxFits [0x71] w.toNat) t.val g.val w.toNat (fun c _ x s => gxGread t.val g.val w.toNat c x s) s)

/-- GREAD_START (R162). -/
def execGreadStart (t : TileId) (g : GSlot) (s : State) : Host.Outcome State Fault Refusal :=
  .next (greadStart t.val g.val s)

/-- FORWARD_PROGRESS_TIMEOUT (R137). -/
def execForwardProgressTimeout (t : TileId) (g : GSlot) (s : State) : Host.Outcome State Fault Refusal :=
  .next (progressTimeout t.val g.val s)

/-- JOB_KILL (R163). -/
def execJobKill (p : PartId) (cause : KillCause) (s : State) : Host.Outcome State Fault Refusal :=
  .next (jobKill p.val cause s)

end Sys2Proof.Machine
end

