-- ==== Sys2Proof/Machine/Coherence.lean ====
section
/-!
DEFINITION. One meaning for each command: movers and coherence (R204–R272).
-/

namespace Sys2Proof.Machine

/-- A reply to an invalidation arrives at the home, or at the ring agent of a die (R246). -/
def replyArrives (typ : Nat) (held : Bool) (r : ReplyTo) (m : CMsg) (s : State) : State :=
  match r with
  | .home h => homeArrive typ h.val m s
  | .ring d => ringReply held d.val m s

/-- An ACK arrives at a tile for its L1, or for one of its movers. -/
def ackAt (t : Nat) (mv : Option Nat) (m : CMsg) (s : State) : State :=
  match mv with
  | none => ackL1 t m s
  | some k => ackMover t k m s

/-- DESCRIPTOR_START (R212). -/
def execDescriptorStart (t : TileId) (m : MoverId) (s : State) : Host.Outcome State Fault Refusal :=
  .next (startDesc t.val m.val s)

/-- COPY (R208). -/
def execCopy (t : TileId) (m : MoverId) (s : State) : Host.Outcome State Fault Refusal :=
  .next (copyStep t.val m.val s)

/-- AC_SUB (R216). -/
def execAcSub (t : TileId) (m : MoverId) (s : State) : Host.Outcome State Fault Refusal :=
  .next (subStep t.val m.val s)

/-- DESCRIPTOR_RETIRE (R212). -/
def execDescriptorRetire (t : TileId) (m : MoverId) (s : State) : Host.Outcome State Fault Refusal :=
  .next (retireDesc t.val m.val s)

/-- MW (R213). -/
def execMw (x : MwPacket) (s : State) : Host.Outcome State Fault Refusal :=
  .next (mwLand x s)

/-- MACK (R213). -/
def execMack (x : MwHdr) (s : State) : Host.Outcome State Fault Refusal :=
  .next (mackLand x s)

/-- RANGE_LOOKUP (R276). -/
def execRangeLookup (t : TileId) (va : BitVec 64) (s : State) : Host.Outcome State Fault Refusal :=
  .next (lookupAt t.val va.toNat s)

/-- GETS (R251). -/
def execGets (h : SliceId) (m : CMsg) (s : State) : Host.Outcome State Fault Refusal :=
  .next (homeArrive tGETS h.val m s)

/-- GETM (R251). -/
def execGetm (h : SliceId) (m : CMsg) (s : State) : Host.Outcome State Fault Refusal :=
  .next (homeArrive tGETM h.val m s)

/-- RDU (R251). -/
def execRdu (h : SliceId) (m : CMsg) (s : State) : Host.Outcome State Fault Refusal :=
  .next (homeArrive tRDU h.val m s)

/-- WRU (R251). -/
def execWru (h : SliceId) (m : CMsg) (s : State) : Host.Outcome State Fault Refusal :=
  .next (homeArrive tWRU h.val m s)

/-- ATOMIC (R251). -/
def execAtomic (h : SliceId) (m : CMsg) (s : State) : Host.Outcome State Fault Refusal :=
  .next (homeArrive tATOMIC h.val m s)

/-- ADD_TO_LINE (R258). -/
def execAddToLine (h : SliceId) (m : CMsg) (s : State) : Host.Outcome State Fault Refusal :=
  .next (homeArrive tLADD h.val m s)

/-- LINE_ADDITION (R259). -/
def execLineAddition (h : SliceId) (s : State) : Host.Outcome State Fault Refusal :=
  .next (lineAddition s h.val)

/-- DISCARD (R262). -/
def execDiscard (h : SliceId) (m : CMsg) (s : State) : Host.Outcome State Fault Refusal :=
  .next (homeArrive tDISCARD h.val m s)

/-- MRD (R251). -/
def execMrd (h : SliceId) (m : CMsg) (s : State) : Host.Outcome State Fault Refusal :=
  .next (homeArrive tMRD h.val m s)

/-- DMW (R251). -/
def execDmw (h : SliceId) (m : CMsg) (s : State) : Host.Outcome State Fault Refusal :=
  .next (homeArrive tDMW h.val m s)

/-- WB (R235). -/
def execWb (h : SliceId) (m : CMsg) (s : State) : Host.Outcome State Fault Refusal :=
  .next (homeArrive tWB h.val m s)

/-- CNT (R215). -/
def execCnt (t : TileId) (m : CMsg) (s : State) : Host.Outcome State Fault Refusal :=
  .next (cntAt t.val m s)

/-- FWD_S (R241). -/
def execFwdS (t : TileId) (m : CMsg) (s : State) : Host.Outcome State Fault Refusal :=
  .next (forwardAt tFWDS t.val m s)

/-- FWD_M (R241). -/
def execFwdM (t : TileId) (m : CMsg) (s : State) : Host.Outcome State Fault Refusal :=
  .next (forwardAt tFWDM t.val m s)

/-- INV (R241). -/
def execInv (t : TileId) (m : CMsg) (s : State) : Host.Outcome State Fault Refusal :=
  .next (invAt t.val m s)

/-- RECALL (R241). -/
def execRecall (t : TileId) (m : CMsg) (s : State) : Host.Outcome State Fault Refusal :=
  .next (forwardAt tRECALL t.val m s)

/-- RING_INV (R246). -/
def execRingInv (d : DieId) (h : SliceId) (m : CMsg) (s : State) : Host.Outcome State Fault Refusal :=
  .next (ringInv d.val h.val m s)

/-- DATA (R252). -/
def execData (t : TileId) (m : CMsg) (s : State) : Host.Outcome State Fault Refusal :=
  .next (dataAt t.val m s)

/-- ACK (R244). -/
def execAck (t : TileId) (mv : Option MoverId) (m : CMsg) (s : State) : Host.Outcome State Fault Refusal :=
  .next (ackAt t.val (mv.map (·.val)) m s)

/-- FWD_ACK (R251). -/
def execFwdAck (h : SliceId) (m : CMsg) (s : State) : Host.Outcome State Fault Refusal :=
  .next (homeArrive tFWDACK h.val m s)

/-- INV_ACK (R251). -/
def execInvAck (r : ReplyTo) (m : CMsg) (s : State) : Host.Outcome State Fault Refusal :=
  .next (replyArrives tINVACK true r m s)

/-- NOT_PRESENT (R247). -/
def execNotPresent (r : ReplyTo) (m : CMsg) (s : State) : Host.Outcome State Fault Refusal :=
  .next (replyArrives tNOTPRES false r m s)

/-- WB_IN_FLIGHT (R252). -/
def execWbInFlight (h : SliceId) (m : CMsg) (s : State) : Host.Outcome State Fault Refusal :=
  .next (homeArrive tWBIF h.val m s)

/-- ATOMR (R151). -/
def execAtomr (t : TileId) (m : CMsg) (s : State) : Host.Outcome State Fault Refusal :=
  .next (atomrAt t.val m s)

/-- RING_ACK (R246). -/
def execRingAck (h : SliceId) (d : DieId) (m : CMsg) (s : State) : Host.Outcome State Fault Refusal :=
  .next (ringAck h.val d.val m s)

/-- HOME_TIMEOUT (R253). -/
def execHomeTimeout (h : SliceId) (line : Nat) (s : State) : Host.Outcome State Fault Refusal :=
  .next (homeTimeout s h.val line)

end Sys2Proof.Machine
end

