-- ==== Sys2Proof/Machine/Windows.lean ====
section
/-!
DEFINITION. One meaning for each command: address translation, windows and dirty logs (R273–R288).
-/

namespace Sys2Proof.Machine

/-- WITHDRAW_EFFECT: the withdrawal under way comes to its effect cycle w (R282). -/
def withdrawAt (p : Nat) (s : State) : State :=
  match (xlAt s p).withdrawal with
  | some wd => if wd.done then s else advanceTo s wd.w
  | none => s

/-- XL_ADD (R281). -/
def execXlAdd (p : PartId) (v : BitVec 32) (s : State) : Host.Outcome State Fault Refusal :=
  .next (regWrite .pf (0x18A020 + 0x80 * p.val) (1 * 2 ^ 28 + v.toNat % 2 ^ 28) s)

/-- XL_WITHDRAW (R282). -/
def execXlWithdraw (p : PartId) (v : BitVec 32) (s : State) : Host.Outcome State Fault Refusal :=
  .next (regWrite .pf (0x18A020 + 0x80 * p.val) (2 * 2 ^ 28 + v.toNat % 2 ^ 28) s)

/-- XL_READ (R281). -/
def execXlRead (p : PartId) (v : BitVec 32) (s : State) : Host.Outcome State Fault Refusal :=
  .next (regWrite .pf (0x18A020 + 0x80 * p.val) (3 * 2 ^ 28 + v.toNat % 2 ^ 28) s)

/-- WIN_ADD (R281). -/
def execWinAdd (p : PartId) (v : BitVec 32) (s : State) : Host.Outcome State Fault Refusal :=
  .next (regWrite .pf (0x18A020 + 0x80 * p.val) (4 * 2 ^ 28 + v.toNat % 2 ^ 28) s)

/-- WIN_WITHDRAW (R282). -/
def execWinWithdraw (p : PartId) (v : BitVec 32) (s : State) : Host.Outcome State Fault Refusal :=
  .next (regWrite .pf (0x18A020 + 0x80 * p.val) (5 * 2 ^ 28 + v.toNat % 2 ^ 28) s)

/-- WIN_CFG (R281). -/
def execWinCfg (p : PartId) (v : BitVec 32) (s : State) : Host.Outcome State Fault Refusal :=
  .next (regWrite .pf (0x18A020 + 0x80 * p.val) (6 * 2 ^ 28 + v.toNat % 2 ^ 28) s)

/-- WIN_READ (R281). -/
def execWinRead (p : PartId) (v : BitVec 32) (s : State) : Host.Outcome State Fault Refusal :=
  .next (regWrite .pf (0x18A020 + 0x80 * p.val) (7 * 2 ^ 28 + v.toNat % 2 ^ 28) s)

/-- WITHDRAW_EFFECT (R282). -/
def execWithdrawEffect (p : PartId) (s : State) : Host.Outcome State Fault Refusal :=
  .next (withdrawAt p.val s)

/-- DRAIN_REPORT (R282). -/
def execDrainReport (p : PartId) (t : TileId) (s : State) : Host.Outcome State Fault Refusal :=
  .next (drainFrom p.val t.val s)

/-- DRAIN_ABANDONED (R284). -/
def execDrainAbandoned (p : PartId) (s : State) : Host.Outcome State Fault Refusal :=
  .next (drainAbandoned p.val s)

/-- WINDOW_WRITE (R278). -/
def execWindowWrite (n : PortId) (c : LockCell) (s : State) : Host.Outcome State Fault Refusal :=
  .next (windowWrite n.val c s)

/-- DLOG_CTRL (R287). -/
def execDlogCtrl (p : PartId) (v : BitVec 32) (s : State) : Host.Outcome State Fault Refusal :=
  .next (regWrite .pf (0x18A040 + 0x80 * p.val) v.toNat s)

/-- DLOG_CLEAR (R287). -/
def execDlogClear (p : PartId) (v : BitVec 32) (s : State) : Host.Outcome State Fault Refusal :=
  .next (regWrite .pf (0x18A05C + 0x80 * p.val) v.toNat s)

end Sys2Proof.Machine
end

