-- ==== Sys2Proof/Machine/Storage.lean ====
section
/-!
DEFINITION. One meaning for each command: stacked memory and the Seedbank (R289–R335).
-/

namespace Sys2Proof.Machine

/-- TEMPERATURE_READOUT (R298). -/
def execTemperatureReadout (k : StackId) (temp : Option Nat) (s : State) : Host.Outcome State Fault Refusal :=
  .next (temperatureReadout k.val temp s)

/-- REFRESH (R298). -/
def execRefresh (k : StackId) (s : State) : Host.Outcome State Fault Refusal :=
  .next (refreshStack k.val s)

/-- RFM (R289). -/
def execRfm (k : StackId) (s : State) : Host.Outcome State Fault Refusal :=
  .next (rfmStack k.val s)

/-- PATROL (R297). -/
def execPatrol (pa : BitVec 41) (s : State) : Host.Outcome State Fault Refusal :=
  .next (patrol pa.toNat s)

/-- STACK_FAILED (R302). -/
def execStackFailed (k : StackId) (why : StackFault) (s : State) : Host.Outcome State Fault Refusal :=
  .next (stackFailed k.val why s)

/-- STACK_TEMPERATURE_WAIT (R301). -/
def execStackTemperatureWait (k : StackId) (s : State) : Host.Outcome State Fault Refusal :=
  .next (stackWait k.val s)

/-- PAGE_READ (R317). -/
def execPageRead (ext page : Nat) (o : PageOutcome) (s : State) : Host.Outcome State Fault Refusal :=
  .next (pageRead ext page o s)

/-- PAGE_WRITE (R319). -/
def execPageWrite (ext page : Nat) (programFailed : Bool) (s : State) : Host.Outcome State Fault Refusal :=
  .next (pageWrite ext page programFailed s)

/-- EXTENT_CREATE (R315). -/
def execExtentCreate (c : List Byte) (s : State) : Host.Outcome State Fault Refusal :=
  .next (extentCmd 1 c s)

/-- EXTENT_DELETE (R315). -/
def execExtentDelete (c : List Byte) (s : State) : Host.Outcome State Fault Refusal :=
  .next (extentCmd 2 c s)

/-- ATTACH (R315). -/
def execAttach (c : List Byte) (s : State) : Host.Outcome State Fault Refusal :=
  .next (extentCmd 3 c s)

/-- READ_DISTURB_REFRESH (R322). -/
def execReadDisturbRefresh (b : Nat) (s : State) : Host.Outcome State Fault Refusal :=
  .next (background s 0 (disturbRefresh b))

/-- RETENTION_REFRESH (R322). -/
def execRetentionRefresh (b : Nat) (s : State) : Host.Outcome State Fault Refusal :=
  .next (background s 0 (retentionRefresh b))

/-- STATIC_WEAR_LEVELLING (R322). -/
def execStaticWearLevelling (ch : ChanId) (s : State) : Host.Outcome State Fault Refusal :=
  .next (background s (2 ^ ch.val) (wearLevel ch.val))

/-- DIE_FAILURE (R322). -/
def execDieFailure (ch : ChanId) (die : Fin 8) (s : State) : Host.Outcome State Fault Refusal :=
  .next (updSeed s (dieFailure ch.val die.val))

/-- FOLD (R311). -/
def execFold (programFailed : Bool) (s : State) : Host.Outcome State Fault Refusal :=
  .next (background { s with fresh := s.fresh + 1 } 0xFFFFFFFF (fold programFailed s.fresh))

/-- GARBAGE_COLLECTION (R321). -/
def execGarbageCollection (ch : ChanId) (s : State) : Host.Outcome State Fault Refusal :=
  .next (background { s with fresh := s.fresh + 1 } (2 ^ ch.val) (collect ch.val s.fresh))

/-- RETENTION_SCAN (R325). -/
def execRetentionScan (blocks : List Nat) (s : State) : Host.Outcome State Fault Refusal :=
  .next (background s 0 (retentionScan blocks))

/-- CHANNEL_TRAINING (R308). -/
def execChannelTraining (ch : ChanId) (ok : Bool) (s : State) : Host.Outcome State Fault Refusal :=
  .next (updSeed s (channelTraining ch.val s.us ok))

/-- SEEDBANK_READY (R331). -/
def execSeedbankReady (s : State) : Host.Outcome State Fault Refusal :=
  .next (seedbankReady s)

/-- PARK (R328). -/
def execPark (id : Nat) (s : State) : Host.Outcome State Fault Refusal :=
  .next (startPark id s)

/-- SESSION_PARKED (R328). -/
def execSessionParked (id : Nat) (s : State) : Host.Outcome State Fault Refusal :=
  .next (parkedRetry id s)

/-- RESUME (R329). -/
def execResume (id : Nat) (s : State) : Host.Outcome State Fault Refusal :=
  .next (resume id s)

/-- RESUME_COMPLETE (R329). -/
def execResumeComplete (id : Nat) (s : State) : Host.Outcome State Fault Refusal :=
  .next (resumeComplete id s)

/-- SNAPSHOT_BUDGET (R476). -/
def execSnapshotBudget (s : State) : Host.Outcome State Fault Refusal :=
  .next (snapBudget s)

/-- STACK_RETRAINING (R302). -/
def execStackRetraining (k : StackId) (cleared : Bool) (s : State) : Host.Outcome State Fault Refusal :=
  .next (stackRetraining k.val cleared s)

end Sys2Proof.Machine
end

