-- ==== Sys2Proof/Machine/Links.lean ====
section
/-!
DEFINITION. One meaning for each command: Graft and Coppice (R336–R391).
-/

namespace Sys2Proof.Machine

/-- UNSTABLE (R347). -/
def execUnstable (l : LinkId) (b : Fin 64) (s : State) : Host.Outcome State Fault Refusal :=
  .next (unstable l.val b.val s)

/-- BUNDLE_CLOCK_FAILURE (R362). -/
def execBundleClockFailure (l : LinkId) (b : Fin 64) (dir : Bool) (s : State) : Host.Outcome State Fault Refusal :=
  .next (clockFailure l.val b.val dir s)

/-- CELL (R369). -/
def execCell (n : PortId) (s : State) : Host.Outcome State Fault Refusal :=
  .next (sendCell n.val s)

/-- CELL_ARRIVAL (R376). -/
def execCellArrival (n : PortId) (c : LockCell) (uncorrectable : Bool) (s : State) : Host.Outcome State Fault Refusal :=
  .next (cellArrival n.val c uncorrectable s)

/-- RELEASE (R375). -/
def execRelease (n : PortId) (s : State) : Host.Outcome State Fault Refusal :=
  .next (releaseCell n.val s)

/-- TICK (R371). -/
def execTick (n : PortId) (b : BitVec 257) (s : State) : Host.Outcome State Fault Refusal :=
  .next (tickBlock n.val b s)

/-- ALIGN_REQ (R381). -/
def execAlignReq (n : PortId) (b : BitVec 257) (s : State) : Host.Outcome State Fault Refusal :=
  .next (alignReq n.val b s)

/-- ALIGN_RSP (R381). -/
def execAlignRsp (n : PortId) (b : BitVec 257) (s : State) : Host.Outcome State Fault Refusal :=
  .next (alignRsp n.val b s)

/-- LINK_ID (R381). -/
def execLinkId (n : PortId) (b : BitVec 257) (s : State) : Host.Outcome State Fault Refusal :=
  .next (linkId n.val b s)

/-- FREQ (R380). -/
def execFreq (n : PortId) (b : BitVec 257) (s : State) : Host.Outcome State Fault Refusal :=
  .next (freqBlock n.val b s)

/-- CREDIT (R388). -/
def execCredit (n : PortId) (b : BitVec 257) (s : State) : Host.Outcome State Fault Refusal :=
  .next (creditBlock n.val b s)

/-- FILL (R371). -/
def execFill (n : PortId) (b : BitVec 257) (s : State) : Host.Outcome State Fault Refusal :=
  .next (fillBlock n.val b s)

/-- ALIGNMENT_SLIP_DONE (R381). -/
def execAlignmentSlipDone (n : PortId) (s : State) : Host.Outcome State Fault Refusal :=
  .next (slipDone n.val s)

/-- PARENT_LOST (R379). -/
def execParentLost (s : State) : Host.Outcome State Fault Refusal :=
  .next (parentLost s)

/-- HOLDOVER_END (R379). -/
def execHoldoverEnd (s : State) : Host.Outcome State Fault Refusal :=
  .next (holdoverEnd s)

/-- PEER_LOST (R387). -/
def execPeerLost (n : PortId) (s : State) : Host.Outcome State Fault Refusal :=
  .next (peerLost n.val s)

/-- LINK_DOWN (R365). -/
def execLinkDown (n : PortId) (lane : Fin 4) (s : State) : Host.Outcome State Fault Refusal :=
  .next (linkDown n.val lane.val s)

/-- LOCKSTEP_LAUNCH (R386). -/
def execLockstepLaunch (p : PartId) (t0 : Nat) (tag : BitVec 16) (img : Image) (s : State) : Host.Outcome State Fault Refusal :=
  .next (lockstepLaunch p.val t0 tag.toNat img s)

/-- WINDOW_CELL (R388). -/
def execWindowCell (n : PortId) (c : LockCell) (s : State) : Host.Outcome State Fault Refusal :=
  .next (queueCell n.val c s)

/-- WANTED_POINT (R448). -/
def execWantedPoint (c : LockCell) (s : State) : Host.Outcome State Fault Refusal :=
  .next (wantedPoint c s)

/-- LANES_LOCK (R381). -/
def execLanesLock (n : PortId) (s : State) : Host.Outcome State Fault Refusal :=
  .next (lanesUp n.val s)

end Sys2Proof.Machine
end

