-- ==== Sys2Proof/Machine/Service.lean ====
section
/-!
DEFINITION. One meaning for each command: the doors, sessions and partitions (R392–R435).
-/

namespace Sys2Proof.Machine

/-- FRAME (R392). -/
def execFrame (n : PortId) (bytes : List Byte) (pcsError : Bool) (us : Nat) (s : State) : Host.Outcome State Fault Refusal :=
  .next (frame n.val bytes pcsError us s)

/-- REQUEST (R414). -/
def execRequest (m : InMsg) (s : State) : Host.Outcome State Fault Refusal :=
  .next (clientRequest m s)

/-- CONTINUE (R414). -/
def execContinueReq (m : InMsg) (s : State) : Host.Outcome State Fault Refusal :=
  .next (continueReq m s)

/-- CANCEL (R424). -/
def execCancel (m : InMsg) (s : State) : Host.Outcome State Fault Refusal :=
  .next (cancel m s)

/-- PING (R394). -/
def execPing (m : InMsg) (s : State) : Host.Outcome State Fault Refusal :=
  .next (ping m s)

/-- INPUT_TIMEOUT (R416). -/
def execInputTimeout (p : PartId) (reqId : Nat) (s : State) : Host.Outcome State Fault Refusal :=
  .next (inputTimeout p.val reqId s)

/-- CREATE (R403). -/
def execCreate (p : PartId) (s : State) : Host.Outcome State Fault Refusal :=
  .next (create p.val s)

/-- DELETE (R404). -/
def execDelete (p : PartId) (s : State) : Host.Outcome State Fault Refusal :=
  .next (delete p.val s)

/-- RESET (R404). -/
def execReset (p : PartId) (s : State) : Host.Outcome State Fault Refusal :=
  .next (reset p.val s)

/-- SESSION_EXTENT (R406). -/
def execSessionExtent (p : PartId) (ext : BitVec 16) (s : State) : Host.Outcome State Fault Refusal :=
  .next (sessionExtent p.val ext.toNat s)

/-- SESSION_SELECT (R435). -/
def execSessionSelect (r : Requester) (p : PartId) (v : List Byte) (s : State) : Host.Outcome State Fault Refusal :=
  .next ((dictWrite (clientNo r) 0x3095 (p.val + 1) v true s).1)

/-- QP_CTRL (R410). -/
def execQpCtrl (p : PartId) (q : QpId) (v : BitVec 32) (s : State) : Host.Outcome State Fault Refusal :=
  .next (regWrite (.vf p) (0x10000 + 0x40 * q.val + 0x0) v.toNat s)

/-- QP_SQ_TAIL (R410). -/
def execQpSqTail (p : PartId) (q : QpId) (v : BitVec 32) (s : State) : Host.Outcome State Fault Refusal :=
  .next (regWrite (.vf p) (0x10000 + 0x40 * q.val + 0x14) v.toNat s)

/-- QP_RQ_HEAD (R410). -/
def execQpRqHead (p : PartId) (q : QpId) (v : BitVec 32) (s : State) : Host.Outcome State Fault Refusal :=
  .next (regWrite (.vf p) (0x10000 + 0x40 * q.val + 0x20) v.toNat s)

/-- SUBMISSION_ENTRY (R411). -/
def execSubmissionEntry (p : PartId) (q : QpId) (entry : List Byte) (msg : Option (List Byte)) (us : Nat) (s : State) : Host.Outcome State Fault Refusal :=
  .next (submissionEntry p.val q.val entry msg us s)

/-- STEP_BOUNDARY (R427). -/
def execStepBoundary (p : PartId) (us : Nat) (s : State) : Host.Outcome State Fault Refusal :=
  .next (stepBoundary p.val us s)

/-- STEP_OUTPUT (R422). -/
def execStepOutput (p : PartId) (us : Nat) (s : State) : Host.Outcome State Fault Refusal :=
  .next (stepOutput p.val us s)

/-- SESSION_COMMAND (R426). -/
def execSessionCommand (p : PartId) (cmd : SessCmd) (s : State) : Host.Outcome State Fault Refusal :=
  .next (sessionCommand p.val cmd s)

/-- RESUME_CONFIRMATION_TIMEOUT (R426). -/
def execResumeConfirmationTimeout (p : PartId) (id : Nat) (s : State) : Host.Outcome State Fault Refusal :=
  .next (confirmTimeout p.val id s)

end Sys2Proof.Machine
end

