-- ==== Sys2Proof/Machine/Governor.lean ====
section
/-!
DEFINITION. One meaning for each command: power, recovery and counters (R436–R506).
-/

namespace Sys2Proof.Machine

/-- COUNTER_SWEEP: the sums go to the requester, or the code that refuses the read (R502). -/
def counterSweep (r p : Nat) (s : State) : State :=
  match dictRead s r 0x8050 (p + 1) with
  | .ok v => emit s (.response r v)
  | .error c => emit s (.response r (abortData c))

/-- ESTIMATION_INTERVAL (R436). -/
def execEstimationInterval (x : Interval) (s : State) : Host.Outcome State Fault Refusal :=
  .next (estimation x s)

/-- EPOCH_BOUNDARY (R446). -/
def execEpochBoundary (x : EpochMeasure) (s : State) : Host.Outcome State Fault Refusal :=
  .next (epochBoundary x s)

/-- POINT_DECISION (R446). -/
def execPointDecision (s : State) : Host.Outcome State Fault Refusal :=
  .next (decidePoint s)

/-- DROOP_DETECTION (R450). -/
def execDroopDetection (region : Fin 36) (s : State) : Host.Outcome State Fault Refusal :=
  .next (droop region.val s)

/-- STRETCH_EVENT (R451). -/
def execStretchEvent (s : State) : Host.Outcome State Fault Refusal :=
  .next (stretch s)

/-- STRETCH_EVENT_END (R451). -/
def execStretchEventEnd (s : State) : Host.Outcome State Fault Refusal :=
  .next (stretchEnd s)

/-- STEP_WATCHDOG (R464). -/
def execStepWatchdog (p : PartId) (s : State) : Host.Outcome State Fault Refusal :=
  .next (stepWatchdog p.val s)

/-- HUB_WATCHDOG (R464). -/
def execHubWatchdog (d : DieId) (s : State) : Host.Outcome State Fault Refusal :=
  .next (hubWatchdog d.val s)

/-- APPLICATION_CORE_WATCHDOG (R464). -/
def execApplicationCoreWatchdog (s : State) : Host.Outcome State Fault Refusal :=
  .next (deviceReset 0x05 s)

/-- MANAGEMENT_WATCHDOG (R464). -/
def execManagementWatchdog (s : State) : Host.Outcome State Fault Refusal :=
  .next (moduleReset 0x06 s)

/-- ESCALATION (R468). -/
def execEscalation (p : Option PartId) (s : State) : Host.Outcome State Fault Refusal :=
  .next (escalate (p.map (·.val)) s)

/-- DEVICE_RESET (R471). -/
def execDeviceReset (cause : BitVec 8) (s : State) : Host.Outcome State Fault Refusal :=
  .next (deviceReset cause.toNat s)

/-- MODULE_RESET (R468). -/
def execModuleReset (cause : BitVec 8) (s : State) : Host.Outcome State Fault Refusal :=
  .next (moduleReset cause.toNat s)

/-- CLEAR_WITHDRAWN (R474). -/
def execClearWithdrawn (s : State) : Host.Outcome State Fault Refusal :=
  .next (clearWithdrawn s)

/-- ENTER_WITHDRAWN (R474). -/
def execEnterWithdrawn (s : State) : Host.Outcome State Fault Refusal :=
  .next (enterWithdrawn s)

/-- JOB_KILL_COMMAND (R483). -/
def execJobKillCommand (p : PartId) (s : State) : Host.Outcome State Fault Refusal :=
  .next (killCommand p.val s)

/-- HOLD_FLAG_CLEAR (R469). -/
def execHoldFlagClear (p : PartId) (s : State) : Host.Outcome State Fault Refusal :=
  .next (holdClear p.val s)

/-- COUNTER_SWEEP (R502). -/
def execCounterSweep (r : Requester) (p : PartId) (s : State) : Host.Outcome State Fault Refusal :=
  .next (counterSweep (clientNo r) p.val s)

/-- AC_VALUE_LO (R39). -/
def execAcValueLo (f : Fn) (t : TileId) (s : State) : Host.Outcome State Fault Refusal :=
  .next (readAc f t.val s)

/-- CNT_LO (R493). -/
def execCntLo (f : Fn) (t : TileId) (s : State) : Host.Outcome State Fault Refusal :=
  .next (readCnt f t.val s)

/-- ESP_CYCLE_LO (R201). -/
def execEspCycleLo (s : State) : Host.Outcome State Fault Refusal :=
  .next (readCycle s)

/-- HS_POISON_LO (R268). -/
def execHsPoisonLo (h : SliceId) (s : State) : Host.Outcome State Fault Refusal :=
  .next (readPoison h.val s)

/-- STK_LAST_LO (R305). -/
def execStkLastLo (k : StackId) (s : State) : Host.Outcome State Fault Refusal :=
  .next (readLast k.val s)

/-- TRIP_CLEAR (R453). -/
def execTripClear (s : State) : Host.Outcome State Fault Refusal :=
  .next (tripClear s)

end Sys2Proof.Machine
end

