-- ==== Sys2Proof/Machine/Control.lean ====
section
/-!
DEFINITION. One meaning for each command: Hedgerow and the registers (R507–R530).
-/

namespace Sys2Proof.Machine

/-- READ (R513). -/
def execRead (r : Requester) (f : HFrame) (s : State) : Host.Outcome State Fault Refusal :=
  .next (serveFrame 0x01 r f [] true s)

/-- WRITE (R509). -/
def execWrite (r : Requester) (f : HFrame) (stored : Bool) (s : State) : Host.Outcome State Fault Refusal :=
  .next (serveFrame 0x02 r f [] stored s)

/-- READ_SEG (R514). -/
def execReadSeg (r : Requester) (f : HFrame) (s : State) : Host.Outcome State Fault Refusal :=
  .next (serveFrame 0x03 r f [] true s)

/-- DICTIONARY_CLEAR (R507). -/
def execDictionaryClear (r : Requester) (f : HFrame) (stored : Bool) (s : State) : Host.Outcome State Fault Refusal :=
  .next (serveFrame 0x04 r f [] stored s)

/-- OPEN (R513). -/
def execOpenSession (r : Requester) (f : HFrame) (src : List Byte) (s : State) : Host.Outcome State Fault Refusal :=
  .next (serveFrame 0x10 r f src true s)

/-- AUTH (R516). -/
def execAuth (r : Requester) (f : HFrame) (s : State) : Host.Outcome State Fault Refusal :=
  .next (serveFrame 0x11 r f [] true s)

/-- CLOSE (R513). -/
def execClose (r : Requester) (f : HFrame) (s : State) : Host.Outcome State Fault Refusal :=
  .next (serveFrame 0x12 r f [] true s)

/-- SEGMENT_SNAPSHOT_EXPIRY (R514). -/
def execSegmentSnapshotExpiry (r : Requester) (s : State) : Host.Outcome State Fault Refusal :=
  .next (segmentExpiry r s)

/-- SESSION_IDLE_TIMEOUT (R516). -/
def execSessionIdleTimeout (n : Nat) (s : State) : Host.Outcome State Fault Refusal :=
  .next (idleTimeout n s)

/-- MBX_DOORBELL (R517). -/
def execMbxDoorbell (f : Fn) (v : BitVec 32) (s : State) : Host.Outcome State Fault Refusal :=
  .next (regWrite f (match f with | .pf => 0x18F000 | .vf _ => 0x20000) v.toNat s)

/-- SWEEP (R525). -/
def execSweep (s : State) : Host.Outcome State Fault Refusal :=
  .next (sweep s)

/-- COMMIT (R526). -/
def execCommit (v : BitVec 32) (s : State) : Host.Outcome State Fault Refusal :=
  .next (regWrite .pf 0x18E008 v.toNat s)

/-- SEAL_REF (R526). -/
def execSealRef (v : BitVec 32) (s : State) : Host.Outcome State Fault Refusal :=
  .next (regWrite .pf 0x18E010 v.toNat s)

/-- ALIAS_WRITE (R528). -/
def execAliasWrite (addr : Nat) (v : BitVec 32) (s : State) : Host.Outcome State Fault Refusal :=
  .next (aliasWrite addr v.toNat s)

/-- REGISTER_WRITE (R523). -/
def execRegisterWrite (f : Fn) (addr : Nat) (v : BitVec 32) (s : State) : Host.Outcome State Fault Refusal :=
  .next (regWrite f addr v.toNat s)

/-- MCTP_CONTROL_MESSAGE (R516). -/
def execMctpControlMessage (cmd : McmpCmd) (s : State) : Host.Outcome State Fault Refusal :=
  .next (mctpControl cmd s)

/-- ENTDAA (R516). -/
def execEntdaa (addr : BitVec 7) (s : State) : Host.Outcome State Fault Refusal :=
  .next (entdaa addr s)

end Sys2Proof.Machine
end

