-- ==== Sys2Proof/Machine/Bringup.lean ====
section
/-!
DEFINITION. One meaning for each command: bring-up, firmware, pins (R531–R571).
-/

namespace Sys2Proof.Machine

/-- BOOT (R532). -/
def execBoot (s : State) : Host.Outcome State Fault Refusal :=
  .next (bootUp s)

/-- CHUNK (R534). -/
def execChunk (data : List Byte) (s : State) : Host.Outcome State Fault Refusal :=
  .next (chunk data s)

/-- ERASE_INACTIVE_SLOT (R534). -/
def execEraseInactiveSlot (ok : Bool) (s : State) : Host.Outcome State Fault Refusal :=
  .next (eraseSlot ok s)

/-- CHECK_AND_ACTIVATE (R534). -/
def execCheckAndActivate (s : State) : Host.Outcome State Fault Refusal :=
  .next (checkSlot s)

/-- RAISE_MINIMUM (R534). -/
def execRaiseMinimum (s : State) : Host.Outcome State Fault Refusal :=
  .next (raiseMinimum s)

/-- MAIN_ADMISSION (R536). -/
def execMainAdmission (s : State) : Host.Outcome State Fault Refusal :=
  .next (mainAdmission s)

/-- MAIN_POWER_LOST (R536). -/
def execMainPowerLost (s : State) : Host.Outcome State Fault Refusal :=
  .next (mainLost s)

/-- START_SEQUENCE (R537). -/
def execStartSequence (x : StartResults) (s : State) : Host.Outcome State Fault Refusal :=
  .next (startSequence x s)

/-- DEVICE_READY (R535). -/
def execDeviceReady (s : State) : Host.Outcome State Fault Refusal :=
  .next (deviceReady s)

/-- PCIE_LINK_UP (R539). -/
def execPcieLinkUp (s : State) : Host.Outcome State Fault Refusal :=
  .next (linkUp s)

/-- TRANSITION (R543). -/
def execTransition (r : Requester) (c : List Byte) (s : State) : Host.Outcome State Fault Refusal :=
  .next (transition (clientNo r) c s)

/-- MOD_RESET_N (R553). -/
def execModResetN (lowNs : Nat) (taken : Bool) (s : State) : Host.Outcome State Fault Refusal :=
  .next (modResetN lowNs taken s)

/-- PERST_N (R554). -/
def execPerstN (level : Bool) (s : State) : Host.Outcome State Fault Refusal :=
  .next (perstN level s)

/-- REFCLK_LOST (R560). -/
def execRefclkLost (s : State) : Host.Outcome State Fault Refusal :=
  .next (refclkLost s)

/-- REFCLK_RETURN (R560). -/
def execRefclkReturn (s : State) : Host.Outcome State Fault Refusal :=
  .next (refclkReturn s)

/-- REFCLK_HOLDOVER_EXPIRY (R560). -/
def execRefclkHoldoverExpiry (s : State) : Host.Outcome State Fault Refusal :=
  .next (refclkExpiry s)

/-- STANDBY_LOST (R557). -/
def execStandbyLost (s : State) : Host.Outcome State Fault Refusal :=
  .next (standbyLost s)

/-- TRST_N (R566). -/
def execTrstN (s : State) : Host.Outcome State Fault Refusal :=
  .next (trstN s)

/-- BYPASS (R566). -/
def execBypass (_code : BitVec 8) (s : State) : Host.Outcome State Fault Refusal :=
  .next (loadBypass s)

/-- IDCODE (R566). -/
def execIdcode (s : State) : Host.Outcome State Fault Refusal :=
  .next (idcode s)

/-- SAMPLE_PRELOAD (R566). -/
def execSamplePreload (s : State) : Host.Outcome State Fault Refusal :=
  .next (scan (loadTap 2 s))

/-- EXTEST (R568). -/
def execExtest (s : State) : Host.Outcome State Fault Refusal :=
  .next (scan (takePins 3 s))

/-- CLAMP (R568). -/
def execClamp (s : State) : Host.Outcome State Fault Refusal :=
  .next (takePins 4 s)

/-- HIGHZ (R568). -/
def execHighz (s : State) : Host.Outcome State Fault Refusal :=
  .next (takePins 5 s)

/-- EXTEST_PULSE (R568). -/
def execExtestPulse (s : State) : Host.Outcome State Fault Refusal :=
  .next (scan (takePins 6 s))

/-- EXTEST_TRAIN (R568). -/
def execExtestTrain (s : State) : Host.Outcome State Fault Refusal :=
  .next (scan (takePins 7 s))

/-- VENDOR_INSTRUCTION (R566). -/
def execVendorInstruction (code : BitVec 8) (s : State) : Host.Outcome State Fault Refusal :=
  .next (vendorTap code s)

/-- BOUNDARY_SCAN_END (R568). -/
def execBoundaryScanEnd (s : State) : Host.Outcome State Fault Refusal :=
  .next (scanEnd s)

/-- PCIE_LINK_DOWN (R535). -/
def execPcieLinkDown (s : State) : Host.Outcome State Fault Refusal :=
  .next (linkLost s)

/-- REFCLK_RETURNED_10_MS (R560). -/
def execRefclkReturned10Ms (s : State) : Host.Outcome State Fault Refusal :=
  .next (refclkSteady s)

/-- ROUTER_FAILURE (R49). -/
def execRouterFailure (t : TileId) (twig : Bool) (s : State) : Host.Outcome State Fault Refusal :=
  .next (routerFailure t.val twig s)

end Sys2Proof.Machine
end

