-- ==== Sys2Proof/Machine/Dispatch.lean ====
section
/-!
DEFINITION. The effect of every command on everything but the queue: one arm, one meaning.
-/

namespace Sys2Proof.Machine

def exec (i : Instr) (s : State) : Host.Outcome State Fault Refusal :=
  match i with
  | .launch p img => Sys2Proof.Machine.execLaunch p img s
  | .firstBundle p => Sys2Proof.Machine.execFirstBundle p s
  | .tilePrune t f v => Sys2Proof.Machine.execTilePrune t f v s
  | .prune x => Sys2Proof.Machine.execPrune x s
  | .pruneFrameF t => Sys2Proof.Machine.execPruneFrameF t s
  | .pruneWritebackDone t => Sys2Proof.Machine.execPruneWritebackDone t s
  | .pruneWritebackTimeout t => Sys2Proof.Machine.execPruneWritebackTimeout t s
  | .bankWaitLimit t bank r => Sys2Proof.Machine.execBankWaitLimit t bank r s
  | .mma t w e => Sys2Proof.Machine.execMma t w e s
  | .mmaSa t w e => Sys2Proof.Machine.execMmaSa t w e s
  | .mmaSb t w e => Sys2Proof.Machine.execMmaSb t w e s
  | .clear t w e => Sys2Proof.Machine.execClear t w e s
  | .accumulationComplete t => Sys2Proof.Machine.execAccumulationComplete t s
  | .rampHoldEnd t => Sys2Proof.Machine.execRampHoldEnd t s
  | .add site => Sys2Proof.Machine.execAdd site s
  | .sub site => Sys2Proof.Machine.execSub site s
  | .mul site => Sys2Proof.Machine.execMul site s
  | .fma site => Sys2Proof.Machine.execFma site s
  | .min site => Sys2Proof.Machine.execMin site s
  | .max site => Sys2Proof.Machine.execMax site s
  | .abs site => Sys2Proof.Machine.execAbs site s
  | .neg site => Sys2Proof.Machine.execNeg site s
  | .cvt site => Sys2Proof.Machine.execCvt site s
  | .cmpeq site => Sys2Proof.Machine.execCmpeq site s
  | .cmplt site => Sys2Proof.Machine.execCmplt site s
  | .cmple site => Sys2Proof.Machine.execCmple site s
  | .sel site => Sys2Proof.Machine.execSel site s
  | .rcp site => Sys2Proof.Machine.execRcp site s
  | .rsqrt site => Sys2Proof.Machine.execRsqrt site s
  | .exp2 site => Sys2Proof.Machine.execExp2 site s
  | .log2 site => Sys2Proof.Machine.execLog2 site s
  | .sqrt site => Sys2Proof.Machine.execSqrt site s
  | .andV site => Sys2Proof.Machine.execAndV site s
  | .orV site => Sys2Proof.Machine.execOrV site s
  | .xorV site => Sys2Proof.Machine.execXorV site s
  | .shl site => Sys2Proof.Machine.execShl site s
  | .shr site => Sys2Proof.Machine.execShr site s
  | .sra site => Sys2Proof.Machine.execSra site s
  | .mulhi site => Sys2Proof.Machine.execMulhi site s
  | .clz site => Sys2Proof.Machine.execClz site s
  | .popc site => Sys2Proof.Machine.execPopc site s
  | .floor site => Sys2Proof.Machine.execFloor site s
  | .rint site => Sys2Proof.Machine.execRint site s
  | .readout t w e => Sys2Proof.Machine.execReadout t w e s
  | .importRaw t w e => Sys2Proof.Machine.execImportRaw t w e s
  | .shellStart t w e => Sys2Proof.Machine.execShellStart t w e s
  | .stateCopy t w e => Sys2Proof.Machine.execStateCopy t w e s
  | .send t w e => Sys2Proof.Machine.execSend t w e s
  | .recv t w e => Sys2Proof.Machine.execRecv t w e s
  | .nsend t w e => Sys2Proof.Machine.execNsend t w e s
  | .nrecv t w e => Sys2Proof.Machine.execNrecv t w e s
  | .move t w e => Sys2Proof.Machine.execMove t w e s
  | .loop t w e => Sys2Proof.Machine.execLoop t w e s
  | .brc t w e => Sys2Proof.Machine.execBrc t w e s
  | .wait t w e => Sys2Proof.Machine.execWait t w e s
  | .waitTimeout t g => Sys2Proof.Machine.execWaitTimeout t g s
  | .sequencerStallTimeout t => Sys2Proof.Machine.execSequencerStallTimeout t s
  | .grant t w e => Sys2Proof.Machine.execGrant t w e s
  | .grantEnd t => Sys2Proof.Machine.execGrantEnd t s
  | .mark t w e => Sys2Proof.Machine.execMark t w e s
  | .epoch t w e => Sys2Proof.Machine.execEpoch t w e s
  | .addi t w e => Sys2Proof.Machine.execAddi t w e s
  | .setl t w e => Sys2Proof.Machine.execSetl t w e s
  | .env t w e => Sys2Proof.Machine.execEnv t w e s
  | .scope t w e => Sys2Proof.Machine.execScope t w e s
  | .phase t w e => Sys2Proof.Machine.execPhase t w e s
  | .phaseReload p => Sys2Proof.Machine.execPhaseReload p s
  | .endStream t w e => Sys2Proof.Machine.execEndStream t w e s
  | .jobClose p => Sys2Proof.Machine.execJobClose p s
  | .slotTableEntry t o link => Sys2Proof.Machine.execSlotTableEntry t o link s
  | .flitLanding t lane f => Sys2Proof.Machine.execFlitLanding t lane f s
  | .dynamicCycle t o link => Sys2Proof.Machine.execDynamicCycle t o link s
  | .swap x frame => Sys2Proof.Machine.execSwap x frame s
  | .swapFrame p => Sys2Proof.Machine.execSwapFrame p s
  | .tableWr x words => Sys2Proof.Machine.execTableWr x words s
  | .heartbeat t => Sys2Proof.Machine.execHeartbeat t s
  | .heartbeatMiss t => Sys2Proof.Machine.execHeartbeatMiss t s
  | .heartbeatProbeTimeout t => Sys2Proof.Machine.execHeartbeatProbeTimeout t s
  | .fence x => Sys2Proof.Machine.execFence x s
  | .fenceDone t => Sys2Proof.Machine.execFenceDone t s
  | .kill x => Sys2Proof.Machine.execKill x s
  | .start x frame => Sys2Proof.Machine.execStart x frame s
  | .regRd x off => Sys2Proof.Machine.execRegRd x off s
  | .regWr x off v => Sys2Proof.Machine.execRegWr x off v s
  | .regData t x => Sys2Proof.Machine.execRegData t x s
  | .event t k => Sys2Proof.Machine.execEvent t k s
  | .launchRec x r => Sys2Proof.Machine.execLaunchRec x r s
  | .snapReq d h hang => Sys2Proof.Machine.execSnapReq d h hang s
  | .snapData t words => Sys2Proof.Machine.execSnapData t words s
  | .counterSnapshot t => Sys2Proof.Machine.execCounterSnapshot t s
  | .groupResident t => Sys2Proof.Machine.execGroupResident t s
  | .promotion t => Sys2Proof.Machine.execPromotion t s
  | .nop t g w => Sys2Proof.Machine.execNop t g w s
  | .movi t g w => Sys2Proof.Machine.execMovi t g w s
  | .rdspec t g w => Sys2Proof.Machine.execRdspec t g w s
  | .setp t g w => Sys2Proof.Machine.execSetp t g w s
  | .plog t g w => Sys2Proof.Machine.execPlog t g w s
  | .vote t g w => Sys2Proof.Machine.execVote t g w s
  | .shfl t g w => Sys2Proof.Machine.execShfl t g w s
  | .lfold t g w => Sys2Proof.Machine.execLfold t g w s
  | .ld t g w => Sys2Proof.Machine.execLd t g w s
  | .st t g w => Sys2Proof.Machine.execSt t g w s
  | .atom t g w => Sys2Proof.Machine.execAtom t g w s
  | .atomn t g w => Sys2Proof.Machine.execAtomn t g w s
  | .ladd t g w => Sys2Proof.Machine.execLadd t g w s
  | .bar t g w => Sys2Proof.Machine.execBar t g w s
  | .waitac t g w => Sys2Proof.Machine.execWaitac t g w s
  | .rdac t g w => Sys2Proof.Machine.execRdac t g w s
  | .moveg t g w => Sys2Proof.Machine.execMoveg t g w s
  | .spawn t g w => Sys2Proof.Machine.execSpawn t g w s
  | .br t g w => Sys2Proof.Machine.execBr t g w s
  | .exit t g w => Sys2Proof.Machine.execExit t g w s
  | .gmma t g w => Sys2Proof.Machine.execGmma t g w s
  | .gmmaStart t g => Sys2Proof.Machine.execGmmaStart t g s
  | .gread t g w => Sys2Proof.Machine.execGread t g w s
  | .greadStart t g => Sys2Proof.Machine.execGreadStart t g s
  | .forwardProgressTimeout t g => Sys2Proof.Machine.execForwardProgressTimeout t g s
  | .jobKill p cause => Sys2Proof.Machine.execJobKill p cause s
  | .descriptorStart t m => Sys2Proof.Machine.execDescriptorStart t m s
  | .copy t m => Sys2Proof.Machine.execCopy t m s
  | .acSub t m => Sys2Proof.Machine.execAcSub t m s
  | .descriptorRetire t m => Sys2Proof.Machine.execDescriptorRetire t m s
  | .mw x => Sys2Proof.Machine.execMw x s
  | .mack x => Sys2Proof.Machine.execMack x s
  | .rangeLookup t va => Sys2Proof.Machine.execRangeLookup t va s
  | .gets h m => Sys2Proof.Machine.execGets h m s
  | .getm h m => Sys2Proof.Machine.execGetm h m s
  | .rdu h m => Sys2Proof.Machine.execRdu h m s
  | .wru h m => Sys2Proof.Machine.execWru h m s
  | .atomic h m => Sys2Proof.Machine.execAtomic h m s
  | .addToLine h m => Sys2Proof.Machine.execAddToLine h m s
  | .lineAddition h => Sys2Proof.Machine.execLineAddition h s
  | .discard h m => Sys2Proof.Machine.execDiscard h m s
  | .mrd h m => Sys2Proof.Machine.execMrd h m s
  | .dmw h m => Sys2Proof.Machine.execDmw h m s
  | .wb h m => Sys2Proof.Machine.execWb h m s
  | .cnt t m => Sys2Proof.Machine.execCnt t m s
  | .fwdS t m => Sys2Proof.Machine.execFwdS t m s
  | .fwdM t m => Sys2Proof.Machine.execFwdM t m s
  | .inv t m => Sys2Proof.Machine.execInv t m s
  | .recall t m => Sys2Proof.Machine.execRecall t m s
  | .ringInv d h m => Sys2Proof.Machine.execRingInv d h m s
  | .data t m => Sys2Proof.Machine.execData t m s
  | .ack t mv m => Sys2Proof.Machine.execAck t mv m s
  | .fwdAck h m => Sys2Proof.Machine.execFwdAck h m s
  | .invAck r m => Sys2Proof.Machine.execInvAck r m s
  | .notPresent r m => Sys2Proof.Machine.execNotPresent r m s
  | .wbInFlight h m => Sys2Proof.Machine.execWbInFlight h m s
  | .atomr t m => Sys2Proof.Machine.execAtomr t m s
  | .ringAck h d m => Sys2Proof.Machine.execRingAck h d m s
  | .homeTimeout h line => Sys2Proof.Machine.execHomeTimeout h line s
  | .xlAdd p v => Sys2Proof.Machine.execXlAdd p v s
  | .xlWithdraw p v => Sys2Proof.Machine.execXlWithdraw p v s
  | .xlRead p v => Sys2Proof.Machine.execXlRead p v s
  | .winAdd p v => Sys2Proof.Machine.execWinAdd p v s
  | .winWithdraw p v => Sys2Proof.Machine.execWinWithdraw p v s
  | .winCfg p v => Sys2Proof.Machine.execWinCfg p v s
  | .winRead p v => Sys2Proof.Machine.execWinRead p v s
  | .withdrawEffect p => Sys2Proof.Machine.execWithdrawEffect p s
  | .drainReport p t => Sys2Proof.Machine.execDrainReport p t s
  | .drainAbandoned p => Sys2Proof.Machine.execDrainAbandoned p s
  | .windowWrite n c => Sys2Proof.Machine.execWindowWrite n c s
  | .dlogCtrl p v => Sys2Proof.Machine.execDlogCtrl p v s
  | .dlogClear p v => Sys2Proof.Machine.execDlogClear p v s
  | .temperatureReadout k temp => Sys2Proof.Machine.execTemperatureReadout k temp s
  | .refresh k => Sys2Proof.Machine.execRefresh k s
  | .rfm k => Sys2Proof.Machine.execRfm k s
  | .patrol pa => Sys2Proof.Machine.execPatrol pa s
  | .stackFailed k why => Sys2Proof.Machine.execStackFailed k why s
  | .stackTemperatureWait k => Sys2Proof.Machine.execStackTemperatureWait k s
  | .pageRead ext page o => Sys2Proof.Machine.execPageRead ext page o s
  | .pageWrite ext page programFailed => Sys2Proof.Machine.execPageWrite ext page programFailed s
  | .extentCreate c => Sys2Proof.Machine.execExtentCreate c s
  | .extentDelete c => Sys2Proof.Machine.execExtentDelete c s
  | .attach c => Sys2Proof.Machine.execAttach c s
  | .readDisturbRefresh b => Sys2Proof.Machine.execReadDisturbRefresh b s
  | .retentionRefresh b => Sys2Proof.Machine.execRetentionRefresh b s
  | .staticWearLevelling ch => Sys2Proof.Machine.execStaticWearLevelling ch s
  | .dieFailure ch die => Sys2Proof.Machine.execDieFailure ch die s
  | .fold programFailed => Sys2Proof.Machine.execFold programFailed s
  | .garbageCollection ch => Sys2Proof.Machine.execGarbageCollection ch s
  | .retentionScan blocks => Sys2Proof.Machine.execRetentionScan blocks s
  | .channelTraining ch ok => Sys2Proof.Machine.execChannelTraining ch ok s
  | .seedbankReady => Sys2Proof.Machine.execSeedbankReady s
  | .park id => Sys2Proof.Machine.execPark id s
  | .sessionParked id => Sys2Proof.Machine.execSessionParked id s
  | .resume id => Sys2Proof.Machine.execResume id s
  | .resumeComplete id => Sys2Proof.Machine.execResumeComplete id s
  | .snapshotBudget => Sys2Proof.Machine.execSnapshotBudget s
  | .unstable l b => Sys2Proof.Machine.execUnstable l b s
  | .bundleClockFailure l b dir => Sys2Proof.Machine.execBundleClockFailure l b dir s
  | .cell n => Sys2Proof.Machine.execCell n s
  | .cellArrival n c uncorrectable => Sys2Proof.Machine.execCellArrival n c uncorrectable s
  | .release n => Sys2Proof.Machine.execRelease n s
  | .tick n b => Sys2Proof.Machine.execTick n b s
  | .alignReq n b => Sys2Proof.Machine.execAlignReq n b s
  | .alignRsp n b => Sys2Proof.Machine.execAlignRsp n b s
  | .linkId n b => Sys2Proof.Machine.execLinkId n b s
  | .freq n b => Sys2Proof.Machine.execFreq n b s
  | .credit n b => Sys2Proof.Machine.execCredit n b s
  | .fill n b => Sys2Proof.Machine.execFill n b s
  | .alignmentSlipDone n => Sys2Proof.Machine.execAlignmentSlipDone n s
  | .parentLost => Sys2Proof.Machine.execParentLost s
  | .holdoverEnd => Sys2Proof.Machine.execHoldoverEnd s
  | .peerLost n => Sys2Proof.Machine.execPeerLost n s
  | .linkDown n lane => Sys2Proof.Machine.execLinkDown n lane s
  | .lockstepLaunch p t0 tag img => Sys2Proof.Machine.execLockstepLaunch p t0 tag img s
  | .windowCell n c => Sys2Proof.Machine.execWindowCell n c s
  | .wantedPoint c => Sys2Proof.Machine.execWantedPoint c s
  | .frame n bytes pcsError us => Sys2Proof.Machine.execFrame n bytes pcsError us s
  | .request m => Sys2Proof.Machine.execRequest m s
  | .continueReq m => Sys2Proof.Machine.execContinueReq m s
  | .cancel m => Sys2Proof.Machine.execCancel m s
  | .ping m => Sys2Proof.Machine.execPing m s
  | .inputTimeout p reqId => Sys2Proof.Machine.execInputTimeout p reqId s
  | .create p => Sys2Proof.Machine.execCreate p s
  | .delete p => Sys2Proof.Machine.execDelete p s
  | .reset p => Sys2Proof.Machine.execReset p s
  | .sessionExtent p ext => Sys2Proof.Machine.execSessionExtent p ext s
  | .sessionSelect r p v => Sys2Proof.Machine.execSessionSelect r p v s
  | .qpCtrl p q v => Sys2Proof.Machine.execQpCtrl p q v s
  | .qpSqTail p q v => Sys2Proof.Machine.execQpSqTail p q v s
  | .qpRqHead p q v => Sys2Proof.Machine.execQpRqHead p q v s
  | .submissionEntry p q entry msg us => Sys2Proof.Machine.execSubmissionEntry p q entry msg us s
  | .stepBoundary p us => Sys2Proof.Machine.execStepBoundary p us s
  | .stepOutput p us => Sys2Proof.Machine.execStepOutput p us s
  | .sessionCommand p cmd => Sys2Proof.Machine.execSessionCommand p cmd s
  | .resumeConfirmationTimeout p id => Sys2Proof.Machine.execResumeConfirmationTimeout p id s
  | .estimationInterval x => Sys2Proof.Machine.execEstimationInterval x s
  | .epochBoundary x => Sys2Proof.Machine.execEpochBoundary x s
  | .pointDecision => Sys2Proof.Machine.execPointDecision s
  | .droopDetection region => Sys2Proof.Machine.execDroopDetection region s
  | .stretchEvent => Sys2Proof.Machine.execStretchEvent s
  | .stretchEventEnd => Sys2Proof.Machine.execStretchEventEnd s
  | .stepWatchdog p => Sys2Proof.Machine.execStepWatchdog p s
  | .hubWatchdog d => Sys2Proof.Machine.execHubWatchdog d s
  | .applicationCoreWatchdog => Sys2Proof.Machine.execApplicationCoreWatchdog s
  | .managementWatchdog => Sys2Proof.Machine.execManagementWatchdog s
  | .escalation p => Sys2Proof.Machine.execEscalation p s
  | .deviceReset cause => Sys2Proof.Machine.execDeviceReset cause s
  | .moduleReset cause => Sys2Proof.Machine.execModuleReset cause s
  | .clearWithdrawn => Sys2Proof.Machine.execClearWithdrawn s
  | .enterWithdrawn => Sys2Proof.Machine.execEnterWithdrawn s
  | .jobKillCommand p => Sys2Proof.Machine.execJobKillCommand p s
  | .holdFlagClear p => Sys2Proof.Machine.execHoldFlagClear p s
  | .counterSweep r p => Sys2Proof.Machine.execCounterSweep r p s
  | .acValueLo f t => Sys2Proof.Machine.execAcValueLo f t s
  | .cntLo f t => Sys2Proof.Machine.execCntLo f t s
  | .espCycleLo => Sys2Proof.Machine.execEspCycleLo s
  | .hsPoisonLo h => Sys2Proof.Machine.execHsPoisonLo h s
  | .stkLastLo k => Sys2Proof.Machine.execStkLastLo k s
  | .read r f => Sys2Proof.Machine.execRead r f s
  | .write r f stored => Sys2Proof.Machine.execWrite r f stored s
  | .readSeg r f => Sys2Proof.Machine.execReadSeg r f s
  | .dictionaryClear r f stored => Sys2Proof.Machine.execDictionaryClear r f stored s
  | .openSession r f src => Sys2Proof.Machine.execOpenSession r f src s
  | .auth r f => Sys2Proof.Machine.execAuth r f s
  | .close r f => Sys2Proof.Machine.execClose r f s
  | .segmentSnapshotExpiry r => Sys2Proof.Machine.execSegmentSnapshotExpiry r s
  | .sessionIdleTimeout n => Sys2Proof.Machine.execSessionIdleTimeout n s
  | .mbxDoorbell f v => Sys2Proof.Machine.execMbxDoorbell f v s
  | .sweep => Sys2Proof.Machine.execSweep s
  | .commit v => Sys2Proof.Machine.execCommit v s
  | .sealRef v => Sys2Proof.Machine.execSealRef v s
  | .aliasWrite addr v => Sys2Proof.Machine.execAliasWrite addr v s
  | .registerWrite f addr v => Sys2Proof.Machine.execRegisterWrite f addr v s
  | .boot => Sys2Proof.Machine.execBoot s
  | .chunk data => Sys2Proof.Machine.execChunk data s
  | .eraseInactiveSlot ok => Sys2Proof.Machine.execEraseInactiveSlot ok s
  | .checkAndActivate => Sys2Proof.Machine.execCheckAndActivate s
  | .raiseMinimum => Sys2Proof.Machine.execRaiseMinimum s
  | .mainAdmission => Sys2Proof.Machine.execMainAdmission s
  | .mainPowerLost => Sys2Proof.Machine.execMainPowerLost s
  | .startSequence x => Sys2Proof.Machine.execStartSequence x s
  | .deviceReady => Sys2Proof.Machine.execDeviceReady s
  | .pcieLinkUp => Sys2Proof.Machine.execPcieLinkUp s
  | .transition r c => Sys2Proof.Machine.execTransition r c s
  | .modResetN lowNs taken => Sys2Proof.Machine.execModResetN lowNs taken s
  | .perstN level => Sys2Proof.Machine.execPerstN level s
  | .refclkLost => Sys2Proof.Machine.execRefclkLost s
  | .refclkReturn => Sys2Proof.Machine.execRefclkReturn s
  | .refclkHoldoverExpiry => Sys2Proof.Machine.execRefclkHoldoverExpiry s
  | .standbyLost => Sys2Proof.Machine.execStandbyLost s
  | .trstN => Sys2Proof.Machine.execTrstN s
  | .bypass code => Sys2Proof.Machine.execBypass code s
  | .idcode => Sys2Proof.Machine.execIdcode s
  | .samplePreload => Sys2Proof.Machine.execSamplePreload s
  | .extest => Sys2Proof.Machine.execExtest s
  | .clamp => Sys2Proof.Machine.execClamp s
  | .highz => Sys2Proof.Machine.execHighz s
  | .extestPulse => Sys2Proof.Machine.execExtestPulse s
  | .extestTrain => Sys2Proof.Machine.execExtestTrain s
  | .vendorInstruction code => Sys2Proof.Machine.execVendorInstruction code s
  | .boundaryScanEnd => Sys2Proof.Machine.execBoundaryScanEnd s
  | .lanesLock n => Sys2Proof.Machine.execLanesLock n s
  | .pcieLinkDown => Sys2Proof.Machine.execPcieLinkDown s
  | .tripClear => Sys2Proof.Machine.execTripClear s
  | .refclkReturned10Ms => Sys2Proof.Machine.execRefclkReturned10Ms s
  | .stackRetraining k cleared => Sys2Proof.Machine.execStackRetraining k cleared s
  | .routerFailure t twig => Sys2Proof.Machine.execRouterFailure t twig s
  | .mctpControlMessage cmd => Sys2Proof.Machine.execMctpControlMessage cmd s
  | .entdaa addr => Sys2Proof.Machine.execEntdaa addr s
  | .pause t idle => Sys2Proof.Machine.execPause t idle s

end Sys2Proof.Machine
end

