-- ==== Sys2Proof/Machine/Step.lean ====
section
/-!
DEFINITION. One step: the command at the front of the queue has its effect; with no command waiting, one cycle of the
device clock passes, or a µs while it stands, and the firmware serves the mailbox frames that wait for it.
-/

namespace Sys2Proof.Machine

/-- With no command waiting, a cycle of the compute clock passes; while that clock stands, a µs of the standby clock. DESIGN CHOICE (log entry 2): the table
has no row for a tick. -/
def idle (s : State) : State := serveMailboxes (if clockOn s then advanceTo s (s.cycle + 1) else atUs s (s.us + 1))

/-- One step. -/
def step (s : State) : Host.Outcome State Fault Refusal :=
  match s.pending with
  | [] => .next (idle s)
  | i :: rest => exec i { s with pending := rest }

/-- The state with the command that a word spells in front of its queue; no word spells one. -/
def State.withFetchWord (s : State) (nbits w : Nat) : State :=
  match decodeTableWord nbits w with
  | some i => { s with pending := i :: s.pending }
  | none => s

end Sys2Proof.Machine
end

