-- ==== Sys2Proof/Safety.lean ====
section
/-!
DEFINITION. What counts as a safe run: every step answers a next state. And the terms that claims are stated in: a command
completes with an effect, a command changes one part of the state only, a tile is ready for a bundle.
-/

namespace Sys2Proof.Machine

/-- The step goes on. -/
def Goes (o : Host.Outcome State Fault Refusal) : Prop := ∃ t, o = .next t

/-- The command answers a next state, of which `P` holds. -/
def Completes (c : Instr) (s : State) (P : State → Prop) : Prop := ∃ u, exec c s = .next u ∧ P u

/-! ### The invariant -/

/-- The tiles, device memory and the Seedbank stand in canonical form: indices strictly rising, and none that holds what an unlisted
one holds. -/
def Inv (s : State) : Prop := fmWf s.tile0 s.tiles = true ∧ Memory.wf s.dm.mem = true ∧ Memory.wf s.seed.mem = true

/-! ### Frames -/

/-- Nothing but tile `t` differs. -/
def OnlyTile (t : Nat) (s u : State) : Prop := u = { s with tiles := u.tiles } ∧ ∀ j, j ≠ t → tileAt u j = tileAt s j

/-- Nothing but tiles of the list differs. -/
def OnlyTiles (ts : List Nat) (s u : State) : Prop := u = { s with tiles := u.tiles } ∧ ∀ j, j ∉ ts → tileAt u j = tileAt s j

/-- Nothing but partition `p`'s record differs. -/
def OnlyPart (p : Nat) (s u : State) : Prop := u = { s with parts := u.parts } ∧ ∀ j, j ≠ p → partAt u j = partAt s j

/-- Nothing but partition `p`'s translation block differs. -/
def OnlyXl (p : Nat) (s u : State) : Prop := u = { s with xl := u.xl } ∧ ∀ j, j ≠ p → xlAt u j = xlAt s j

/-- A tile but for its sequencer, its counters and trace, and its units is as before. -/
def TileBut (x y : Tile) : Prop := y = { x with seq := y.seq, cnt := y.cnt, units := y.units }

/-! ### Time and the host -/

/-- The compute clock runs and tiles stand in canonical form, and nothing is on its way on a link, due in a translation block or a slot table,
or waits at a home slice or a Coppice port: the passage of time is that of the tiles alone. -/
def Quiet (s : State) : Prop :=
  clockOn s = true ∧ fmWf s.tile0 s.tiles = true ∧ s.wires = [] ∧ s.xl = [] ∧ s.esp.swaps = [] ∧ busySlices s = [] ∧ portsBusy s = false

/-- A tile but for what time alone may have it report and send: its trace and counters, its router's buffers, its reports. -/
def TileRan (x y : Tile) : Prop := y = { x with cnt := y.cnt, router := y.router, reports := y.reports }

/-- The host reaches the registers: the PCIe link is up, the device is ready and not in reset (R520, R522). -/
def LinkUp (s : State) : Prop := pcieUp s = true ∧ readyBit s 10 = true ∧ s.rcv.resetting = false

/-- A kill of partition `p`'s job takes place at once and is not followed by a relaunch: jobs are not sampled, nothing waits for a
snapshot, and the relaunch limit 0x9020 is 0 (R464, R469, R475). -/
def KillsPlainly (s : State) (p : Nat) : Prop := sampled s 1 = false ∧ s.rcv.after = none ∧ dictNat s 0x9020 (p + 1) 3 = 0

/-- No two ranges of a translation block overlap in virtual space (R271, R277). -/
def RangesApart (x : Xl) : Prop :=
  ∀ i j, i ≠ j → fmGet 0 x.table i ≠ 0 → fmGet 0 x.table j ≠ 0 → rOverlap (fmGet 0 x.table i) (fmGet 0 x.table j) = false

/-! ### Twig -/

/-- The header of a message of type `typ` and class `cls` that the hub of die `d` sends to tile `t` of its die (R196). -/
def HubTo (h : BitVec 32) (d : DieId) (t : TileId) (typ cls : Nat) : Prop :=
  twType h = typ ∧ twClass h = cls ∧ twDest h = t.val ∧ dieOf t.val = d.val

/-- The state in which that message has come to its tile: its cycles have passed, and its words the nodes on the way (R194, R200). -/
def hubState (h : BitVec 32) (t : TileId) (s : State) : State := twigArrive (twLen h) [t.val] (fun _ s => s) s

/-- Report `r` of tile `t` has gone to the hub: the tile no longer owes it, and of other tiles nothing but counters of the nodes it passed
differs. -/
def Reported (s u : State) (t : Nat) (r : Report) : Prop :=
  tileAt u t = { tileAt s t with reports := (tileAt s t).reports.erase r } ∧
  ∀ j, j ≠ t → tileAt u j = { tileAt s j with cnt := (tileAt u j).cnt }

/-! ### Banks -/

/-- Requester `k` (see `bankTaken`) has the banks of [a, a + n) of tile `t` in this cycle: nothing of a higher priority takes one (R27). -/
def BanksFree (s : State) (t k a n : Nat) : Prop := bankTaken s.cycle k (banksOf a n) (tileAt s t) = false

/-! ### Bundles -/

/-- Tile `t` works for a job, its stream issues, no bundle waits and no slot is gathered, and the next bundle may issue in this cycle, from
the beat fetched last or from the loop buffer (R26); no swap of its counters is still to be written out (R497). -/
def ReadyToIssue (s : State) (t : Nat) : Prop :=
  let x := tileAt s t
  computing x = true ∧ x.seq.stream = .issuing ∧ x.seq.slots = [] ∧ x.seq.queue = [] ∧ x.seq.hold = .none ∧
  x.seq.nextIssue ≤ s.cycle ∧ x.seq.epochWait = false ∧ x.prune.all (fun p => s.cycle < p.1) = true ∧
  (x.seq.beat = x.seq.pc / 64 + 1 ∨ inLoopBuffer x.seq = true) ∧ x.cnt.recs = []

/-- A bundle of the one slot `k` with word `w` is legal (R92), and nothing holds it (R120, R38, R110, R112). -/
def SlotIssues (k : SlotKind) (w : Nat) (s : State) (t : Nat) : Prop :=
  slotLegal (tileAt s t).nbr.getLsbD k w = true ∧ bundleHold s.cycle (tileAt s t) [⟨k, w⟩] = .none ∧
  issueOk s.cycle (tileAt s t) [⟨k, w⟩] = true

/-- The vector functions with their numbers (R140, R141). -/
def vecRows (x : VecSite) : List (Instr × Nat) :=
  [(.add x, 1), (.sub x, 2), (.mul x, 3), (.fma x, 4), (.min x, 5), (.max x, 6), (.abs x, 7), (.neg x, 8), (.cvt x, 9), (.cmpeq x, 10),
   (.cmplt x, 11), (.cmple x, 12), (.sel x, 13), (.rcp x, 14), (.rsqrt x, 15), (.exp2 x, 16), (.log2 x, 17), (.sqrt x, 18),
   (.andV x, 19), (.orV x, 20), (.xorV x, 21), (.shl x, 22), (.shr x, 23), (.sra x, 24), (.mulhi x, 25), (.clz x, 26),
   (.popc x, 27), (.floor x, 28), (.rint x, 29)]

/-! ### Thread groups -/

/-- Group `g` of tile `t` is `x`, active, and instruction `w` of it issues in this cycle (R135): it is the group's turn, every register
is available and the unit is free; it stands below no reconvergence point. -/
def GroupReady (s : State) (t g w : Nat) (x : Group) : Prop :=
  (∃ slot from_, gxReady (tileAt s t) g = some (x, slot, from_)) ∧ gxPick s.cycle (tileAt s t) g w = some g ∧
  (∀ r, readyAt x r ≤ s.cycle) ∧ s.cycle < soon ∧ x.stack = []

/-- A tile but for its group engine and counters is as before. -/
def TileGroups (x y : Tile) : Prop := y = { x with ge := y.ge, cnt := y.cnt }

/-- Group `x` has gone on to its next instruction as `y`: of its architectural state nothing but the pointer differs. -/
def GroupOn (x y : Group) : Prop :=
  y = { x with pc := x.pc + 8, regs := y.regs, preds := y.preds, ready := y.ready, issueUs := y.issueUs, holding := false }

/-- Register `d` holds `v lane` in every executing lane (R138); every other register, and every lane guarded off, is as before. -/
def WritesReg (x y : Group) (w d : Nat) (v : Nat → Nat) : Prop :=
  GroupOn x y ∧ y.preds = x.preds ∧
  ∀ r lane, lane < 32 → gReg y r lane = if r = d ∧ (guardMask x w).testBit lane then v lane % 2 ^ 32 else gReg x r lane

/-- Predicate `p` holds `v lane` in every executing lane, but p0, which ignores writes (R134); every other predicate and every
register is as before. -/
def WritesPred (x y : Group) (w p : Nat) (v : Nat → Bool) : Prop :=
  GroupOn x y ∧ y.regs = x.regs ∧
  ∀ q lane, lane < 32 →
    (gPred y q).testBit lane = if q = p ∧ p ≠ 0 ∧ (guardMask x w).testBit lane then v lane else (gPred x q).testBit lane

/-! ### Homes -/

/-- Command `c` brings slice `h` a message and changes nothing else; in the cycle that follows the slice takes it, and `P` holds of the state
then (R249). -/
def Serves (c : Instr) (s : State) (h : Nat) (P : State → Prop) : Prop :=
  Completes c s (fun u => u = { s with slices := u.slices } ∧ (∀ j, j ≠ h → sliceAt u j = sliceAt s j) ∧
    sliceAt u h = { sliceAt s h with inbox := (sliceAt u h).inbox } ∧ P (serveSlice u h))

/-- Message `m` reaches home slice `h` with nothing else in flight or to be taken there; its partition owns the slice, and no transaction and
no request of its line is there (R239, R250). -/
def AtHome (s : State) (h : Nat) (m : CMsg) : Prop :=
  s.net = [] ∧ (sliceAt s h).inbox = [] ∧ ownsSlice s h m = true ∧ txnOn s h m.line = none ∧ (sliceAt s h).txns.length < 256 ∧
  (∀ q ∈ (sliceAt s h).queue, q.2.line ≠ m.line) ∧ m.tile.toNat < nTiles ∧ m.poison = false

/-- The slice holds `x` as the data of the line, which is not discarded, and no tile holds a copy. -/
def HomeHolds (s : State) (h line : Nat) (x : HLine) : Prop :=
  hlineAt s h line = some x ∧ x.discarded = false ∧ x.data.length = 128 ∧ dirAt s h line = dirReset

/-- The one transaction of slice `h` is `t`, on the line of `m`, and nothing waits; nothing else is in flight or to be taken. -/
def OneTxn (s : State) (h : Nat) (m : CMsg) (t : Txn) : Prop :=
  s.net = [] ∧ (sliceAt s h).inbox = [] ∧ ownsSlice s h m = true ∧ (sliceAt s h).txns = [t] ∧ t.msg.line = m.line ∧ t.msg.part = m.part ∧
  (sliceAt s h).queue = [] ∧ m.tile.toNat < nTiles ∧ t.msg.tile.toNat < nTiles ∧ m.poison = false ∧ t.msg.poison = false

/-- The L1 of tile `t` has the banks of the way that it holds the line in, or that a fill takes (R27). -/
def WayFree (s : State) (t line : Nat) : Prop :=
  ∀ w, fillWay (tileAt s t) line = some w → bankTaken s.cycle 8 (wayBanks (tileAt s t) line w) (tileAt s t) = false

end Sys2Proof.Machine
end

