-- ==== Sys2Proof/Certificates/Slice0/Obligations.lean ====
section
/-!
DEFINITION. The statements for the provers, from the numbered rules of the manual. Where one rests on a choice of the model, its docstring
names the log entry.
-/

open Sys2Proof
open Sys2Proof.Machine

/-- The command at the front of the queue is taken, and the step is its effect on the state with the queue's rest; on an empty
queue one cycle passes, which is the model's choice (log entry 2). The model's own readings and choices it rests on: log
entry 2. -/
def Obligations.StepTakesTheFrontCommand : Prop :=
  (∀ (c : Instr) (cs : List Instr) (s : State), s.pending = c :: cs → step s = exec c { s with pending := cs }) ∧
  (∀ s : State, s.pending = [] → step s = .next (idle s))

/-- Every command completes in every state: what the module turns away it turns away by an effect on its state (log entry 9). The
model's own readings and choices it rests on: log entry 9. -/
def Obligations.EveryCommandAnswersNextState : Prop := ∀ (c : Instr) (s : State), Goes (exec c s)

/-- R53, R201, R268, R281, R304, R305, R312, R399, R417, R461, R517, R519, R527, R566: the reset values that the manual gives, of
the tile, slice, stack, translation, Espalier, governor and device registers, the mailboxes, the ready bits, the partitions,
sessions and extents, and the TAP. The model's own readings and choices it rests on: log entry 3. -/
def Obligations.ResetLeavesSpecValues : Prop :=
  let s := State.reset
  s.pending = [] ∧ s.cycle = 0 ∧ s.point = 7 ∧
  (∀ t, (tileAt s t).regs =
    { part := 0, partValid := false, splitNext := 0, splitCur := 0, twigOk := true, routerOk := true, state := .off, glCur := 0,
      glNext := 0, acSel := 0, acHi := 0, mflags := 0, faultOp := 0, faultCode := 0, moverErr := 0 }) ∧
  (∀ h, let x := sliceAt s h
    x.valid = false ∧ x.part = 0 ∧ x.ready = false ∧ x.timeout = false ∧ x.poisonFill = false ∧ x.late = false ∧ x.poisonLine = 0) ∧
  (∀ k, let x := stackAt s k
    x.state = .off ∧ x.ref = 3 ∧ x.temp = 0 ∧ x.ce = 0 ∧ x.ue = 0 ∧ x.last = 0 ∧ x.reason = 4) ∧
  (∀ p, let x := xlAt s p
    x.entry = 0 ∧ x.busy = false ∧ x.done = false ∧ x.overrun = false ∧ x.result = 0 ∧ x.refused = 0 ∧ x.dlogEnable = false ∧
    x.dlogOverflow = false ∧ ∀ i, fmGet 0 x.table i = 0) ∧
  s.esp.misroute = 0 ∧ s.esp.hubOk = 0 ∧ s.esp.trained = false ∧
  s.gov.event = 0 ∧ s.gov.avg = 6000 ∧ s.gov.est = 0 ∧ s.gov.thermal = false ∧ s.gov.group = false ∧ (∀ d, gainOf s.gov d = 65536) ∧
  s.dev.event = 0 ∧ s.dev.enable = false ∧ s.dev.mismatch = false ∧ s.dev.stale = true ∧ s.dev.armed = false ∧ s.dev.ref = 0 ∧
  s.dev.last = 0 ∧ s.dev.sweeps = 0 ∧
  (∀ n, mbxAt s n = ⟨false, false, false, []⟩) ∧ (∀ n, readyBit s n = false) ∧
  (∀ p, (partAt s p).state = 0 ∧ (partAt s p).job = none ∧ (partAt s p).reqs = []) ∧ (∀ i, (sessAt s i).st = .free) ∧
  (∃ x, extentAt s 0 = some x ∧ x.owner = 0xFF ∧ x.size = 4) ∧ (∀ n, n ≠ 0 → extentAt s n = none) ∧ s.pins.tap = 1

/-- The state right after reset meets the invariant. The model's own readings and choices it rests on: log entry 5. -/
def Obligations.ResetMeetsInvariant : Prop := Inv State.reset

/-- From every state that meets the invariant, whatever its queue holds, a step leads to one that meets it: tiles, device memory
and the Seedbank keep their canonical form, so that equal contents are equal data. The model's own readings and choices it
rests on: log entry 5. -/
def Obligations.EveryStepKeepsInvariant : Prop := ∀ s t : State, Inv s → step s = .next t → Inv t

/-- R100, R74: CLEAR issued in cycle t clears its bank in cycle t + 1 and loads W, and does not take the array: A = 0, INV,
ABOVE_POS and ABOVE_NEG are clear in every accumulator, and E_MAX is empty; MATRIX_FLAGS and the other banks are as before. -/
def Obligations.ClearEmptiesItsBank : Prop :=
  (∀ (t : TileId) (w : BitVec 80) (idle : BitVec 4) (s : State),
    mop w.toNat = 4 → ReadyToIssue s t.val → SlotIssues .m w.toNat s t.val →
    Completes (.clear t w (some idle)) s (fun u =>
      OnlyTile t.val s u ∧ TileBut (tileAt s t.val) (tileAt u t.val) ∧
      (tileAt u t.val).seq.arrayBusy = (tileAt s t.val).seq.arrayBusy ∧
      (tileAt u t.val).units = { (tileAt s t.val).units with
        clears := (tileAt s t.val).units.clears ++ [⟨field w.toNat 65 64, toSigned 9 (field w.toNat 63 55), s.cycle + 1⟩] })) ∧
  (∀ (x : Tile) (j : ClearJob) (c : Nat), x.units.clears = [j] →
    let y := clearCycle c x
    (c ≠ j.due → y = x) ∧
    (c = j.due → (bankAt y j.bank).w = j.w ∧ (bankAt y j.bank).eMax = none ∧
      (∀ i, fmGet accZero (bankAt y j.bank).cells i = ⟨0, false, false, false⟩) ∧ (∀ b, b ≠ j.bank → bankAt y b = bankAt x b) ∧
      y.units.clears = [] ∧ y.units.mmas = x.units.mmas ∧ y.regs = x.regs ∧ y.ls = x.ls))

/-- R94, R95, R97: an MMA, MMA_SA or MMA_SB of K steps that issues in cycle t takes the array; its first operand read falls in
cycle t + 1; K = 0 takes nothing. Frame: nothing but the tile's sequencer, counters and units differs, and no unit but the
array's queue. R104–R107: READOUT, IMPORT, SHELL_START and STATE_COPY enter their units with the fields of their words, and
NBLK = 0 starts no stream. Frame as for the matrix operations. The model's own readings and choices it rests on: log entries
11, 12, 13, 93. -/
def Obligations.MatrixAndUnitOperations : Prop :=
  (
    ∀ (t : TileId) (w : BitVec 80) (idle : BitVec 4) (s : State) (c : Instr) (op : Nat),
      (c, op) ∈ [(Instr.mma t w (some idle), 1), (Instr.mmaSa t w (some idle), 2), (Instr.mmaSb t w (some idle), 3)] →
      mop w.toNat = op → ReadyToIssue s t.val → SlotIssues .m w.toNat s t.val →
      let q := (tileAt s t.val).seq
      Completes c s (fun u =>
        OnlyTile t.val s u ∧ TileBut (tileAt s t.val) (tileAt u t.val) ∧
        (field w.toNat 15 0 = 0 → (tileAt u t.val).units = (tileAt s t.val).units) ∧
        (field w.toNat 15 0 ≠ 0 → ∃ j : MmaJob,
          (tileAt u t.val).units = { (tileAt s t.val).units with mmas := (tileAt s t.val).units.mmas ++ [j] } ∧
          j.bank = field w.toNat 65 64 ∧ j.w = some (toSigned 9 (field w.toNat 63 55)) ∧ j.k = field w.toNat 15 0 ∧
          j.fa = field w.toNat 75 72 ∧ j.fb = field w.toNat 71 68 ∧ j.sa = w.toNat.testBit 67 ∧ j.sb = w.toNat.testBit 66 ∧
          j.baseA = getA q (field w.toNat 54 50) / 64 * 64 + 64 * field w.toNat 49 38 ∧
          j.baseB = getA q (field w.toNat 37 33) / 64 * 64 + 64 * field w.toNat 32 21 ∧
          j.baseSa = getA q (field w.toNat 20 16) / 64 * 64 ∧ j.baseSb = getA q (field w.toNat 20 16 + 1) / 64 * 64 ∧
          j.feed = op - 1 ∧ j.s = 0 ∧ j.at_ = s.cycle + 1))) ∧
  (
    ∀ (t : TileId) (w : BitVec 64) (idle : BitVec 4) (s : State),
      ReadyToIssue s t.val → SlotIssues .v w.toNat s t.val →
      let q := (tileAt s t.val).seq
      let x := (tileAt s t.val).units
      let at_ (reg off : Nat) : Nat := getA q reg / 64 * 64 + 64 * off
      (vop w.toNat = 0x20 → Completes (.readout t w (some idle)) s (fun u =>
        OnlyTile t.val s u ∧ TileBut (tileAt s t.val) (tileAt u t.val) ∧ ∃ j : ReadJob,
          (tileAt u t.val).units = { x with reads := x.reads ++ [j] } ∧ j.bank = field w.toNat 57 56 ∧
          j.mode = field w.toNat 55 54 ∧ j.clr = w.toNat.testBit 53 ∧
          j.wNew = (if w.toNat.testBit 53 then some (toSigned 9 (field w.toNat 52 44)) else none) ∧
          j.dst = at_ (field w.toNat 43 39) (field w.toNat 38 27) ∧ j.t = s.cycle ∧ j.beats = [])) ∧
      (vop w.toNat = 0x21 → Completes (.importRaw t w (some idle)) s (fun u =>
        OnlyTile t.val s u ∧ TileBut (tileAt s t.val) (tileAt u t.val) ∧ ∃ j : ImportJob,
          (tileAt u t.val).units = { x with imports := x.imports ++ [j] } ∧ j.bank = field w.toNat 57 56 ∧
          j.base = at_ (field w.toNat 55 51) (field w.toNat 50 39) ∧ j.beat = 0 ∧ j.at_ = s.cycle + 1 ∧ j.got = [])) ∧
      (vop w.toNat = 0x22 → Completes (.shellStart t w (some idle)) s (fun u =>
        OnlyTile t.val s u ∧ TileBut (tileAt s t.val) (tileAt u t.val) ∧
        (field w.toNat 21 6 = 0 → (tileAt u t.val).units = x) ∧
        (field w.toNat 21 6 ≠ 0 → ∃ j : ShellJob, (tileAt u t.val).units = { x with shell := some j } ∧
          j.dest = field w.toNat 57 56 ∧ j.inp = at_ (field w.toNat 55 51) (field w.toNat 50 39) ∧
          j.out = at_ (field w.toNat 38 34) (field w.toNat 33 22) ∧ j.left = field w.toNat 21 6 ∧ j.start = s.cycle + 1))) ∧
      (vop w.toNat = 0x23 → Completes (.stateCopy t w (some idle)) s (fun u =>
        OnlyTile t.val s u ∧ TileBut (tileAt s t.val) (tileAt u t.val) ∧ ∃ j : CopyJob,
          (tileAt u t.val).units = { x with copies := x.copies ++ [j] } ∧ j.t = s.cycle ∧
          j.dst = at_ (field w.toNat 57 53) (field w.toNat 52 41))))

/-- R102, R141: every vector function that issues in the V slot in cycle t takes the lanes in t, its operands and its result
being 128-byte units of LS; what it reads and writes later is VectorOperationReadsThenWrites. Frame as above. The model's own
readings and choices it rests on: log entries 11, 12. -/
def Obligations.VectorOperationsTakeTheLanes : Prop :=
  ∀ (t : TileId) (w : BitVec 64) (idle : BitVec 4) (s : State) (c : Instr) (n : Nat),
    (c, n) ∈ vecRows (.vslot t w (some idle)) → vop w.toNat = n → ReadyToIssue s t.val → SlotIssues .v w.toNat s t.val →
    let q := (tileAt s t.val).seq
    let at_ (reg off : Nat) : Nat := getA q reg / 64 * 64 + 128 * off
    Completes c s (fun u =>
      OnlyTile t.val s u ∧ TileBut (tileAt s t.val) (tileAt u t.val) ∧ (tileAt u t.val).seq.lanes = s.cycle + 1 ∧
      ∃ j : VecJob, (tileAt u t.val).units = { (tileAt s t.val).units with vecs := (tileAt s t.val).units.vecs ++ [j] } ∧
        j.t = s.cycle ∧ j.n = n ∧ j.vf = field w.toNat 57 55 ∧ j.df = field w.toNat 15 13 ∧
        j.dst = at_ (field w.toNat 54 50) (field w.toNat 49 42) ∧ j.s1 = at_ (field w.toNat 41 37) (field w.toNat 36 29) ∧
        j.s2 = at_ (field w.toNat 28 24) (field w.toNat 23 16))

/-- R110, R112, R113, R109: SEND and NSEND place NFLIT entries in their send queue, entry i in cycle t + 1 + i, RECV and NRECV
post NFLIT landing addresses in the same way; MOVE gives its mover a descriptor that is read in cycle t + 1, or, while a
prune is pending, sets the mover's ERR (R43). Frame: no queue but the one named differs. The model's own readings and choices
it rests on: log entries 11, 14, 16, 93. -/
def Obligations.SendsReceivesAndMovesQueue : Prop :=
  ∀ (t : TileId) (w : BitVec 64) (idle : BitVec 4) (s : State),
    ReadyToIssue s t.val → SlotIssues .x w.toNat s t.val →
    let x := tileAt s t.val
    let q := x.seq
    let n (mesh : Bool) : Nat := if mesh then field w.toNat 42 35 else field w.toNat 40 33
    let src (mesh : Bool) (i : Nat) : Nat :=
      if mesh then getA q (field w.toNat 59 55) / 64 * 64 + 64 * field w.toNat 54 43 + 64 * i
      else getA q (field w.toNat 57 53) / 64 * 64 + 64 * field w.toNat 52 41 + 128 * i
    let port (mesh : Bool) : Nat := if mesh then 0 else field w.toNat 59 58 + 1
    let kept (u : State) (p : Nat) : Prop :=
      OnlyTile t.val s u ∧ tileAt u t.val = { x with seq := (tileAt u t.val).seq, cnt := (tileAt u t.val).cnt, ports := (tileAt u t.val).ports } ∧
      ∀ j, j ≠ p → portAt (tileAt u t.val) j = portAt x j
    (∀ mesh : Bool, xop w.toNat = (if mesh then 1 else 3) →
      Completes (if mesh then .send t w (some idle) else .nsend t w (some idle)) s (fun u =>
        kept u (port mesh) ∧ portAt (tileAt u t.val) (port mesh) = { portAt x (port mesh) with
          sendq := (portAt x (port mesh)).sendq ++ (List.range (n mesh)).map (fun i => ⟨src mesh i, s.cycle + 1 + i⟩) })) ∧
    (∀ mesh : Bool, xop w.toNat = (if mesh then 2 else 4) →
      let ac : Option Nat :=
        if mesh then (if w.toNat.testBit 28 then some (field w.toNat 34 29) else none)
        else (if w.toNat.testBit 26 then some (field w.toNat 32 27) else none)
      Completes (if mesh then .recv t w (some idle) else .nrecv t w (some idle)) s (fun u =>
        kept u (port mesh) ∧ portAt (tileAt u t.val) (port mesh) = { portAt x (port mesh) with
          posts := (portAt x (port mesh)).posts ++ (List.range (n mesh)).map (fun i => ⟨src mesh i, ac, s.cycle + 1 + i⟩) })) ∧
    (xop w.toNat = 5 → Completes (.move t w (some idle)) s (fun u =>
      OnlyTile t.val s u ∧
      (x.prune ≠ none →
        let r := { x.regs with moverErr := x.regs.moverErr ||| BitVec.ofNat 4 (2 ^ field w.toNat 59 58) }
        tileAt u t.val = { x with seq := (tileAt u t.val).seq, cnt := (tileAt u t.val).cnt, regs := r }) ∧
      (x.prune = none → tileAt u t.val = { x with seq := (tileAt u t.val).seq, cnt := (tileAt u t.val).cnt, movers := (tileAt u t.val).movers } ∧
        (∀ m, m ≠ field w.toNat 59 58 → moverAt (tileAt u t.val) m = moverAt x m) ∧
        ∃ d : Desc, moverAt (tileAt u t.val) (field w.toNat 59 58) =
            { moverAt x (field w.toNat 59 58) with queue := (moverAt x (field w.toNat 59 58)).queue ++ [d] } ∧
          d.addr = src false 0 ∧ d.readAt = s.cycle + 1 ∧ d.raw = none ∧ d.ge = none ∧ d.started = false ∧ d.scope = q.scope)))

/-- R115: what the register operations of the C slot leave: LOOP loads l[L], BRC decrements a nonzero l[L], ADDI writes a[S] +
IMM modulo 2^48 (and a0 stays 0, R88), SETL, ENV and SCOPE load their fields. The stream has no running loop, so that the
value shown is the operation's own. Frame: nothing but the tile's sequencer and counters differs, and no other register.
R118, R119, R120, R33, R124, R125, R487: MARK starts a command with its LAYER and OPID and swaps the counter banks; a WAIT
that passes at once, as with a threshold of 0, costs no cycle; GRANT of NCYC cycles opens t + 1 to t + NCYC and NCYC = 0
grants nothing; EPOCH holds the next bundle to the first cycle of an epoch; PHASE and END end the command and stop the issue
with their report still owed. The model's own readings and choices it rests on: log entries 11, 12, 23. -/
def Obligations.ControlSlots : Prop :=
  (
    ∀ (t : TileId) (w : BitVec 40) (idle : BitVec 4) (s : State),
      ReadyToIssue s t.val → SlotIssues .c w.toNat s t.val → (tileAt s t.val).seq.loops = [] →
      let q := (tileAt s t.val).seq
      let y (u : State) : Seq := (tileAt u t.val).seq
      let kept (u : State) : Prop :=
        OnlyTile t.val s u ∧ tileAt u t.val = { tileAt s t.val with seq := y u, cnt := (tileAt u t.val).cnt }
      (cop w.toNat = 1 → Completes (.loop t w (some idle)) s (fun u => kept u ∧
        getL (y u) (field w.toNat 35 33) = field w.toNat 20 0 ∧ (∀ i, i ≠ field w.toNat 35 33 → getL (y u) i = getL q i) ∧
        (y u).a = q.a ∧ (y u).env = q.env ∧ (y u).scope = q.scope ∧
        (field w.toNat 20 0 = 0 → (y u).loops = [] ∧ (y u).pc = q.pc + 32 * (field w.toNat 32 21 + 1)) ∧
        (field w.toNat 20 0 ≠ 0 → (y u).pc = q.pc + 32 ∧
          (y u).loops = [⟨field w.toNat 35 33, q.pc + 32, q.pc + 32 * field w.toNat 32 21, field w.toNat 32 21, false⟩]))) ∧
      (cop w.toNat = 2 → Completes (.brc t w (some idle)) s (fun u => kept u ∧
        (y u).a = q.a ∧ (y u).env = q.env ∧ (y u).scope = q.scope ∧ (∀ i, i ≠ field w.toNat 35 33 → getL (y u) i = getL q i) ∧
        (getL q (field w.toNat 35 33) = 0 → getL (y u) (field w.toNat 35 33) = 0 ∧ (y u).pc = q.pc + 32 ∧
          (y u).nextIssue = s.cycle + 1 + idle.toNat) ∧
        (0 < getL q (field w.toNat 35 33) → getL q (field w.toNat 35 33) < 2 ^ 24 →
          getL (y u) (field w.toNat 35 33) = getL q (field w.toNat 35 33) - 1 ∧
          ((y u).pc : Int) = q.pc + 32 * toSigned 20 (field w.toNat 32 13) ∧
          (y u).nextIssue = s.cycle + 1 + max idle.toNat 2))) ∧
      (cop w.toNat = 7 → Completes (.addi t w (some idle)) s (fun u => kept u ∧ (y u).l = q.l ∧ (y u).env = q.env ∧ (y u).scope = q.scope ∧
        getA (y u) 0 = 0 ∧ (∀ i, i ≠ field w.toNat 35 31 → getA (y u) i = getA q i) ∧
        (field w.toNat 35 31 ≠ 0 → (getA (y u) (field w.toNat 35 31) : Int) =
          ((getA q (field w.toNat 30 26) : Int) + toSigned 26 (field w.toNat 25 0)) % 2 ^ 48))) ∧
      (cop w.toNat = 8 → Completes (.setl t w (some idle)) s (fun u => kept u ∧ (y u).a = q.a ∧ (y u).env = q.env ∧ (y u).scope = q.scope ∧
        getL (y u) (field w.toNat 35 33) = field w.toNat 32 9 ∧ ∀ i, i ≠ field w.toNat 35 33 → getL (y u) i = getL q i)) ∧
      (cop w.toNat = 9 → Completes (.env t w (some idle)) s (fun u => kept u ∧ (y u).a = q.a ∧ (y u).l = q.l ∧ (y u).scope = q.scope ∧
        (y u).env = field w.toNat 35 29)) ∧
      (cop w.toNat = 10 → Completes (.scope t w (some idle)) s (fun u => kept u ∧ (y u).a = q.a ∧ (y u).l = q.l ∧ (y u).env = q.env ∧
        (y u).scope = BitVec.ofNat 2 (field w.toNat 35 34)))) ∧
  (
    ∀ (t : TileId) (w : BitVec 40) (idle : BitVec 4) (s : State),
      ReadyToIssue s t.val → SlotIssues .c w.toNat s t.val → (tileAt s t.val).seq.loops = [] →
      let x := tileAt s t.val
      let q := x.seq
      let y (u : State) : Seq := (tileAt u t.val).seq
      let kept (u : State) : Prop :=
        OnlyTile t.val s u ∧ tileAt u t.val = { x with seq := y u, cnt := (tileAt u t.val).cnt, reports := (tileAt u t.val).reports }
      (cop w.toNat = 3 → Completes (.wait t w (some idle)) s (fun u => kept u ∧ (tileAt u t.val).reports = x.reports ∧
        (y u).hold = .none ∧ (y u).exact = q.exact ∧ (y u).a = q.a ∧ (y u).l = q.l ∧ (y u).pc = q.pc + 32 ∧
        (y u).nextIssue = s.cycle + 1 + idle.toNat)) ∧
      (cop w.toNat = 4 → Completes (.grant t w (some idle)) s (fun u => kept u ∧ (tileAt u t.val).reports = x.reports ∧ (y u).pc = q.pc + 32 ∧
        (y u).grant = if field w.toNat 35 20 = 0 then q.grant
          else some (s.cycle + 1, s.cycle + field w.toNat 35 20, field w.toNat 19 18))) ∧
      (cop w.toNat = 6 → Completes (.epoch t w (some idle)) s (fun u => kept u ∧ (tileAt u t.val).reports = x.reports ∧ (y u).pc = q.pc + 32 ∧
        (y u).epochWait = true ∧ (y u).nextIssue = s.cycle + 1 + idle.toNat)) ∧
      (cop w.toNat = 5 → x.cnt.stopped = false → Completes (.mark t w (some idle)) s (fun u =>
        (y u).layer = field w.toNat 35 20 ∧ (y u).opid = field w.toNat 19 4 ∧ (y u).pc = q.pc + 32 ∧
        (tileAt u t.val).cnt.done = ⟨x.cnt.live, x.cnt.selUse, q.layer, q.opid, x.cnt.seq⟩ ∧
        (tileAt u t.val).cnt.seq = (x.cnt.seq + 1) % 2 ^ 32 ∧ (tileAt u t.val).cnt.selUse = x.cnt.sel)) ∧
      (cop w.toNat = 11 → Completes (.phase t w (some idle)) s (fun u => (y u).stream = .phaseEnd false ∧ (y u).exact = true ∧ (x.cnt.stopped = false → (y u).layer = 0xFFFF ∧ (y u).opid = 0xFFFF))) ∧
      (cop w.toNat = 12 → Completes (.endStream t w (some idle)) s (fun u => (y u).stream = .ended false ∧ (y u).exact = true ∧ (x.cnt.stopped = false → (y u).layer = 0xFFFF ∧ (y u).opid = 0xFFFF))))

/-- R90, R92, R91, R120: PAUSE, a bundle with no slot enabled, spends 1 + IDLE cycles and does nothing else; a legal bundle whose
WAIT finds its counter below the threshold issues nothing and holds; and a bundle with a reserved code or field is an
illegal-instruction fault, of which nothing issues. The model's own readings and choices it rests on: log entries 11, 12, 14,
93. -/
def Obligations.BundlesPauseHoldAndFault : Prop :=
  (∀ (t : TileId) (idle : BitVec 4) (s : State), ReadyToIssue s t.val → (tileAt s t.val).seq.loops = [] →
    Completes (.pause t idle) s (fun u =>
      OnlyTile t.val s u ∧
      tileAt u t.val = { tileAt s t.val with seq := (tileAt u t.val).seq, cnt := (tileAt u t.val).cnt } ∧
      (tileAt u t.val).seq = { (tileAt s t.val).seq with
        pc := (tileAt s t.val).seq.pc + 32, nextIssue := s.cycle + 1 + idle.toNat })) ∧
  (∀ (t : TileId) (w : BitVec 40) (idle : BitVec 4) (s : State), ReadyToIssue s t.val → cop w.toNat = 3 →
    slotLegal (tileAt s t.val).nbr.getLsbD .c w.toNat = true →
    acSeen s.cycle (tileAt s t.val) (field w.toNat 35 30) < getA (tileAt s t.val).seq (field w.toNat 29 25) →
    Completes (.wait t w (some idle)) s (fun u =>
      OnlyTile t.val s u ∧
      tileAt u t.val = { tileAt s t.val with seq := (tileAt u t.val).seq, cnt := (tileAt u t.val).cnt } ∧
      (tileAt u t.val).seq = { (tileAt s t.val).seq with
        queue := [packBundle [⟨.c, w.toNat⟩] idle], hold := .counter (field w.toNat 35 30) (getA (tileAt s t.val).seq (field w.toNat 29 25)),
        holdUs := s.us, holdAt := s.cycle, exact := false })) ∧
  (∀ (t : TileId) (w : BitVec 80) (idle : BitVec 4) (s : State), ReadyToIssue s t.val → mop w.toNat = 1 →
    slotLegal (tileAt s t.val).nbr.getLsbD .m w.toNat = false →
    Completes (.mma t w (some idle)) s (fun u =>
      OnlyTile t.val s u ∧ (tileAt u t.val).regs.faultCode = 4 ∧ (tileAt u t.val).seq.stream = .halted ∧
      (tileAt u t.val).seq.queue = [] ∧ (tileAt u t.val).units = (tileAt s t.val).units ∧
      (tileAt u t.val).ls = (tileAt s t.val).ls ∧ (tileAt u t.val).seq.pc = (tileAt s t.val).seq.pc ∧
      ∃ f : FaultRec, (tileAt u t.val).reports = (tileAt s t.val).reports ++ [.fault f] ∧ f.code = 4 ∧ f.cycle = s.cycle ∧
        f.ioff = (tileAt s t.val).seq.pc))

/-- R139–R141: a vector function in GX, format R (code n) or format I (code n + 0x80, S2 from IMM), writes its result into D of
every executing lane. Format I of FMA, SEL and CVT is not here: it has no field for their third source or format, and that
value is free (log entry 10). Frame: nothing but the group, the engine and the tile's counters differs. R140, R141: the
vector functions on INT32 operands (format 3) and SEL in every format. The model's own readings and choices it rests on: log
entries 10, 17. -/
def Obligations.GroupVectorFunctions : Prop :=
  (
    ∀ (t : TileId) (g : GSlot) (w : BitVec 64) (s : State) (x : Group) (c : Instr) (n : Nat) (imm : Bool),
      (c, n) ∈ vecRows (.gx t g w) → gOpc w.toNat = (if imm then 0x80 + n else n) → GroupReady s t.val g.val w.toNat x →
      vecFmtOk n (gFmt w.toNat) = true → gFmt w.toNat ≤ 4 → (imm = false → field w.toNat 8 0 = 0) →
      (imm = true → vecThirdSource n = false ∧ n ≠ 9) → (n = 9 → field w.toNat 16 14 ≤ 4) →
      gD w.toNat < regCount x → gS1 w.toNat < regCount x →
      (imm = false → (vecOneSource n = false → gS2 w.toNat < regCount x) ∧ (vecThirdSource n = true → gS3 w.toNat < regCount x)) →
      Completes c s (fun u => OnlyTile t.val s u ∧ TileGroups (tileAt s t.val) (tileAt u t.val) ∧
        ∃ y, groupAt (tileAt u t.val) g.val = some y ∧ WritesReg x y w.toNat (gD w.toNat) (fun i =>
          (vecFn n (gFmt w.toNat) (field w.toNat 16 14) (gReg x (gS1 w.toNat) i)
            (if imm then gImm w.toNat else gReg x (gS2 w.toNat) i) (if imm then 0 else gReg x (gS3 w.toNat) i)).1))) ∧
  (
    ∀ a b c d : Nat, a < 2 ^ 32 → b < 2 ^ 32 →
      let f (n : Nat) : Nat := (vecFn n 3 d a b c).1
      let i (v : Nat) : Int := (BitVec.ofNat 32 v).toInt
      f 1 = (a + b) % 2 ^ 32 ∧ f 2 = (a + 2 ^ 32 - b) % 2 ^ 32 ∧ f 3 = a * b % 2 ^ 32 ∧
      i (f 5) = min (i a) (i b) ∧ i (f 6) = max (i a) (i b) ∧
      (i a ≠ -2 ^ 31 → i (f 7) = |i a|) ∧ (a = 2 ^ 31 → f 7 = a) ∧ f 8 = (2 ^ 32 - a) % 2 ^ 32 ∧
      f 10 = (if a = b then 1 else 0) ∧ f 11 = (if i a < i b then 1 else 0) ∧ f 12 = (if i a ≤ i b then 1 else 0) ∧
      f 19 = (a &&& b) ∧ f 20 = (a ||| b) ∧ f 21 = (a ^^^ b) ∧
      f 22 = a * 2 ^ (b % 32) % 2 ^ 32 ∧ f 23 = a / 2 ^ (b % 32) ∧ i (f 24) = i a / 2 ^ (b % 32) ∧
      i (f 25) = i a * i b / 2 ^ 32 ∧
      (a ≠ 0 → f 26 = 31 - Nat.log2 a) ∧ (a = 0 → f 26 = 32) ∧ f 27 = ((List.range 32).filter a.testBit).length ∧
      ∀ vf, (vecFn 13 vf d a b c).1 = (if c % 2 ^ vfmtWidth vf ≠ 0 then a else b) % 2 ^ vfmtWidth vf)

/-- R102, R30, R141: a vector operation of the V slot reads its sources in cycle t + 1 (the second only where its function has
one, the destination as third only for FMA and SEL) and writes its result in t + 4. With its source beats clean and on
different banks, it raises nothing; every byte outside the result is as before. R66, R69, R77, R92, R94: an accumulation adds
its terms in its completion cycle where its W is the bank's; where it is not, it is an illegal-instruction fault and the bank
keeps its values. Frame: no other bank differs. The model's own readings and choices it rests on: log entries 12, 14, 93. -/
def Obligations.UnitsWorkInTheirCycles : Prop :=
  (
    (∀ (x : Tile) (j : VecJob),
      let n := 4 * vfmtWidth j.vf
      let srcs := [j.s1] ++ (if vecOneSource j.n then [] else [j.s2]) ++ (if vecThirdSource j.n then [j.dst] else [])
      x.units.vecs = [j] → x.units.p1Cycle ≠ j.t + 1 → srcs.Pairwise (fun a b => ∀ k ∈ banksOf a n, k ∉ banksOf b n) →
      (∀ a ∈ srcs, poisoned x a n = false) →
      let y := vecCycle (j.t + 1) x
      let r := vecResult j.n j.vf j.df (elemsOf j.vf (memRead x.ls j.s1 n))
        (elemsOf j.vf (if vecOneSource j.n then [] else memRead x.ls j.s2 n))
        (elemsOf j.vf (if vecThirdSource j.n then memRead x.ls j.dst n else []))
      y.ls = x.ls ∧ y.regs = x.regs ∧ y.reports = x.reports ∧ y.units.vecs = [{ j with res := r.1, nans := r.2 }]) ∧
    (∀ (x : Tile) (j : VecJob), x.units.vecs = [j] → x.units.p1Cycle ≠ j.t + 4 →
      let y := vecCycle (j.t + 4) x
      y.units.vecs = [] ∧ y.regs = x.regs ∧ y.reports = x.reports ∧
      ∀ a, memByte y.ls a = if j.dst ≤ a ∧ a < j.dst + j.res.length then j.res.getD (a - j.dst) 0 else memByte x.ls a)) ∧
  (
    ∀ (x : Tile) (j : MmaJob) (c : Nat), x.units.adds = [(c, j)] →
      let y := addCycle c x
      let r := mmaComplete (bankAt x j.bank) j.fa j.fb j.sa j.sb j.k (leNat j.gotA) (leNat j.gotB) (leNat j.gotSa) (leNat j.gotSb)
      y.units.adds = [] ∧ (∀ b, b ≠ j.bank → bankAt y b = bankAt x b) ∧ y.ls = x.ls ∧
      ((j.w = none ∨ j.w = some (bankAt x j.bank).w) → bankAt y j.bank = r.1 ∧ y.reports = x.reports ∧
        y.regs = { x.regs with mflags := orFlags x.regs.mflags j.bank r.2 }) ∧
      (∀ w, j.w = some w → w ≠ (bankAt x j.bank).w → bankAt y j.bank = bankAt x j.bank ∧ y.regs.faultCode = 4))

/-- R134, R138, R142: NOP, MOVI, RDSPEC, SETP, PLOG, VOTE, SHFL and LFOLD. Frame as for the vector functions. The model's own
readings and choices it rests on: log entries 19, 20, 93. -/
def Obligations.GroupMovesPredicatesAndCrossLane : Prop :=
  ∀ (t : TileId) (g : GSlot) (w' : BitVec 64) (s : State) (x : Group), GroupReady s t.val g.val w'.toNat x →
    let w := w'.toNat
    let R := regCount x
    let kept (u : State) : Prop := OnlyTile t.val s u ∧ TileGroups (tileAt s t.val) (tileAt u t.val)
    let writes (u : State) (d : Nat) (v : Nat → Nat) : Prop :=
      ∃ y, groupAt (tileAt u t.val) g.val = some y ∧ WritesReg x y w d v
    let writesP (u : State) (p : Nat) (v : Nat → Bool) : Prop :=
      ∃ y, groupAt (tileAt u t.val) g.val = some y ∧ WritesPred x y w p v
    let executes (i : Nat) : Bool := (guardMask x w).testBit i
    (gOpc w = 0x20 → gD w < R → gFmt w ≤ 4 → Completes (.movi t g w') s (fun u => kept u ∧ writes u (gD w) (fun _ => gImm w))) ∧
    (rFormOk w = true →
      (gOpc w = 0 → Completes (.nop t g w') s (fun u => kept u ∧
        ∃ y, groupAt (tileAt u t.val) g.val = some y ∧ GroupOn x y ∧ y.regs = x.regs ∧ y.preds = x.preds)) ∧
      (gOpc w = 0x21 → gD w < R → gS1 w < 8 → Completes (.rdspec t g w') s (fun u => kept u ∧
        writes u (gD w) (fun i =>
          if gS1 w = 0 then i else if gS1 w = 1 then x.num else if gS1 w = 3 then t.val else if gS1 w = 4 then partOf s t.val
          else if gS1 w = 5 then s.cycle else if gS1 w = 6 then s.cycle / 2 ^ 32
          else special s t.val s.cycle x (gS1 w) i))) ∧
      (gOpc w = 0x22 → field w 16 14 < 6 → gS1 w < R → gS2 w < R → Completes (.setp t g w') s (fun u => kept u ∧
        writesP u (gD w % 8) (fun i => vecCompare (field w 16 14) (gFmt w) (gReg x (gS1 w) i) (gReg x (gS2 w) i)))) ∧
      (gOpc w = 0x23 → field w 16 14 < 5 → (∀ p, gPred x p < 2 ^ 32) → Completes (.plog t g w') s (fun u => kept u ∧
        writesP u (gD w % 8) (fun i =>
          let a := (gPred x (gS1 w % 8)).testBit i
          let b := (gPred x (gS2 w % 8)).testBit i
          if field w 16 14 = 0 then a && b else if field w 16 14 = 1 then a || b else if field w 16 14 = 2 then a != b
          else if field w 16 14 = 3 then a && !b else !a))) ∧
      (gOpc w = 0x24 → gD w < R → Completes (.vote t g w') s (fun u => kept u ∧
        writes u (gD w) (fun _ => gPred x (gS1 w % 8) &&& guardMask x w))) ∧
      (gOpc w = 0x25 → gD w < R → gS1 w < R → gS2 w < R → Completes (.shfl t g w') s (fun u => kept u ∧
        writes u (gD w) (fun i =>
          let b : Int := gReg x (gS2 w) i
          let m := field w 16 15
          let j : Int := if m = 0 then b else if m = 1 then i - b else if m = 2 then i + b else (i ^^^ gReg x (gS2 w) i : Nat)
          if 0 ≤ j ∧ j < 32 ∧ executes j.toNat then gReg x (gS1 w) j.toNat else gReg x (gS1 w) i)))) ∧
    (gOpc w = 0x26 → field w 8 0 = 0 → (gFmt w = 0 ∧ field w 16 14 < 3 ∨ gFmt w = 3 ∧ field w 16 14 < 6) →
      1 ≤ field w 13 11 → field w 13 11 ≤ 5 → gD w < R → gS1 w < R → Completes (.lfold t g w') s (fun u => kept u ∧
        writes u (gD w) (fun i => foldSegment (field w 16 14) (gFmt w) (field w 13 11)
          ((List.range (2 ^ field w 13 11)).map (fun j =>
            let l := i / 2 ^ field w 13 11 * 2 ^ field w 13 11 + j
            if executes l then some (gReg x (gS1 w) l) else none)))))

/-- R143, R144, R146, R148: LD and ST in LS or group-local memory (SPACE 1 or 2), with lane addresses that lie in the store and
are aligned, enter the load/store pipe with one sector for each 32 bytes they name, and the group goes on; a sector in the
pipe whose bank is free is served: a load writes each lane's registers with the little-endian bytes at its address, available
five cycles later (R149), a store writes each lane's bytes there. Frame: no register of another lane or number; no byte
outside the addressed ones; nothing but the tile. The model's own readings and choices it rests on: log entries 10, 29. -/
def Obligations.GroupLoadsAndStoresInTheTileStore : Prop :=
  (∀ (t : TileId) (g : GSlot) (w' : BitVec 64) (s : State) (x : Group) (as : List (Nat × Nat)), GroupReady s t.val g.val w'.toNat x →
    let w := w'.toNat
    let n := 2 ^ mSize w
    let z := tileAt s t.val
    let goesOn (u : State) : Prop := OnlyTile t.val s u ∧ TileGroups z (tileAt u t.val) ∧
      ∃ y, groupAt (tileAt u t.val) g.val = some y ∧ GroupOn x y ∧ y.regs = x.regs ∧ y.preds = x.preds
    mSpace w ≠ 0 → lsLanes z x (mSpace w) (gS1 w) n (mOfs w) (lanesOf (guardMask x w)) = some as → (∀ a ∈ as, a.2 % n = 0) →
    (gOpc w = 0x30 → memOk true x w = true → Completes (.ld t g w') s (fun u => goesOn u ∧
      (as = [] → (tileAt u t.val).ge.pipe = z.ge.pipe) ∧
      (as ≠ [] → ∃ o : PipeOp, (tileAt u t.val).ge.pipe = z.ge.pipe ++ [o] ∧ o.load = true ∧ o.g = g.val ∧ o.reg = gD w ∧ o.size = mSize w ∧
        o.lanes = as.map (fun a => (a.1, a.2, [])) ∧ o.sectors = distinct (as.map (fun a => a.2 / 32 * 32))))) ∧
    (gOpc w = 0x31 → memOk false x w = true → (mOrd w = 2 → mScope w = 0 ∨ writesOut z g.val = false) →
      Completes (.st t g w') s (fun u => goesOn u ∧
        (as = [] → (tileAt u t.val).ge.pipe = z.ge.pipe) ∧
        (as ≠ [] → ∃ o : PipeOp, (tileAt u t.val).ge.pipe = z.ge.pipe ++ [o] ∧ o.load = false ∧ o.size = mSize w ∧
          o.lanes.Perm (as.map (fun a => (a.1, a.2, laneBytes x (mSize w) (gD w) a.1))))))) ∧
  (∀ (x : Tile) (o : PipeOp) (a c : Nat), x.ge.pipe = [o] → o.sectors = [a] → bankTaken c 7 (banksOf a 32) x = false →
    (∀ l ∈ o.lanes, l.2.1 / 32 = a / 32 ∧ l.1 < 32) → (o.lanes.map (·.1)).Nodup →
    let n := 2 ^ o.size
    let y := pipeCycle c x
    (∀ z, o.load = true → groupAt x o.g = some z → (∀ l ∈ o.lanes, poisoned x l.2.1 n = false) →
      y.ge.pipe = [] ∧ y.ls = x.ls ∧ y.regs = x.regs ∧ y.reports = x.reports ∧ ∃ z', groupAt y o.g = some z' ∧
        (∀ l ∈ o.lanes, ∀ k, k < (spanRegs o.size o.reg).length →
          gReg z' (o.reg + k) l.1 = leAt (memRead x.ls l.2.1 n) (4 * k) 4) ∧
        (∀ r i, i < 32 → (r ∉ spanRegs o.size o.reg ∨ ∀ l ∈ o.lanes, l.1 ≠ i) → gReg z' r i = gReg z r i) ∧
        ∀ r ∈ spanRegs o.size o.reg, readyAt z r = soon → readyAt z' r = c + 5) ∧
    (o.load = false → (∀ l ∈ o.lanes, l.2.2.length = n) →
      y.ge.pipe = [] ∧ y.regs = x.regs ∧ y.ge.groups = x.ge.groups ∧
      (∀ l ∈ o.lanes, (∀ m ∈ o.lanes, m ≠ l → m.2.1 + n ≤ l.2.1 ∨ l.2.1 + n ≤ m.2.1) →
        ∀ k, k < n → memByte y.ls (l.2.1 + k) = l.2.2.getD k 0) ∧
      ∀ b, (∀ l ∈ o.lanes, b < l.2.1 ∨ l.2.1 + n ≤ b) → memByte y.ls b = memByte x.ls b))

/-- R150–R153, R243, R244: an atomic of a group (fetching or not) sends one ATOMIC for each address its lanes name, with their
operands in ascending lane order, and an addition one ADD_TO_LINE for its line; the tile awaits each reply for the group, and
a register to be fetched is not available until its reply. The model's own readings and choices it rests on: log entries 18,
19, 33, 93, 95. -/
def Obligations.GroupAtomicsSendTheirMessages : Prop :=
  ∀ (t : TileId) (g : GSlot) (w' : BitVec 64) (s : State) (x : Group), GroupReady s t.val g.val w'.toNat x →
    let w := w'.toNat
    let R := regCount x
    let z := tileAt s t.val
    field w 7 0 = 0 → gS1 w % 2 = 0 → gS1 w + 1 < R →
    (∀ (fetch : Bool) (as : List LaneAcc), gOpc w = (if fetch then 0x40 else 0x41) → mSize w = 2 → aAop w < 10 →
      gS2 w < R → (fetch = true → gD w < R) → (aOrd w < 2 ∨ aScope w = 0 ∨ writesOut z g.val = false) →
      translateLanes s (partOf s t.val) ⟨true, true⟩ x (gS1 w) 0 (lanesOf (guardMask x w)) = .ok as → (∀ a ∈ as, a.pa % 4 = 0) →
      let mine (pa : Nat) : List LaneAcc := as.filter (fun a => a.pa = pa)
      Completes (if fetch then .atom t g w' else .atomn t g w') s (fun u =>
        (∃ y, groupAt (tileAt u t.val) g.val = some y ∧ y.pc = x.pc + 8 ∧ y.regs = x.regs ∧ y.preds = x.preds ∧
          (fetch = true → as ≠ [] → readyAt y (gD w) = never)) ∧
        (tileAt u t.val).l1.awaits = z.l1.awaits ++ (distinct (as.map (·.pa))).map (fun pa =>
          ⟨pa / 128, g.val, fetch, (mine pa).map (·.lane), gD w, 4, x.pc, guardMask x w, decide (aOrd w % 2 = 1)⟩) ∧
        u.net = s.net ++ (distinct (as.map (·.pa))).map (fun pa =>
          toHome s t.val tATOMIC { cmsg (partOf s t.val) (pa / 128) t.val 0 with
            aop := aAop w, size := 4, ord := aOrd w + 4 * aScope w, off := pa % 128, count := (if fetch then 1 else 0),
            ops := (mine pa).map (fun a => (gReg x (gS2 w) a.lane, 0)) }))) ∧
    (∀ a : LaneAcc, gOpc w = 0x42 → aAop w = 0 → gS2 w < R → converged x = true → guardMask x w ≠ 0 →
      translateLanes s (partOf s t.val) ⟨true, true⟩ x (gS1 w) 0 [0] = .ok [a] → a.pa % 128 = 0 →
      Completes (.ladd t g w') s (fun u =>
        (∃ y, groupAt (tileAt u t.val) g.val = some y ∧ y.pc = x.pc + 8 ∧ y.regs = x.regs ∧ y.preds = x.preds) ∧
        (∃ b : Await, (tileAt u t.val).l1.awaits = z.l1.awaits ++ [b] ∧ b.line = a.pa / 128 ∧ b.g = g.val ∧ b.fetch = false) ∧
        u.net = s.net ++ [toHome s t.val tLADD { cmsg (partOf s t.val) (a.pa / 128) t.val 15 with
          info := 0, data := (List.range 32).flatMap (fun i =>
            if (guardMask x w).testBit i then natLe 4 (gReg x (gS2 w) i) else [0, 0, 0, 0]) }]))

/-- R157–R159, R130: BAR waits until every group of the cohort has arrived and then lets all go on; WAITAC passes where no lane
is guarded on or the counter has reached the threshold and waits otherwise; RDAC reads a counter into a register pair; MOVEG
queues a descriptor; SPAWN queues the record at its LS address. Frame: nothing but the tile differs; of the tile only what is
named. R154, R155: BR with no lane guarded on falls through, with every active lane guarded on goes to its target, and
otherwise runs the lanes guarded on first, the others waiting on the divergence stack for the reconvergence point; EXIT of a
part of the active lanes takes them out. Frame: nothing but the group, the engine and the counters differs. The model's own
readings and choices it rests on: log entries 18, 20, 93. -/
def Obligations.GroupSynchronisationAndControlFlow : Prop :=
  (
    ∀ (t : TileId) (g : GSlot) (w' : BitVec 64) (s : State) (x : Group), GroupReady s t.val g.val w'.toNat x →
      let w := w'.toNat
      let R := regCount x
      let z := tileAt s t.val
      let y (u : State) : Tile := tileAt u t.val
      let m := guardMask x w
      rFormOk w = true → converged x = true →
      (∀ co, gOpc w = 0x50 → gS1 w < 16 → m ≠ 0 → storing z g.val = false → z.ge.cohorts.find? (·.id = x.cohort) = some co →
        recGroups co.record ≤ residentLimit z (kernelEntry z (recKernel co.record)) →
        co.live ≠ (fmGet [] co.bars (gS1 w)).length + 1 →
        Completes (.bar t g w') s (fun u => OnlyTile t.val s u ∧ TileGroups z (y u) ∧
          ∃ x', groupAt (y u) g.val = some x' ∧ x'.pend = .barrier (gS1 w) ∧ x'.pc = x.pc + 8 ∧ x'.regs = x.regs ∧
            activeSlot (y u) g.val = none)) ∧
      (∀ co, gOpc w = 0x50 → gS1 w < 16 → m ≠ 0 → storing z g.val = false → z.ge.cohorts.find? (·.id = x.cohort) = some co →
        recGroups co.record ≤ residentLimit z (kernelEntry z (recKernel co.record)) →
        co.live = (fmGet [] co.bars (gS1 w)).length + 1 → x.pend = .none →
        Completes (.bar t g w') s (fun u => OnlyTile t.val s u ∧ TileGroups z (y u) ∧
          (∃ x', groupAt (y u) g.val = some x' ∧ x'.pend = .none ∧ x'.pc = x.pc + 8 ∧ x'.regs = x.regs) ∧
          ∀ h x', h ∈ fmGet [] co.bars (gS1 w) → h ≠ g.val → groupAt z h = some x' → x'.pend = .barrier (gS1 w) →
            groupAt (y u) h = some { x' with pend := .released })) ∧
      (gOpc w = 0x51 → gS1 w < 64 → gS2 w < R → Completes (.waitac t g w') s (fun u => OnlyTile t.val s u ∧ TileGroups z (y u) ∧
        ∃ x', groupAt (y u) g.val = some x' ∧ x'.pc = x.pc + 8 ∧ x'.regs = x.regs ∧
          x'.pend = if m = 0 ∨ gReg x (gS2 w) (lowLane x) ≤ acSeen s.cycle z (gS1 w) then .none
            else .counter (gS1 w) (gReg x (gS2 w) (lowLane x)))) ∧
      (gOpc w = 0x52 → gS1 w < 64 → gD w % 2 = 0 → gD w + 1 < R → Completes (.rdac t g w') s (fun u => OnlyTile t.val s u ∧ TileGroups z (y u) ∧
        ∃ x', groupAt (y u) g.val = some x' ∧ GroupOn x x' ∧ x'.preds = x.preds ∧ ∀ r i, i < 32 →
          gReg x' r i = if (guardMask x w).testBit i ∧ r = gD w then acNow z (gS1 w) % 2 ^ 32
            else if (guardMask x w).testBit i ∧ r = gD w + 1 then acNow z (gS1 w) / 2 ^ 32 % 2 ^ 32 else gReg x r i)) ∧
      (gOpc w = 0x53 → gS1 w < 4 → gS2 w < R → m ≠ 0 → writesOut z g.val = false → storing z g.val = false → z.prune = none → z.moverGe.getLsbD (gS1 w) = true →
        gReg x (gS2 w) (lowLane x) % 64 = 0 → inLs z (gReg x (gS2 w) (lowLane x)) 64 = true →
        (moverAt z (gS1 w)).queue.length < 15 →
        Completes (.moveg t g w') s (fun u => OnlyTile t.val s u ∧
          y u = { z with ge := (y u).ge, cnt := (y u).cnt, movers := (y u).movers } ∧
          (∀ m, m ≠ gS1 w → moverAt (y u) m = moverAt z m) ∧
          ∃ d : Desc, moverAt (y u) (gS1 w) = { moverAt z (gS1 w) with queue := (moverAt z (gS1 w)).queue ++ [d] } ∧
            d.addr = gReg x (gS2 w) (lowLane x) ∧ d.readAt = s.cycle + 1 ∧ d.ge = some g.val ∧ d.started = false ∧ d.scope = 2)) ∧
      (∀ r : BitVec 64, gOpc w = 0x54 → gS1 w < R → m ≠ 0 → bankTaken s.cycle 7 (banksOf (gReg x (gS1 w) (lowLane x)) 8) z = false → gReg x (gS1 w) (lowLane x) % 8 = 0 → inLs z (gReg x (gS1 w) (lowLane x)) 8 = true →
        poisoned z (gReg x (gS1 w) (lowLane x)) 8 = false → r = BitVec.ofNat 64 (leNat (memRead z.ls (gReg x (gS1 w) (lowLane x)) 8)) →
        field r.toNat 46 44 = 0 → kernelEntry z (recKernel r) ≠ 0 → recGroups r ≤ 4096 → z.ge.launchQ.length < 32 →
        Completes (.spawn t g w') s (fun u => OnlyTile t.val s u ∧ (y u).ls = z.ls ∧
          (recGroups r ≠ 0 → (y u).ge.launchQ = z.ge.launchQ ++ [r] ∧ (y u).reports = z.reports) ∧
          (recGroups r = 0 → (y u).ge.launchQ = z.ge.launchQ ∧ (y u).reports = z.reports ++ [.cohort (recTag r)])))) ∧
  (
    ∀ (t : TileId) (g : GSlot) (w' : BitVec 64) (s : State) (x : Group), GroupReady s t.val g.val w'.toNat x →
      let w := w'.toNat
      let m := guardMask x w
      let y (u : State) : Option Group := groupAt (tileAt u t.val) g.val
      let kept (u : State) : Prop := OnlyTile t.val s u ∧ TileGroups (tileAt s t.val) (tileAt u t.val)
      let dest : Nat := ((x.pc : Int) + 8 * toSigned 24 (field w 47 24)).toNat
      let meet : Nat := ((x.pc : Int) + 8 * toSigned 24 (field w 23 0)).toNat
      (gOpc w = 0x60 → field w 51 48 = 0 →
        (m = 0 → Completes (.br t g w') s (fun u => kept u ∧ ∃ x', y u = some x' ∧ GroupOn x x' ∧ x'.regs = x.regs ∧ x'.preds = x.preds)) ∧
        (m ≠ 0 → m = x.active.toNat → Completes (.br t g w') s (fun u => kept u ∧
          ∃ x', y u = some x' ∧ x' = { x with pc := dest, issueUs := x'.issueUs, holding := false })) ∧
        (m ≠ 0 → m ≠ x.active.toNat → dest ≠ meet → Completes (.br t g w') s (fun u => kept u ∧
          ∃ x', y u = some x' ∧ x' = { x with pc := dest, issueUs := x'.issueUs, holding := false, active := BitVec.ofNat 32 m, stack := x'.stack } ∧
            x'.stack = [⟨BitVec.ofNat 32 (x.active.toNat - m), x.pc + 8, meet, none⟩]))) ∧
      (gOpc w = 0x61 → rFormOk w = true → m ≠ x.active.toNat → Completes (.exit t g w') s (fun u => kept u ∧
        ∃ x', y u = some x' ∧ x'.pc = x.pc + 8 ∧ x'.regs = x.regs ∧ x'.preds = x.preds ∧
          x'.active = x.active &&& ~~~BitVec.ofNat 32 m ∧ x'.exited = x.exited ||| BitVec.ofNat 32 m)) ∧
      (gOpc w = 0x61 → rFormOk w = true → m = x.active.toNat → Completes (.exit t g w') s (fun u =>
        OnlyTile t.val s u ∧ y u = none)))

/-- R160–R162, R166: GMMA and GREAD of a complete group start in the next cycle where the array, or the readout path, is free and
the grant has K + 7, or n + 3, open cycles left from it on, and wait, pending, otherwise; a waiting one starts in the same
way when its start is commanded, a lower group slot that is ready first. R131, R136, R137, R163: a group of the cohort in
service becomes resident in the lowest free slot with its start state; the group that has waited longest is promoted; a group
that has waited beyond the forward-progress limit, or a job killed by command, ends the job. The model's own readings and
choices it rests on: log entries 15, 19, 28, 93. -/
def Obligations.GroupMatrixAndResidency : Prop :=
  (
    (∀ (t : TileId) (g : GSlot) (w' : BitVec 64) (s : State) (x : Group), GroupReady s t.val g.val w'.toNat x → complete x = true →
      let w := w'.toNat
      let z := tileAt s t.val
      let y (u : State) : Tile := tileAt u t.val
      field w 55 53 = 0 → w.testBit 52 = false → storing z g.val = false →
      (gOpc w = 0x70 → field w 51 48 < 6 → field w 47 44 < 6 → field w 1 0 = 0 → field w 41 34 < regCount x → field w 33 26 < regCount x →
        field w 25 18 + 1 < regCount x → field w 17 2 ≠ 0 → mmaInLs z (gmmaJob x w g.val s.cycle 0) = true →
        (z.seq.grant = none → Completes (.gmma t g w') s (fun u => OnlyTile t.val s u ∧ TileGroups z (y u) ∧
          ∃ x', groupAt (y u) g.val = some x' ∧ x'.pend = .gmma w ∧ x'.pc = x.pc + 8 ∧ x'.regs = x.regs)) ∧
        (∀ first last b, z.seq.grant = some (first, last, b) → first ≤ s.cycle + 1 → s.cycle + field w 17 2 + 7 ≤ last →
          z.units.mmas = [] → z.seq.arrayBusy ≠ s.cycle + 1 → lentTurn z (s.cycle + 1) g.val = true →
          Completes (.gmma t g w') s (fun u => OnlyTile t.val s u ∧
            (∃ x', groupAt (y u) g.val = some x' ∧ GroupOn x x' ∧ x'.regs = x.regs ∧ x'.preds = x.preds) ∧
            ∃ j : MmaJob, (y u).units = { z.units with mmas := [j] } ∧ j.bank = b ∧ j.k = field w 17 2 ∧ j.fa = field w 51 48 ∧
              j.fb = field w 47 44 ∧ j.at_ = s.cycle + 1 ∧ j.ge = some g.val))) ∧
      (gOpc w = 0x71 → field w 51 50 < 3 → field w 40 0 = 0 → gD w < regCount x →
        inLs z (gReg x (gD w) (lowLane x) / 64 * 64) (64 * (readBeats (field w 51 50) + 1)) = true →
        (z.seq.grant = none → Completes (.gread t g w') s (fun u => OnlyTile t.val s u ∧ TileGroups z (y u) ∧
          ∃ x', groupAt (y u) g.val = some x' ∧ x'.pend = .gread w ∧ x'.pc = x.pc + 8 ∧ x'.regs = x.regs)) ∧
        (∀ first last b, z.seq.grant = some (first, last, b) → first ≤ s.cycle + 1 → s.cycle + readBeats (field w 51 50) + 3 ≤ last →
          z.units.reads = [] → lentTurn z (s.cycle + 1) g.val = true →
          Completes (.gread t g w') s (fun u => OnlyTile t.val s u ∧
            (∃ x', groupAt (y u) g.val = some x' ∧ GroupOn x x' ∧ x'.regs = x.regs ∧ x'.preds = x.preds) ∧
            ∃ j : ReadJob, (y u).units = { z.units with reads := [j] } ∧ j.bank = b ∧ j.mode = field w 51 50 ∧
              j.clr = w.testBit 49 ∧ j.t = s.cycle ∧ j.ge = some g.val)))) ∧
    (∀ (t : TileId) (g : GSlot) (s : State) (x : Group) (w first last b : Nat),
      let z := tileAt s t.val
      computing z = true → z.ge.stopped = false → x.stopped = false → groupAt z g.val = some x →
      z.seq.grant = some (first, last, b) → first ≤ s.cycle + 1 → lentTurn z (s.cycle + 1) g.val = true →
      (x.pend = .gmma w → gOpc w = 0x70 → z.units.mmas = [] → z.seq.arrayBusy ≠ s.cycle + 1 →
        Completes (.gmmaStart t g) s (fun u => OnlyTile t.val s u ∧
          (s.cycle + field w 17 2 + 7 ≤ last → (∃ x', groupAt (tileAt u t.val) g.val = some x' ∧ x'.pend = .released) ∧
            ∃ j : MmaJob, (tileAt u t.val).units = { z.units with mmas := [j] } ∧ j.bank = b ∧ j.at_ = s.cycle + 1) ∧
          (last < s.cycle + field w 17 2 + 7 → tileAt u t.val = z))) ∧
      (x.pend = .gread w → gOpc w = 0x71 → z.units.reads = [] →
        Completes (.greadStart t g) s (fun u => OnlyTile t.val s u ∧
          (s.cycle + readBeats (field w 51 50) + 3 ≤ last → (∃ x', groupAt (tileAt u t.val) g.val = some x' ∧ x'.pend = .released) ∧
            ∃ j : ReadJob, (tileAt u t.val).units = { z.units with reads := [j] } ∧ j.bank = b ∧ j.mode = field w 51 50 ∧ j.t = s.cycle) ∧
          (last < s.cycle + readBeats (field w 51 50) + 3 → tileAt u t.val = z))))) ∧
  (
    (∀ (t : TileId) (s : State) (co : Cohort), let z := tileAt s t.val
      computing z = true → z.ge.stopped = false → z.ge.groups = [] → z.ge.activeSet = [] → z.ge.cohorts = [co] → co.next = 1 →
      1 < recGroups co.record → kernelEntry z (recKernel co.record) ≠ 0 → 0 < residentLimit z (kernelEntry z (recKernel co.record)) →
      Completes (.groupResident t) s (fun u => OnlyTile t.val s u ∧
        ∃ x, groupAt (tileAt u t.val) 0 = some x ∧ x.num = 1 ∧ x.cohort = co.id ∧ x.pc = kCode (kernelEntry z (recKernel co.record)) ∧
          x.regs = [] ∧ x.preds = [] ∧ x.active = BitVec.allOnes 32 ∧ x.exited = 0 ∧ x.stack = [] ∧ x.pend = .none ∧
          activeSlot (tileAt u t.val) 0 = some (0, s.cycle))) ∧
    (∀ (t : TileId) (g : GSlot) (s : State) (x : Group), let z := tileAt s t.val
      computing z = true → z.ge.stopped = false → z.ge.groups = [(g.val, some x)] → z.ge.activeSet = [] → x.pend = .released →
      x.stopped = false →
      Completes (.promotion t) s (fun u => OnlyTile t.val s u ∧ TileGroups z (tileAt u t.val) ∧
        groupAt (tileAt u t.val) g.val = some { x with pend := .none } ∧ activeSlot (tileAt u t.val) g.val = some (0, s.cycle + 2))) ∧
    (∀ (t : TileId) (g : GSlot) (s : State) (x : Group) (job : Job), jobOf s t.val = some job → groupAt (tileAt s t.val) g.val = some x →
      (∀ a b, x.pend ≠ .counter a b) → x.issueUs + job.forwardUs ≤ s.us → KillsPlainly s (partOf s t.val) →
      Completes (.forwardProgressTimeout t g) s (fun u => (partAt u (partOf s t.val)).job = none)) ∧
    (∀ (p : PartId) (s : State), (partAt s p.val).job ≠ none → KillsPlainly s p.val →
      Completes (.jobKill p .commanded) s (fun u => (partAt u p.val).job = none ∧ (partAt u p.val).faults.cause = 0x16)))

/-- R97, R77, R123, R29: the events of a tile that come with time. An accumulation completes in its cycle; a held array goes on
at the next multiple of 64 cycles; the bank of a grant returns when the last open cycle has passed; a requester that has lost
64 cycles in a row has each loss counted, and has its bank at once on a tile that makes no scheduled access. R121, R165,
R467: a wait that has lasted the wait timeout is a fault with code 0x05, and so is a stall; the job ends with cause 0x10 and
a record that names tile, bundle, LAYER and OPID. A wait whose counter has reached its threshold succeeds. The model's own
readings and choices it rests on: log entries 6, 26, 28. -/
def Obligations.TileEventsAndTimeouts : Prop :=
  (
    (∀ (t : TileId) (s : State) (j : MmaJob), Quiet s → computing (tileAt s t.val) = true →
      (tileAt s t.val).units.adds = [(s.cycle + 1, j)] →
      Completes (.accumulationComplete t) s (fun u => u.cycle = s.cycle + 1 ∧
        TileRan (tileCycle (epochStarts s (s.cycle + 1)) (usIn s (s.cycle + 1)) (s.cycle + 1) (tileAt s t.val)) (tileAt u t.val))) ∧
    (∀ (t : TileId) (s : State), Quiet s → (holdFields s.cycle (tileAt s t.val)).1 = 5 →
      Completes (.rampHoldEnd t) s (fun u => u.cycle % 64 = 0 ∧ s.cycle < u.cycle ∧ u.cycle ≤ s.cycle + 64 ∧
        ∀ j, TileRan (tileRun s (u.cycle - s.cycle) s.cycle (tileAt s j)) (tileAt u j))) ∧
    (∀ (t : TileId) (s : State) (first last bank : Nat), (tileAt s t.val).seq.grant = some (first, last, bank) → last < s.cycle →
      Completes (.grantEnd t) s (fun u => OnlyTile t.val s u ∧
        let q := { (tileAt s t.val).seq with grant := none }
        tileAt u t.val = { tileAt s t.val with seq := q })) ∧
    (∀ (t : TileId) (bank : Fin 32) (r : BankRequester) (s : State), Quiet s → computing (tileAt s t.val) = false →
      (tileAt s t.val).units.p1Cycle ≤ s.cycle → (tileAt s t.val).cnt.recs = [] →
      Completes (.bankWaitLimit t bank r) s (fun u => u.cycle = s.cycle + 64 ∧
        (tileAt u t.val).units = (takeBanks u.cycle (requesterOrder r) [bank.val] (tileAt s t.val)).units ∧
        (tileAt u t.val).cnt = (countEv 0x0F 64 (tileAt s t.val)).cnt ∧ (tileAt u t.val).ls = (tileAt s t.val).ls))) ∧
  (
    ∀ (t : TileId) (s : State) (job : Job),
      let p := partOf s t.val
      let q := (tileAt s t.val).seq
      let ended (u : State) : Prop :=
        (partAt u p).job = none ∧ (tileAt u t.val).regs.faultCode = 5 ∧
        (partAt u p).faults = ⟨[⟨s.cycle, t.val, 0, 5, 0, q.pc, 0, q.opid, q.layer, 0xFF⟩], 0, 0x10⟩
      (∀ ac thr, q.hold = .counter ac thr → thr ≤ acNow (tileAt s t.val) ac → Completes (.waitTimeout t none) s (fun u => u = s)) ∧
      (jobOf s t.val = some job → KillsPlainly s p → owedFaults s p = [] → (partAt s p).faults.faults = [] →
        (∀ ac thr, q.hold = .counter ac thr → acNow (tileAt s t.val) ac < thr → q.holdUs + job.waitUs ≤ s.us → Completes (.waitTimeout t none) s ended) ∧
        (q.hold = .mover ∨ q.hold = .sendQueue ∨ q.hold = .posts → q.holdUs + job.waitUs ≤ s.us → Completes (.sequencerStallTimeout t) s ended)))

/-- R31, R571, R383: a launch whose checks fail changes nothing; one that passes makes the image and a job of it, which waits
4,096 cycles for the wipe; every idle tile of the image is Loading at its entry with every register, unit, counter and group
zeroed, and every idle tile of the partition that the image does not name has an empty store. R89, R124, R125: FIRST_BUNDLE
starts every tile that START armed for the frame, in its first cycle, and the job runs; PHASE_RELOAD, once every running tile
has reported, loads the next phase with the registers of its image and queues anew and banks, counters and units kept;
JOB_CLOSE, once every tile has reported done, ends the job and its running tiles are Idle; before that it does nothing. The
model's own readings and choices it rests on: log entries 6, 27, 106. -/
def Obligations.JobsLaunchRunAndClose : Prop :=
  (
    ∀ (p : PartId) (img : Image) (s : State),
      ((partExists s p.val && (partAt s p.val).job.isNone && launchOk s p.val img false) = false →
        Completes (.launch p img) s (fun u => u = s)) ∧
      (partExists s p.val = true → (partAt s p.val).job = none → launchOk s p.val img false = true →
        Completes (.launch p img) s (fun u =>
          (partAt u p.val).image = some img ∧ (partAt u p.val).state = 3 ∧
          (∃ job, (partAt u p.val).job = some job ∧ job.lockstep = false ∧ job.started = false ∧ job.phase = 0 ∧
            job.readyAt = s.cycle + 4096) ∧
          (∀ x ∈ img.tiles, (tileAt s x.tile).regs.state = .idle →
            let q := { seqReset with pc := x.entry, layer := 0xFFFF, opid := 0xFFFF }
            (tileAt u x.tile).regs.state = .loading ∧ (tileAt u x.tile).seq = q ∧ (tileAt u x.tile).units = unitsReset ∧
            (tileAt u x.tile).acs = acsReset ∧ (tileAt u x.tile).ge = geReset ∧ (tileAt u x.tile).l1.lines = [] ∧
            (tileAt u x.tile).kernN = x.kernels.length) ∧
          ∀ t, inPart s p.val t = true → (tileAt s t).regs.state = .idle → (∀ x ∈ img.tiles, x.tile ≠ t) →
            (tileAt u t).ls = [] ∧ (tileAt u t).regs.state = .idle))) ∧
  (
    ∀ (p : PartId) (s : State) (job : Job), (partAt s p.val).job = some job →
      (∀ f, s.cycle = 512 * f → job.readyAt ≤ s.cycle → jobTiles s p.val ≠ [] →
        (∀ t ∈ jobTiles s p.val, (tileAt s t).seq.stream = .armed f ∧
          ((tileAt s t).regs.state = .loading ∨ (tileAt s t).regs.state = .running)) →
        Completes (.firstBundle p) s (fun u => u.cycle = s.cycle ∧ (partAt u p.val).state = 4 ∧
          (partAt u p.val).job = some { job with started := true } ∧
          ∀ t ∈ jobTiles s p.val, (tileAt u t).regs.state = .running ∧ (tileAt u t).seq.stream = .issuing ∧
            (tileAt u t).seq.nextIssue = s.cycle ∧ (tileAt u t).seq.pc = (tileAt s t).seq.pc)) ∧
      (∀ img ph, (partAt s p.val).image = some img → img.phases[job.phase]? = some ph → (ph.map (·.tile)).Nodup →
        (∃ t ∈ jobTiles s p.val, (tileAt s t).regs.state = .running) →
        (∀ t ∈ jobTiles s p.val, (tileAt s t).regs.state = .running → (tileAt s t).seq.stream = .phaseEnd true) →
        Completes (.phaseReload p) s (fun u =>
          (partAt u p.val).job = some { job with phase := job.phase + 1 } ∧
          (∀ x ∈ ph,
            let q := { seqReset with pc := x.entry, scope := x.scope, env := x.env,
                                     layer := (tileAt s x.tile).seq.layer, opid := (tileAt s x.tile).seq.opid }
            let q := x.a.zipIdx.foldl (fun q v => setA q v.2 v.1.toNat) q
            (tileAt u x.tile).seq = x.l.zipIdx.foldl (fun q v => setL q v.2 v.1.toNat) q ∧ (tileAt u x.tile).ports = [] ∧ (tileAt u x.tile).units = (tileAt s x.tile).units ∧
            (tileAt u x.tile).acs = (tileAt s x.tile).acs ∧ (tileAt u x.tile).l1 = (tileAt s x.tile).l1) ∧
          ∀ t, (∀ x ∈ ph, x.tile ≠ t) → (tileAt u t).seq = (tileAt s t).seq ∧ (tileAt u t).ls = (tileAt s t).ls)) ∧
      (let done (t : Nat) : Prop :=
        (tileAt s t).seq.stream = .ended true ∨ (tileAt s t).regs.state = .pruned ∨ (tileAt s t).regs.state = .routerFault
      ((∃ t ∈ jobTiles s p.val, ¬ done t) → Completes (.jobClose p) s (fun u => u = s)) ∧
      ((∀ t ∈ jobTiles s p.val, done t) → Completes (.jobClose p) s (fun u =>
        (partAt u p.val).job = none ∧ ((partAt s p.val).state = 4 → (partAt u p.val).state = 2) ∧
        ∀ t, inPart s p.val t = true → (tileAt s t).regs.state = .running →
          (tileAt u t).regs.state = .idle ∧ (tileAt u t).ls = (tileAt s t).ls))))

/-- R43, R44, R48, R50, R53: TILE_PRUNE by the operator, or a PRUNE that the firmware was asked for and that reaches the tile,
sets Pruning with F the first frame boundary at least 64 cycles on; at F the tile halts with its movers and groups stopped,
and a job that does not tolerate it ends; with its write-backs acknowledged, or 128,000 cycles after F, the tile is Pruned
with an empty L1, in the health map too. The model's own readings and choices it rests on: log entries 6, 25. -/
def Obligations.PruningHaltsAtAFrame : Prop :=
  (∀ (t : TileId) (d : DieId) (h : BitVec 32) (s : State), twType h = 1 → twClass h = 0 → twDest h = t.val → dieOf t.val = d.val →
    let z := twigArrive (twLen h) [t.val] (fun _ x => x) s
    twigUp z t.val = true → z.esp.pruneAsked.contains t.val = true → watched (tileAt z t.val) = true → (tileAt z t.val).prune = none →
    ((tileAt z t.val).regs.state = .loading → (tileAt z t.val).tolerant = true) →
    Completes (.prune ⟨d, h⟩) s (fun u => u = { z with tiles := u.tiles, esp := u.esp } ∧ (∀ j, j ≠ t.val → tileAt u j = tileAt z j) ∧
      (tileAt u t.val).regs = { (tileAt z t.val).regs with state := .pruning } ∧
      ∃ f, (tileAt u t.val).prune = some (f, false) ∧ f % 512 = 0 ∧ z.cycle + 64 ≤ f ∧ f < z.cycle + 576)) ∧
  (∀ (t : TileId) (v : BitVec 32) (s : State), LinkUp s → v.getLsbD 0 = true →
    let z := nextCycle (fun x => x) s
    twigUp z t.val = true → watched (tileAt z t.val) = true → (tileAt z t.val).prune = none → (tileAt z t.val).regs.state ≠ .loading →
    Completes (.tilePrune t .pf v) s (fun u => (tileAt u t.val).regs = { (tileAt z t.val).regs with state := .pruning } ∧
      ∃ f, (tileAt u t.val).prune = some (f, false) ∧ f % 512 = 0 ∧ z.cycle + 64 ≤ f ∧ f < z.cycle + 576)) ∧
  (∀ (t : TileId) (s : State) (f : Nat), (tileAt s t.val).prune = some (f, false) → f ≤ s.cycle →
    (tileAt s t.val).regs.partValid = true →
    let p := partOf s t.val
    ((tileAt s t.val).tolerant = true → Completes (.pruneFrameF t) s (fun u =>
      (tileAt u t.val).prune = some (f, true) ∧ (tileAt u t.val).seq.stream = .halted ∧ (tileAt u t.val).ge.stopped = true ∧
      (tileAt u t.val).cnt.stopped = true ∧ (∀ m, m < 4 → moverAt (tileAt u t.val) m = { moverAt (tileAt s t.val) m with queue := [], stopped := true }) ∧
      (tileAt u t.val).units.banks = (tileAt s t.val).units.banks ∧ (partAt u p).job = (partAt s p).job)) ∧
    ((tileAt s t.val).tolerant = false → KillsPlainly s p → Completes (.pruneFrameF t) s (fun u => (partAt u p).job = none))) ∧
  (∀ (t : TileId) (s : State) (f : Nat), (tileAt s t.val).prune = some (f, true) →
    let x := tileAt s t.val
    let pruned (u : State) : Prop := u = { s with tiles := u.tiles, ctl := u.ctl } ∧ (∀ j, j ≠ t.val → tileAt u j = tileAt s j) ∧
      (tileAt u t.val).regs = { x.regs with state := .pruned } ∧ healthOf u t.val = 1 ∧
      (tileAt u t.val).prune = none ∧ (tileAt u t.val).l1 = l1Reset ∧ (tileAt u t.val).ls = x.ls
    (x.l1.wbs = [] → dirtyLines x = [] → Completes (.pruneWritebackDone t) s pruned) ∧
    (x.l1.wbs ≠ [] ∨ dirtyLines x ≠ [] → Completes (.pruneWritebackDone t) s (fun u => u = s)) ∧
    (x.l1.wbs ≠ [] ∨ dirtyLines x ≠ [] → f + 128000 ≤ s.cycle → Completes (.pruneWritebackTimeout t) s pruned))

/-- R110, R111, R171, R172, R45: an entry that names the local port sends the queue's head to the next router, two cycles away
inside a die, or a null flit where null outputs are in force; one that names a mesh input passes on the flit that arrives
there in this cycle; an idle entry sends nothing. R112, R113, R169, R214, R216: a flit or lane unit that finds its ring empty
and a post placed before this cycle lands there: its bytes are stored, Poison marks its beats, and the post's counter counts
64 or 128 up to 2^48 - 1, beside the AC_SUBs of its cycle. With no post it joins the ring; at a full ring it is discarded and
counted in FC2. Frame: every other byte, port and counter. The model's own readings and choices it rests on: log entries 24,
30, 43. -/
def Obligations.SlotTableEntriesAndLandings : Prop :=
  (
    ∀ (t : TileId) (o : RouterOut) (link : LinkCheck) (s : State) (n : Nat),
      let x := tileAt s t.val
      let e := entryAt s t.val o.val s.cycle
      (field e 7 6 = 0 → Completes (.slotTableEntry t o link) s (fun u => u = s)) ∧
      (field e 7 6 = 1 → o.val < 4 → outTile t.val o.val = some n → crosses t.val n = false → fmGet 0 x.router.served o.val ≠ s.cycle + 1 →
        x.regs.state ≠ .off →
        (field e 5 3 = 4 → x.nullOut = true → Completes (.slotTableEntry t o link) s (fun u =>
          u.wires = s.wires ++ [⟨n, (o.val + 2) % 4, s.cycle + 2, ⟨3, false, 0, false, 0, 0, zeros 64⟩⟩] ∧ (tileAt u t.val).ports = x.ports)) ∧
        (∀ head rest, field e 5 3 = 4 → x.nullOut = false → x.cnt.traced = false → (portAt x 0).sendq = head :: rest → head.at_ < s.cycle →
          Completes (.slotTableEntry t o link) s (fun u =>
            u.wires = s.wires ++ [⟨n, (o.val + 2) % 4, s.cycle + 2,
              ⟨1, poisoned x head.addr 64, 0, false, 0, 0, memRead x.ls head.addr 64⟩⟩] ∧
            portAt (tileAt u t.val) 0 = { portAt x 0 with sendq := rest } ∧ (tileAt u t.val).ls = x.ls ∧
            ∀ j, j ≠ t.val → tileAt u j = tileAt s j)) ∧
        (∀ w, field e 5 3 < 4 → wireAt s t.val (field e 5 3) s.cycle = some w → w.flit.kind ≠ 0 →
          Completes (.slotTableEntry t o link) s (fun u =>
            u.wires = s.wires.erase w ++ [⟨n, (o.val + 2) % 4, s.cycle + 2, w.flit⟩] ∧ (tileAt u t.val).ports = x.ports ∧
            (tileAt u t.val).ls = x.ls)))) ∧
  (
    ∀ (t : TileId) (lane : Option Dir) (f : Flit) (s : State),
      let x := tileAt s t.val
      let p := match lane with
        | none => 0
        | some d => 1 + d.val
      let n := unitBytes p
      s.wires = [] → f.kind = 1 → f.data.length = n → x.regs.state = .running →
      (∀ post rest, (portAt x p).ring = [] → (portAt x p).posts = post :: rest → post.at_ < s.cycle →
        Completes (.flitLanding t lane f) s (fun u => OnlyTile t.val s u ∧
          (∀ a, memByte (tileAt u t.val).ls a = if post.addr ≤ a ∧ a < post.addr + n then f.data.getD (a - post.addr) 0 else memByte x.ls a) ∧
          (f.poison = true → ∀ b ∈ beatsOf post.addr n, b ∈ (tileAt u t.val).marks) ∧
          portAt (tileAt u t.val) p = { portAt x p with posts := rest } ∧ (∀ q, q ≠ p → portAt (tileAt u t.val) q = portAt x q) ∧
          (post.ac = none → (tileAt u t.val).acs = x.acs) ∧
          ∀ k, post.ac = some k → let v := (settleAcs s.cycle x).acs
            ∀ i, acNow (tileAt u t.val) i = min (2 ^ 48 - 1) (fmGet 0 v.now i + (if i = k then n else 0) - acTaken v i))) ∧
      ((portAt x p).posts = [] → (portAt x p).ring.length < ringSize p → Completes (.flitLanding t lane f) s (fun u => OnlyTile t.val s u ∧
        (tileAt u t.val).ls = x.ls ∧ (tileAt u t.val).acs = x.acs ∧
        portAt (tileAt u t.val) p = { portAt x p with ring := (portAt x p).ring ++ [⟨f.data, f.poison, false⟩] })) ∧
      ((portAt x p).posts = [] → (portAt x p).ring.length = ringSize p → x.cnt.stopped = false →
        Completes (.flitLanding t lane f) s (fun u => OnlyTile t.val s u ∧ (tileAt u t.val).ls = x.ls ∧
          (tileAt u t.val).ports = x.ports ∧ fmGet 0 (tileAt u t.val).cnt.fc 2 = min (2 ^ 48 - 1) (fmGet 0 x.cnt.fc 2 + 1))))

/-- R178–R180: in a dynamic cycle the owner's chosen flit leaves its buffer for the next router, and the output stays with its
packet until the last flit; with nothing to send, or no credit, the cycle carries an empty flit, which 0x8030 counts. R175,
R197, R372: TABLE_WR writes shadow entries of its tile only; SWAP names a frame at least two frames on; in its first cycle
the partition's shadow tables become active on every output whose table holds slots of the partition. The model's own
readings and choices it rests on: log entries 6, 41, 42. -/
def Obligations.DynamicCyclesAndShadowTables : Prop :=
  (
    ∀ (t : TileId) (o : RouterOut) (link : LinkCheck) (s : State) (n : Nat),
      let x := tileAt s t.val
      let e := entryAt s t.val o.val s.cycle
      field e 7 6 = 2 → o.val < 4 → outTile t.val o.val = some n → crosses t.val n = false → fmGet 0 x.router.served o.val ≠ s.cycle + 1 →
      x.regs.state ≠ .off →
      (pickDyn s t.val o.val (field e 5 1) = none → Completes (.dynamicCycle t o link) s (fun u =>
        u.wires = s.wires ∧ u.net = s.net ∧ fmGet 0 u.devCount 3 = min (2 ^ 64 - 1) (fmGet 0 s.devCount 3 + 1) ∧
        (tileAt u t.val).router.dyn = x.router.dyn)) ∧
      (∀ i vc f rest, pickDyn s t.val o.val (field e 5 1) = some (i, vc) → hasCredit s t.val o.val vc = true →
        dynBuf x.router i vc = f :: rest → Completes (.dynamicCycle t o link) s (fun u =>
          u.wires = s.wires ++ [⟨n, (o.val + 2) % 4, s.cycle + 2, f⟩] ∧ u.net = s.net ∧
          dynBuf (tileAt u t.val).router i vc = rest ∧
          (∀ i' vc', 4 * i' + vc' ≠ 4 * i + vc → dynBuf (tileAt u t.val).router i' vc' = dynBuf x.router i' vc') ∧
          fmGet none (tileAt u t.val).router.prog (progKey o.val (field e 5 1)) = (if f.last then none else some (4 * i + vc)) ∧
          fmGet 9 (tileAt u t.val).router.lastWin o.val = i)) ∧
      (∀ i vc, pickDyn s t.val o.val (field e 5 1) = some (i, vc) → hasCredit s t.val o.val vc = false →
        Completes (.dynamicCycle t o link) s (fun u => u.wires = s.wires ∧ fmGet 0 u.devCount 3 = min (2 ^ 64 - 1) (fmGet 0 s.devCount 3 + 1) ∧
          (tileAt u t.val).router.dyn = x.router.dyn))) ∧
  (
    (∀ (d : DieId) (t : TileId) (h w : BitVec 32) (rest : List (BitVec 32)) (s : State), HubTo h d t 0xC 2 → rest.length ≤ 6 →
      hasOutput t.val (field w.toNat 12 9) = true → let z := hubState h t s
      twigUp z t.val = true → Completes (.tableWr ⟨d, h⟩ (w :: rest)) s (fun u => OnlyTile t.val z u ∧
        (tileAt u t.val).router.active = (tileAt z t.val).router.active ∧
        ∀ k, fmGet 0 (tileAt u t.val).router.shadow k =
          let i := k - slotKey (field w.toNat 12 9) (field w.toNat 8 0)
          if slotKey (field w.toNat 12 9) (field w.toNat 8 0) ≤ k ∧ i < 4 * rest.length ∧ field w.toNat 8 0 + i < 512 then
            BitVec.ofNat 8 ((rest.getD (i / 4) 0).toNat / 2 ^ (8 * (i % 4)))
          else fmGet 0 (tileAt z t.val).router.shadow k)) ∧
    (∀ (d : DieId) (t : TileId) (h : BitVec 32) (frame : Nat) (s : State), HubTo h d t 0x6 0 → s.cycle / 512 + 2 ≤ frame →
      Completes (.swap ⟨d, h⟩ frame) s (fun u =>
        u = hubState h t { s with esp := { s.esp with swaps := fmSet none s.esp.swaps (twPart h) (some frame) } })) ∧
    (∀ (p : PartId) (s : State) (frame : Nat), s.esp.swaps = [(p.val, some frame)] → 512 * frame ≤ s.cycle →
      Completes (.swapFrame p) s (fun u => u.cycle = s.cycle ∧ u.esp.swaps = [] ∧
        ∀ t o k, inPart s p.val t = true → hasTable s p.val t o = true → fmWf 0 (tileAt s t).router.shadow = true → o < 10 → k < 512 →
          fmGet 0 (tileAt u t).router.active (slotKey o k) = fmGet 0 (tileAt s t).router.shadow (slotKey o k) ∧
          (tileAt u t).router.shadow = (tileAt s t).router.shadow)))

/-- R197, R466, R49, R200: a HEARTBEAT in its turn clears the missed count and leaves its words at the hub; with four periods
past without one a probe goes out, 2,048 cycles later a second by the other route, and 2,048 cycles after that the tile is
RouterFault; so it is when its router or Twig node fails, and every job that runs on it ends. The model's own readings and
choices it rests on: log entries 25, 44, 96. -/
def Obligations.HeartbeatsProbesAndRouterFaults : Prop :=
  ∀ (t : TileId) (s : State),
    let faulted (u : State) : Prop := (tileAt u t.val).regs.state = .routerFault ∧
      ∀ p, inPart s p t.val = true → (partAt u p).job = none
    (∀ st c pc, (tileAt s t.val).reports.find? isBeat = some (.heartbeat st c pc) → reportTurn s t.val (.heartbeat st c pc) = true →
      Completes (.heartbeat t) s (fun u => u = { s with tiles := u.tiles, esp := u.esp } ∧ Reported s u t.val (.heartbeat st c pc) ∧
        fmGet 0 u.esp.missed t.val = 0 ∧ fmGet [] u.esp.beats t.val = [BitVec.ofNat 32 st, c, pc] ∧
        fmGet 0 u.esp.beatAt t.val = s.cycle ∧ ∀ j, j ≠ t.val → fmGet 0 u.esp.missed j = fmGet 0 s.esp.missed j)) ∧
    (watched (tileAt s t.val) = true → fmGet 0 s.esp.probes t.val = 0 → fmGet 0 s.esp.beatAt t.val + 262144 ≤ s.cycle →
      Completes (.heartbeatMiss t) s (fun u => fmGet 0 u.esp.missed t.val = 4 ∧ fmGet 0 u.esp.probes t.val = 1 ∧
        fmGet 0 u.esp.probeAt t.val = s.cycle)) ∧
    (fmGet 0 s.esp.probeAt t.val + 2048 ≤ s.cycle → (tileAt s t.val).reports.any isReply = false →
      (fmGet 0 s.esp.probes t.val = 1 → Completes (.heartbeatProbeTimeout t) s (fun u =>
        fmGet 0 u.esp.probes t.val = 2 ∧ fmGet 0 u.esp.probeAt t.val = s.cycle)) ∧
      (fmGet 0 s.esp.probes t.val = 2 → (∀ x ∈ s.parts, KillsPlainly s x.1) → Completes (.heartbeatProbeTimeout t) s (fun u =>
        faulted u ∧ fmGet 0 u.esp.probes t.val = 0))) ∧
    (∀ twig : Bool, (tileAt s t.val).regs.state ≠ .off → (∀ x ∈ s.parts, KillsPlainly s x.1) → Completes (.routerFailure t twig) s (fun u =>
      faulted u ∧ healthOf u t.val = 2 ∧ (twig = true → (tileAt u t.val).regs.twigOk = false) ∧
      (twig = false → (tileAt u t.val).regs.routerOk = false)))

/-- R196–R200, R218, R89: what FENCE, KILL and START do at the tile they name, once the message's cycles have passed and if the
tile's node works, and FENCE_DONE at the hub. A reserved TYPE, or a CLASS that is not the type's, is discarded and counted.
Frame: no other tile differs. The model's own readings and choices it rests on: log entries 41, 99. -/
def Obligations.TwigOrdersReachTheirTiles : Prop :=
  (∀ (d : DieId) (t : TileId) (h : BitVec 32) (s : State), let z := hubState h t s
    twigUp z t.val = true → let y := tileAt z t.val
    (HubTo h d t 0x2 0 → Completes (.fence ⟨d, h⟩) s (fun u => OnlyTile t.val z u ∧
      let r := { y.router with fence := true }
      tileAt u t.val = { y with router := r })) ∧
    (HubTo h d t 0x4 0 → Completes (.kill ⟨d, h⟩) s (fun u => OnlyTile t.val z u ∧
      (tileAt u t.val).units.mmas = [] ∧ (tileAt u t.val).units.banks = y.units.banks ∧ (tileAt u t.val).ports = [] ∧
      (∀ m, m < 4 → moverAt (tileAt u t.val) m = { moverAt y m with queue := [], stopped := true }) ∧
      (tileAt u t.val).ge.groups = [] ∧ (tileAt u t.val).ge.launchQ = [] ∧ (tileAt u t.val).l1.wbuf = [] ∧ (tileAt u t.val).ls = y.ls ∧
      (tileAt u t.val).acs = y.acs ∧ (y.regs.state = .running ∨ y.regs.state = .loading → (tileAt u t.val).regs.state = .idle))) ∧
    (∀ frame, HubTo h d t 0x5 0 → s.cycle / 512 + 2 ≤ frame → y.regs.state = .loading → y.seq.stream = .idle →
      Completes (.start ⟨d, h⟩ frame) s (fun u => OnlyTile t.val z u ∧
        let q := { y.seq with stream := .armed frame }
        tileAt u t.val = { y with seq := q }))) ∧
  (∀ (d : DieId) (h : BitVec 32) (s : State), twType h = 0xF ∨ (twType h = 0x2 ∧ twClass h ≠ 0) →
    Completes (.fence ⟨d, h⟩) s (fun u => u = { s with esp := u.esp } ∧ u.esp.twigDropped = s.esp.twigDropped + 1)) ∧
  (∀ (t : TileId) (s : State), (tileAt s t.val).router.fence = true →
    (∀ x ∈ (tileAt s t.val).router.prog, ∀ k, x.2 = some k → k / 4 ≠ 8) →
    let z := updTile s t.val (fun y => { y with reports := y.reports ++ [.fenceDone] })
    reportTurn z t.val .fenceDone = true →
    Completes (.fenceDone t) s (fun u => u = { s with tiles := u.tiles, esp := u.esp } ∧ Reported z u t.val .fenceDone))

/-- R197, R39, R53, R165, R130, R132: register reads and writes over Twig, their data, events, and launch records. A read of
AC_VALUE_LO latches AC_VALUE_HI; a write reaches its register a cycle later; a fault event joins the faults of the tile's
partition; an internal error asks the prune of its tile. R475, R479, R494, R197: a hang SNAP_REQ stops the tile it reaches
and captures its record; a counter snapshot owes the 26 words of the completed bank in four messages; a class that does not
match the kind is discarded and counted; SNAP_DATA takes the words owed to the hub. The model's own readings and choices it
rests on: log entries 22, 72, 76, 94. -/
def Obligations.TwigRegistersEventsAndSnapshots : Prop :=
  (
    (∀ (d : DieId) (t : TileId) (h : BitVec 32) (s : State), let z := hubState h t s
      twigUp z t.val = true → let x := tileAt z t.val
      (HubTo h d t 0x7 2 →
        (∀ off, off ≠ 0x20 → Completes (.regRd ⟨d, h⟩ off) s (fun u => OnlyTile t.val z u ∧
          tileAt u t.val = { x with reports := x.reports ++ [.regData (twTag h) (BitVec.ofNat 32 (tileWord z.cycle t.val x off))] })) ∧
        Completes (.regRd ⟨d, h⟩ 0x20) s (fun u => OnlyTile t.val z u ∧
          let r := { x.regs with acHi := BitVec.ofNat 16 (acNow x x.regs.acSel.toNat / 2 ^ 32) }
          tileAt u t.val =
            { x with regs := r, reports := x.reports ++ [.regData (twTag h) (BitVec.ofNat 32 (acNow x x.regs.acSel.toNat))] })) ∧
      (∀ v : BitVec 32, HubTo h d t 0x8 2 →
        (let n := advanceTo z (z.cycle + 1)
         Completes (.regWr ⟨d, h⟩ 0x1C v) s (fun u => OnlyTile t.val n u ∧
          (tileAt u t.val).regs = { (tileAt n t.val).regs with acSel := v.setWidth 6 })) ∧
        Completes (.regWr ⟨d, h⟩ 0x28 v) s (fun u => u = nextCycle (fun s => updTile s t.val (fun y =>
          let r := { y.regs with mflags := y.regs.mflags &&& ~~~v.setWidth 12 }
          { y with regs := r })) z)) ∧
      (∀ r : BitVec 64, HubTo h d t 0xB 2 → kernelEntry x (recKernel r) ≠ 0 → x.ge.launchQ.length < 32 →
        Completes (.launchRec ⟨d, h⟩ r) s (fun u => OnlyTile t.val z u ∧
          (recGroups r ≠ 0 → (tileAt u t.val).ge.launchQ = x.ge.launchQ ++ [r] ∧ (tileAt u t.val).reports = x.reports) ∧
          (recGroups r = 0 → (tileAt u t.val).ge.launchQ = x.ge.launchQ ∧ (tileAt u t.val).reports = x.reports ++ [.cohort (recTag r)]))) ∧
      (∀ r : BitVec 64, HubTo h d t 0xB 2 → kernelEntry x (recKernel r) = 0 ∨ x.ge.launchQ.length = 32 →
        Completes (.launchRec ⟨d, h⟩ r) s (fun u => OnlyTile t.val z u ∧
          let e := { x.ge with refused := x.ge.refused + 1 }
          tileAt u t.val = { x with ge := e }))) ∧
    (∀ (t : TileId) (s : State), let x := tileAt s t.val
      (∀ tag v, Report.regData tag v ∈ x.reports → reportTurn s t.val (.regData tag v) = true →
        (fmGet 0 s.esp.probes t.val = 0 → Completes (.regData t ⟨tag, v⟩) s (fun u =>
          u = { s with tiles := u.tiles, esp := u.esp, out := s.out ++ [.regValue v] } ∧ Reported s u t.val (.regData tag v))) ∧
        (fmGet 0 s.esp.probes t.val ≠ 0 → Completes (.regData t ⟨tag, v⟩) s (fun u =>
          Reported s u t.val (.regData tag v) ∧ fmGet 0 u.esp.probes t.val = 0 ∧ t.val ∈ u.esp.pruneAsked))) ∧
      (∀ code f, x.reports.find? (isEvent (.fault code)) = some (.fault f) → reportTurn s t.val (.fault f) = true →
        (partAt s (partOf s t.val)).faults.cause = 0 → Completes (.event t (.fault code)) s (fun u => Reported s u t.val (.fault f) ∧
          (partAt u (partOf s t.val)).faults.faults = (partAt s (partOf s t.val)).faults.faults ++ [{ f with tile := t.val }])) ∧
      (twigUp s t.val = true → watched x = true → Completes (.event t .internalError) s (fun u =>
        u = { s with esp := u.esp } ∧ t.val ∈ u.esp.pruneAsked)))) ∧
  (
    (∀ (d : DieId) (t : TileId) (h : BitVec 32) (s : State), let z := hubState h t s
      twigUp z t.val = true → let x := tileAt z t.val
      (HubTo h d t 0xD 0 → x.frozen = false → Completes (.snapReq d h true) s (fun u =>
        tileAt u t.val = { x with captured := tileRecord z.cycle z.fresh t.val x, frozen := true } ∧ ∀ j, j ≠ t.val → tileAt u j = tileAt z j)) ∧
      (HubTo h d t 0xD 3 → Completes (.snapReq d h false) s (fun u => OnlyTile t.val z u ∧
        tileAt u t.val = { x with reports := x.reports ++ (snapWords x).map .snap }))) ∧
    (∀ (d : DieId) (h : BitVec 32) (hang : Bool) (s : State), twType h = 0xD → twClass h ≠ (if hang then 0 else 3) →
      Completes (.snapReq d h hang) s (fun u => u = { s with esp := u.esp } ∧ u.esp.twigDropped = s.esp.twigDropped + 1)) ∧
    (∀ (t : TileId) (s : State), twigUp s t.val = true → Completes (.counterSnapshot t) s (fun u => OnlyTile t.val s u ∧
      ∃ ws : List (List (BitVec 32)), (tileAt u t.val).reports = (tileAt s t.val).reports ++ ws.map .snap ∧
        ws.map List.length = [7, 7, 7, 5] ∧
        ws.flatten.take 2 = [BitVec.ofNat 32 (tileAt s t.val).cnt.done.seq,
          BitVec.ofNat 32 ((tileAt s t.val).cnt.done.layer * 2 ^ 16 + (tileAt s t.val).cnt.done.opid)])) ∧
    (∀ (t : TileId) (words : List (BitVec 32)) (s : State), words ≠ [] → words.length ≤ 7 → s.rcv.snap = none →
      Report.snap words ∈ (tileAt s t.val).reports → reportTurn s t.val (.snap words) = true → fmGet [] s.esp.cntSnap t.val = [] →
      Completes (.snapData t words) s (fun u => Reported s u t.val (.snap words) ∧ fmGet [] u.esp.cntSnap t.val = words)))

/-- R212, R216, R207, R222: a mover starts its next descriptor once it is read, the one before has sent its last byte and the
slots' earlier writes stand; an AC_SUB subtracts with a floor of 0, which sets ERR as its cycle ends; the oldest descriptor
retires once all is sent and answered. Frame: no other mover, counter or byte. R208, R209, R213, R30: a COPY whose checks
fail is a fault of its mover, with code and address of the first condition broken, and nothing moves; one from LS to LS sends
its next piece as an MW packet at once, one from DM to LS asks the home of its line; Poison in the source is a fault with
code 0x02. The piece leaves in this cycle where its banks are free. The model's own readings and choices it rests on: log
entries 35, 36, 98. -/
def Obligations.MoversExecuteDescriptors : Prop :=
  (
    ∀ (t : TileId) (m : MoverId) (s : State),
      let x := tileAt s t.val
      let mv := moverAt x m.val
      let others (u : State) : Prop := OnlyTile t.val s u ∧ (tileAt u t.val).ls = x.ls ∧
        ∀ j, j ≠ m.val → moverAt (tileAt u t.val) j = moverAt x j
      (∀ d rest, mv.queue = d :: rest → d.started = false → d.readAt < s.cycle → moverRuns x m.val = true →
        d.ge.isSome = true ∨ slotWritesEnd (d.readAt - 1) x ≤ s.cycle →
        Completes (.descriptorStart t m) s (fun u => others u ∧ (tileAt u t.val).acs = x.acs ∧
          moverAt (tileAt u t.val) m.val = { mv with queue := { d with started := true } :: rest })) ∧
      (∀ a d rest, mv.queue = a :: d :: rest → a.started = true → d.started = false → a.sent = false →
        Completes (.descriptorStart t m) s (fun u => u = s)) ∧
      (∀ d raw rest, mv.queue = d :: rest → d.started = true → d.sent = false → d.raw = some raw → moverRuns x m.val = true →
        dKind raw = 1 → subFieldsOk raw = true →
        Completes (.acSub t m) s (fun u => others u ∧
          let v := settleAcs s.cycle x
          let low (y : Tile) : Bool := (settleAcs (s.cycle + 1) y).regs.moverErr.getLsbD m.val
          (∀ i, acNow (tileAt u t.val) i =
            min (2 ^ 48 - 1) (fmGet 0 v.acs.now i - acTaken v.acs i - (if i = dAc raw then dAmount raw else 0))) ∧
          (tileAt u t.val).regs = v.regs ∧
          (fmGet 0 v.acs.now (dAc raw) < acTaken v.acs (dAc raw) + dAmount raw → low (tileAt u t.val) = true) ∧
          (v.acs.subs = [] → dAmount raw ≤ fmGet 0 v.acs.now (dAc raw) → low (tileAt u t.val) = v.regs.moverErr.getLsbD m.val) ∧
          moverAt (tileAt u t.val) m.val = { mv with queue := { d with sent := true } :: rest })) ∧
      (∀ d rest, mv.queue = d :: rest → d.sent = true → d.replies = [] → mv.stopped = false → x.acs.subs = [] →
        Completes (.descriptorRetire t m) s (fun u => others u ∧ (tileAt u t.val).acs = (settleAcs s.cycle x).acs ∧
          moverAt (tileAt u t.val) m.val = { mv with queue := rest, freed := s.cycle })) ∧
      (∀ d rest, mv.queue = d :: rest → d.sent = false ∨ d.replies ≠ [] → Completes (.descriptorRetire t m) s (fun u => u = s))) ∧
  (
    ∀ (t : TileId) (m : MoverId) (s : State) (x : Desc) (d : Nat),
      let y := tileAt s t.val
      let n (ents : List (Nat × Nat)) : Nat := pieceLen d ents 0
      let fault (code addr : Nat) (u : State) : Prop := OnlyTile t.val s u ∧ (tileAt u t.val).ls = y.ls ∧
        (moverAt (tileAt u t.val) m.val).stopped = true ∧ (tileAt u t.val).regs.faultCode = BitVec.ofNat 8 code ∧
        ∃ f : FaultRec, (tileAt u t.val).reports = y.reports ++ [.fault f] ∧ f.code = code ∧ f.addr = addr ∧ f.engine = 2 + m.val
      current y m.val = some x → x.raw = some d → x.pos = 0 → dKind d = 0 → moverRuns y m.val = true → windowWaits s t.val x = false →
      (∀ code addr, copyCheck s t.val d = .error (code, addr) → Completes (.copy t m) s (fault code addr)) ∧
      (copyCheck s t.val d = .ok [] → dZero d = false → dSrcSp d = 0 → dDstSp d = 0 →
        BanksFree s t.val (3 + m.val) (dSrc d) (n []) →
        (poisoned y (dSrc d) (n []) = true → Completes (.copy t m) s (fun u => (tileAt u t.val).regs.faultCode = 2 ∧
          (moverAt (tileAt u t.val) m.val).stopped = true ∧ u.net = s.net)) ∧
        (poisoned y (dSrc d) (n []) = false → Completes (.copy t m) s (fun u =>
          (tileAt u t.val).ls = y.ls ∧ n [] ≤ 128 ∧
          u.net = s.net ++ [.mw ⟨mwHdr t.val m.val (dDstTile d) (dDst d) (n []) (dAc d), memRead y.ls (dSrc d) (n []), false, 0⟩ none]))) ∧
      (∀ i e, copyCheck s t.val d = .ok [(i, e)] → dZero d = false → dSrcSp d = 1 → dDstSp d = 0 → rHits e (dSrc d) = true → rTarget e = 0 →
        Completes (.copy t m) s (fun u => ∃ msg, u.net = s.net ++ [toHome s t.val tMRD msg] ∧
          msg.line = rAddr e (dSrc d) / 128 ∧ msg.off = rAddr e (dSrc d) % 128 ∧ msg.mover = m.val ∧ msg.part = partOf s t.val ∧
          msg.mw = mwHdr t.val m.val (dDstTile d) (dDst d) (n [(i, e)]) (dAc d))))

/-- R213, R215, R46, R209, R212: an MW packet lands its bytes, counts them and is answered with MACK status 0; a pruned tile
answers with status 1 and an offset outside LS with status 2, and neither stores a byte; a MACK answers for the oldest
descriptor that awaits it, sets ERR on status 1 and is a translation fault on status 2. R271–R273: a lookup that finds a
range puts its slot in front of the tile's lookaside; one that finds none is a fault with code 0x01 at the address. Frame:
tables and data are as before. The model's own readings and choices it rests on: log entries 21, 30, 36, 98. -/
def Obligations.MoverPacketsAndRangeLookups : Prop :=
  (
    (∀ (x : MwPacket) (s : State),
      let h := x.hdr
      let y := tileAt s h.dst
      let v := (settleAcs s.cycle y).acs
      let mack (status : Nat) : NetMsg := .mack { h with cnt := false, status := status }
      s.net = [.mw x none] → lostOnLink s (.mw x none) = false → h.dst < nTiles → 0 < h.len8 → x.data.length = 8 * h.len8 →
      (y.regs.state = .running → y.prune = none → inLs y h.off (8 * h.len8) = true → BanksFree s h.dst (landKey x none) h.off (8 * h.len8) →
        Completes (.mw x) s (fun u =>
          (∀ a, memByte (tileAt u h.dst).ls a =
            if h.off ≤ a ∧ a < h.off + 8 * h.len8 then x.data.getD (a - h.off) 0 else memByte y.ls a) ∧
          (h.cnt = true → u.net = [mack 0] ∧ ∀ i, acNow (tileAt u h.dst) i =
            min (2 ^ 48 - 1) (fmGet 0 v.now i + (if i = h.ac % 64 then 8 * h.len8 else 0) - acTaken v i)) ∧
          (h.cnt = false → (tileAt u h.dst).acs = y.acs ∧ u.net = [.coh (.tile h.srcTile) none tCNT
            { cmsg (partOf s h.dst) 0 0x1FFF 0 with ac := h.ac, count := 8 * h.len8, cntTile := 0x1FFF }, mack 0]) ∧
          (x.poison = true → x.clean = 0 → ∀ b ∈ beatsOf h.off (8 * h.len8), b ∈ (tileAt u h.dst).marks))) ∧
      (y.regs.state = .running → y.prune = none → inLs y h.off (8 * h.len8) = false → Completes (.mw x) s (fun u => u.net = [mack 2] ∧
        (tileAt u h.dst).ls = y.ls ∧ (tileAt u h.dst).acs = y.acs)) ∧
      (y.regs.state = .pruned → Completes (.mw x) s (fun u => u.net = [mack 1] ∧ (tileAt u h.dst).ls = y.ls ∧
        (tileAt u h.dst).acs = y.acs))) ∧
    (∀ (h : MwHdr) (s : State) (d : Desc),
      let y := tileAt s h.srcTile
      let z (u : State) : Tile := tileAt u h.srcTile
      s.net = [.mack h] → lostOnLink s (.mack h) = false → h.srcTile < nTiles → h.mover < 4 → (moverAt y h.mover).queue = [d] → d.replies = [keyLs h.dst h.off] →
      (h.status = 0 → Completes (.mack h) s (fun u => (moverAt (z u) h.mover).queue = [{ d with replies := [] }] ∧
        (z u).regs = y.regs ∧ (z u).ls = y.ls)) ∧
      (h.status = 1 → Completes (.mack h) s (fun u => (moverAt (z u) h.mover).queue = [{ d with replies := [] }] ∧
        (z u).regs = { y.regs with moverErr := y.regs.moverErr ||| BitVec.ofNat 4 (2 ^ h.mover) } ∧ (z u).ls = y.ls)) ∧
      (h.status = 2 → Completes (.mack h) s (fun u => (moverAt (z u) h.mover).stopped = true ∧ (z u).regs.faultCode = 1 ∧
        (z u).ls = y.ls)))) ∧
  (
    ∀ (t : TileId) (va : BitVec 64) (s : State),
      (∀ i e, va.toNat < 2 ^ 52 → findRange s (partOf s t.val) va.toNat = some (i, e) →
        Completes (.rangeLookup t va) s (fun u => (tileAt u t.val).look.head? = some i ∧ (tileAt u t.val).look.length ≤ 32 ∧
          (tileAt u t.val).ls = (tileAt s t.val).ls ∧ (tileAt u t.val).reports = (tileAt s t.val).reports ∧
          ∀ p, (xlAt u p).table = (xlAt s p).table)) ∧
      (va.toNat < 2 ^ 52 → findRange s (partOf s t.val) va.toNat = none → computing (tileAt s t.val) = true →
        Completes (.rangeLookup t va) s (fun u => OnlyTile t.val s u ∧ (tileAt u t.val).regs.faultCode = 1 ∧
          (tileAt u t.val).ls = (tileAt s t.val).ls ∧
          ∃ f : FaultRec, (tileAt u t.val).reports = (tileAt s t.val).reports ++ [.fault f] ∧ f.code = 1 ∧ f.addr = va.toNat)))

/-- R242, R244, R251, R257, R263: what a home with the line's data and no copy outside does for GETS, GETM, RDU, WRU, DMW,
ATOMIC, DISCARD and MRD: the grant or answer it sends, and what its data array and directory hold then; for a DMW the count
goes ahead, and carries the answer with it. Nothing else is in flight; a message is taken in the cycle that follows its
arrival. The model's own readings and choices it rests on: log entries 30, 32, 33, 34. -/
def Obligations.HomesServeRequests : Prop :=
  (∀ (h : SliceId) (s : State), clockOn s = true → portsBusy s = false → busySlices s = [h.val] →
    let z := serveSlice s h.val
    advanceTo s (s.cycle + 1) = passLanes (laneWires z).length (s.cycle + 1) z) ∧
  ∀ (h : SliceId) (m : CMsg) (s : State) (x : HLine), AtHome s h.val m → HomeHolds s h.val m.line x →
    let r := m.tile.toNat
    let dir (u : State) : DirEntry := dirAt u h.val m.line
    let line (u : State) : Option HLine := hlineAt u h.val m.line
    let ack : NetMsg := ackMsg m false
    (dirRoom s h.val tGETS m = .room →
      (m.smask = 0 → Serves (.gets h m) s h.val (fun u => u.net = [ack] ∧ dir u = dirReset ∧ line u = some x)) ∧
      (m.smask = 15 → Serves (.gets h m) s h.val (fun u => u.net = [fromHome r tDATA (dataMsg m 15 2 x.data false)] ∧
        (dir u).st = .em ∧ (dir u).owner = some r ∧ (dir u).sharers = [] ∧ line u = some x)) ∧
      (m.smask ≠ 0 → m.smask ≠ 15 → Serves (.gets h m) s h.val (fun u => u.net = [fromHome r tDATA (dataMsg m m.smask 1 x.data false)] ∧
        (dir u).st = .s ∧ (dir u).owner = none ∧ (dir u).sharers = [r] ∧ line u = some x))) ∧
    (dirRoom s h.val tGETM m = .room → Serves (.getm h m) s h.val (fun u =>
      u.net = [fromHome r tDATA (dataMsg m 15 3 x.data false)] ∧ (dir u).st = .em ∧ (dir u).owner = some r ∧ line u = some x)) ∧
    (m.smask ≠ 0 → Serves (.rdu h m) s h.val (fun u => u.net = [fromHome r tDATA (dataMsg m m.smask 0 x.data false)] ∧
      dir u = dirReset ∧ line u = some x)) ∧
    (m.data.length = 128 → cMask m = 2 ^ 128 - 1 →
      Serves (.wru h m) s h.val (fun u => u.net = [ack] ∧ dir u = dirReset ∧ line u = some ⟨m.data, true, false⟩) ∧
      (m.cntTile < nTiles → Serves (.dmw h m) s h.val (fun u => u.net = [cntMsg m 128] ∧ dir u = dirReset ∧
        line u = some ⟨m.data, true, false⟩))) ∧
    (cMask m ≠ 0 → cMask m ≠ 2 ^ 128 - 1 → Serves (.wru h m) s h.val (fun u => u.net = [ack] ∧ dir u = dirReset ∧
      line u = some ⟨mergeMask x.data m.data (cMask m), true, false⟩)) ∧
    (let old := leAt x.data m.off m.size
     let step (a : Nat) (o : Nat × Nat) : Nat := atomicOp m.aop m.size a o.1 o.2
     let after : HLine := ⟨x.data.take m.off ++ natLe m.size (m.ops.foldl step old) ++ x.data.drop (m.off + m.size), true, false⟩
     (m.count = 0 → Serves (.atomic h m) s h.val (fun u => u.net = [ack] ∧ line u = some after)) ∧
     (m.count = 1 → Serves (.atomic h m) s h.val (fun u => line u = some after ∧
       u.net = [fromHome r tATOMR { homeMsg m with
         vals := (List.range m.ops.length).map (fun i => (m.ops.take i).foldl step old), size := m.size }]))) ∧
    Serves (.addToLine h m) s h.val (fun u => u.net = [] ∧ line u = some x ∧ (sliceAt u h.val).adds = (sliceAt s h.val).adds ++ [m]) ∧
    Serves (.discard h m) s h.val (fun u => u.net = [ack] ∧ dir u = dirReset ∧ line u = some ⟨zeros 128, false, true⟩) ∧
    (∀ tile off cnt ac, m.vals = [0, lsDest tile off, cnt, ac, 0] → off < 2 ^ 64 → 0 < m.mw.len8 → m.off + 8 * m.mw.len8 ≤ 128 →
      off % 128 + 8 * m.mw.len8 ≤ 128 → Serves (.mrd h m) s h.val (fun u => dir u = dirReset ∧ line u = some x ∧
        u.net = [.mw ⟨mwHdr m.mw.srcTile m.mw.mover tile off (8 * m.mw.len8) ac, (x.data.drop m.off).take (8 * m.mw.len8), false, 0⟩
          (some (sliceDie (homeOf s m.part m.line)))]))

/-- R241, R246, R250, R251: a home whose line a tile owns forwards to the owner, one whose line tiles share invalidates them, and
the request waits; further requests of the line wait behind it in arrival order; a message of another partition is discarded
and counted (R239). The model's own readings and choices it rests on: log entries 30, 32. -/
def Obligations.HomesForwardInvalidateAndQueue : Prop :=
  ∀ (h : SliceId) (m : CMsg) (s : State),
    let r := m.tile.toNat
    let e := dirAt s h.val m.line
    let awaits (u : State) (typ : Nat) (ts : List Nat) : Prop :=
      dirAt u h.val m.line = e ∧ hlineAt u h.val m.line = hlineAt s h.val m.line ∧
      ∃ t, txnOn u h.val m.line = some t ∧ t.typ = typ ∧ t.msg = m ∧ t.awaits = ts ∧ t.opened = s.cycle
    let fwd (o typ req : Nat) (smask : BitVec 4) (n : Nat) : NetMsg := fromHome o typ { cmsg m.part m.line req smask with count := n }
    let inv (t : Nat) : NetMsg := fromHome t tINV (cmsg m.part m.line 0x1FFF 0)
    (AtHome s h.val m → m.smask ≠ 0 → cMask m ≠ 0 → fillLost s h.val m.line = false →
      (∀ o, e.st = .em → e.owner = some o → e.sharers = [] → e.vec = none → o ≠ r →
        Serves (.gets h m) s h.val (fun u => u.net = [fwd o tFWDS r m.smask 0] ∧ awaits u tGETS [o]) ∧
        Serves (.getm h m) s h.val (fun u => u.net = [fwd o tFWDM r 15 0] ∧ awaits u tGETM [o]) ∧
        Serves (.rdu h m) s h.val (fun u => u.net = [fwd o tFWDS r m.smask 1] ∧ awaits u tRDU [o]) ∧
        Serves (.wru h m) s h.val (fun u => u.net = [fwd o tRECALL 0x1FFF 15 0] ∧ awaits u tWRU [o]) ∧
        Serves (.mrd h m) s h.val (fun u => u.net = [fwd o tFWDS 0x1FFF 15 1] ∧ awaits u tMRD [o]) ∧
        Serves (.discard h m) s h.val (fun u => u.net = [inv o] ∧ awaits u tDISCARD [o])) ∧
      (∀ ts, e.st = .s → e.owner = none → e.sharers = ts → ts ≠ [] → r ∉ ts → e.vec = none →
        Serves (.getm h m) s h.val (fun u => u.net = ts.map inv ∧ awaits u tGETM ts) ∧
        Serves (.dmw h m) s h.val (fun u => u.net = ts.map inv ∧ awaits u tDMW ts) ∧
        Serves (.atomic h m) s h.val (fun u => u.net = ts.map inv ∧ awaits u tATOMIC ts))) ∧
    (∀ c typ, (c, typ) ∈ [(Instr.gets h m, tGETS), (.getm h m, tGETM), (.rdu h m, tRDU), (.wru h m, tWRU), (.atomic h m, tATOMIC),
        (.addToLine h m, tLADD), (.discard h m, tDISCARD), (.mrd h m, tMRD), (.dmw h m, tDMW)] → s.net = [] → (sliceAt s h.val).inbox = [] →
      (ownsSlice s h.val m = true → (txnOn s h.val m.line).isSome = true → Serves c s h.val (fun u =>
        sliceAt u h.val = { sliceAt s h.val with queue := (sliceAt s h.val).queue ++ [(typ, m)] })) ∧
      (ownsSlice s h.val m = false → Serves c s h.val (fun u =>
        sliceAt u h.val = { sliceAt s h.val with misroute := (sliceAt s h.val).misroute + 1 })))

/-- R251–R254, R246: the replies that close a transaction. After the last invalidation reply a GETM has its M grant; an owner's
FWD_ACK leaves the line shared, or owned with a new sharer; WB_IN_FLIGHT keeps the transaction open for the WB, whose sectors
are merged; a reply nobody awaits is late: LATE is set and the sender loses its copy. The model's own readings and choices it
rests on: log entries 30, 32, 33. -/
def Obligations.RepliesCloseTransactions : Prop :=
  ∀ (h : SliceId) (m : CMsg) (s : State) (t : Txn) (x : HLine),
    let who := m.tile.toNat
    let r := t.msg.tile.toNat
    let e := dirAt s h.val m.line
    let granted (u : State) : Prop := txnOn u h.val m.line = none ∧ (dirAt u h.val m.line).st = .em ∧
      (dirAt u h.val m.line).owner = some r ∧ u.net = [fromHome r tDATA (dataMsg t.msg 15 3 x.data false)]
    (OneTxn s h.val m t → t.wbWait = false → t.adding = false → t.gave = none →
      (t.typ = tGETM → t.awaits = [who] → e.st = .s → e.owner = none → hlineAt s h.val m.line = some x → x.discarded = false →
        Serves (.invAck (.home h) m) s h.val granted ∧ Serves (.notPresent (.home h) m) s h.val granted) ∧
      (∀ d : DieId, t.typ = tGETM → t.awaits = [0x1FF0 + d.val] → e.st = .s → e.owner = none → hlineAt s h.val m.line = some x →
        x.discarded = false → Serves (.ringAck h d m) s h.val granted) ∧
      (t.typ = tGETS → t.awaits = [who] → e.st = .em → e.owner = some who → e.sharers = [] → e.vec = none → who ≠ r →
        (m.info = 1 → Serves (.fwdAck h m) s h.val (fun u => u.net = [] ∧ txnOn u h.val m.line = none ∧
          (dirAt u h.val m.line).st = .s ∧ (dirAt u h.val m.line).owner = none ∧ (dirAt u h.val m.line).sharers = [who, r])) ∧
        (m.info = 2 → Serves (.fwdAck h m) s h.val (fun u => u.net = [] ∧ txnOn u h.val m.line = none ∧
          (dirAt u h.val m.line).st = .o ∧ (dirAt u h.val m.line).owner = some who ∧ (dirAt u h.val m.line).sharers = [r]))) ∧
      (t.awaits = [who] → t.gotWb = false → Serves (.wbInFlight h m) s h.val (fun u => u.net = [] ∧
        txnOn u h.val m.line = some { t with awaits := [], wbWait := true }))) ∧
    (AtHome s h.val m → e.st ≠ .p → e.owner = some who → e.sharers = [] → e.vec = none → m.smask ≠ 0 → hlineAt s h.val m.line = some x →
      x.discarded = false → Serves (.wb h m) s h.val (fun u => u.net = [ackMsg m false] ∧ dirAt u h.val m.line = dirReset ∧
        hlineAt u h.val m.line = some ⟨mergeSectors x.data m.data m.smask, true, false⟩)) ∧
    (AtHome s h.val m → Serves (.invAck (.home h) m) s h.val (fun u => (sliceAt u h.val).late = true ∧
      u.net = [fromHome who tINV (cmsg m.part m.line 0x1FFF 0)] ∧ hlineAt u h.val m.line = hlineAt s h.val m.line))

/-- R246: a ring agent invalidates the tiles of the partition on its die, and answers the home itself where there is none; after
the last of their replies it reports the copies dropped. R253: a home timeout makes the line Poison, answers the requester
with POISON, sets TIMEOUT, and reports the silent tiles. R258, R259: the adder, free again two cycles later, applies the
oldest waiting LADD to its line and acknowledges it. An INT32 line is added element by element modulo 2^32, a window-form
line element by element by the window form's addition (WindowFormAdditions). The model's own readings and choices it rests
on: log entries 6, 33. -/
def Obligations.RingAgentsTimeoutsAndAdditions : Prop :=
  (
    (∀ (d : DieId) (h : SliceId) (m : CMsg) (s : State), s.net = [] → m.count = 2 ^ d.val →
      (partTiles s m.part).filter (fun t => dieOf t = d.val && t ≠ m.tile.toNat) = [] →
      Completes (.ringInv d h m) s (fun u =>
        u.net = [.coh (.home h.val) none tRINGACK { cmsg m.part m.line (0x1FF0 + d.val) 0 with count := 0 }])) ∧
    (∀ (d : DieId) (h : SliceId) (m : CMsg) (s : State) (ts : List Nat), s.net = [] → m.count = 2 ^ d.val →
      (partTiles s m.part).filter (fun t => dieOf t = d.val && t ≠ m.tile.toNat) = ts → ts ≠ [] →
      Completes (.ringInv d h m) s (fun u =>
        u.net = ts.map (fun t => fromHome t tINV (cmsg m.part m.line (0x1FF0 + d.val) 0)) ∧
        fmGet [] u.rings d.val = fmGet [] s.rings d.val ++ [⟨m.line, h.val, m.part, m.tile.toNat, ts, 0, []⟩])) ∧
    (∀ (d : DieId) (m : CMsg) (s : State) (j : RingJob), s.net = [] → fmGet [] s.rings d.val = [j] → j.line = m.line → j.part = m.part →
      j.awaits = [m.tile.toNat] →
      let ack (n : Nat) : NetMsg := .coh (.home j.home) none tRINGACK { cmsg j.part j.line (0x1FF0 + d.val) 0 with count := n }
      Completes (.invAck (.ring d) m) s (fun u => u.net = [ack (j.dropped + 1)] ∧ fmGet [] u.rings d.val = []) ∧
      Completes (.notPresent (.ring d) m) s (fun u => u.net = [ack j.dropped] ∧ fmGet [] u.rings d.val = [])) ∧
    (∀ (h : SliceId) (line : Nat) (s : State) (t : Txn), (sliceAt s h.val).txns = [t] → t.msg.line = line → (sliceAt s h.val).queue = [] →
      t.awaits ≠ [] → t.typ = tGETS → (dirAt s h.val line).st ≠ .i → t.opened + 128000 ≤ s.cycle →
      Completes (.homeTimeout h line) s (fun u => txnOn u h.val line = none ∧ (dirAt u h.val line).st = .p ∧
        (dirAt u h.val line).owner = none ∧ (sliceAt u h.val).timeout = true ∧
        u.net = s.net ++ [fromHome t.msg.tile.toNat tDATA (dataMsg t.msg t.msg.smask 0 (zeros 128) true)] ∧
        u.homeReports = s.homeReports ++ [⟨h.val, line, t.awaits⟩]))) ∧
  (
    (∀ (h : SliceId) (s : State) (m : CMsg) (rest : List CMsg) (x : HLine), (sliceAt s h.val).adds = m :: rest →
      (sliceAt s h.val).queue = [] → (sliceAt s h.val).addFree ≤ s.cycle → HomeHolds s h.val m.line x → Completes (.lineAddition h) s (fun u =>
        hlineAt u h.val m.line = some ⟨laddLine m.info.toNat x.data m.data, true, false⟩ ∧ (sliceAt u h.val).adds = rest ∧
        (sliceAt u h.val).addFree = s.cycle + 2 ∧ txnOn u h.val m.line = none ∧ u.net = s.net ++ [ackMsg m false])) ∧
    (∀ (a b : List Byte) (i : Nat), a.length = 128 → b.length = 128 → i < 32 →
      leAt (laddLine 0 a b) (4 * i) 4 = (leAt a (4 * i) 4 + leAt b (4 * i) 4) % 2 ^ 32) ∧
    (∀ (a b : List Byte) (i : Nat), a.length = 128 → b.length = 128 → i < 16 →
      toSigned 64 (leAt (laddLine 2 a b) (8 * i) 8) = winAdd (toSigned 64 (leAt a (8 * i) 8)) (toSigned 64 (leAt b (8 * i) 8))))

/-- R260: in the window form −2^63 is invalid, 2^63 − 1 and −(2^63 − 1) are the saturation codes. Each addition gives what the
rule's table says; and finite addends whose positive and negative parts stay within the bound sum exactly, whatever their
order, and outside it the result is the exact sum, a saturation code or invalid. -/
def Obligations.WindowFormAdditions : Prop :=
  let nan : Int := -2 ^ 63
  let inf : Int := 2 ^ 63 - 1
  let top : Int := 2 ^ 63 - 2
  (∀ a b : Int, -2 ^ 63 ≤ a → a < 2 ^ 63 → -2 ^ 63 ≤ b → b < 2 ^ 63 →
    ((a = nan ∨ b = nan) → winAdd a b = nan) ∧ ((a = inf ∧ b = -inf ∨ a = -inf ∧ b = inf) → winAdd a b = nan) ∧
    (a = inf → b ≠ nan → b ≠ -inf → winAdd a b = inf) ∧ (a = -inf → b ≠ nan → b ≠ inf → winAdd a b = -inf) ∧
    (b = inf → a ≠ nan → a ≠ -inf → winAdd a b = inf) ∧ (b = -inf → a ≠ nan → a ≠ inf → winAdd a b = -inf) ∧
    (|a| ≤ top → |b| ≤ top → (|a + b| ≤ top → winAdd a b = a + b) ∧ (top < a + b → winAdd a b = inf) ∧ (a + b < -top → winAdd a b = -inf))) ∧
  (∀ (x : Int) (as : List Int), |x| ≤ top → (∀ a ∈ as, |a| ≤ top) →
    let all := x :: as
    let plus := (all.map (fun a => max a 0)).sum
    let minus := (all.map (fun a => min a 0)).sum
    let r := as.foldl winAdd x
    (plus ≤ top → -top ≤ minus → r = all.sum) ∧ (r = all.sum ∨ r = inf ∨ r = -inf ∨ r = nan))

/-- R241, R247, R252: what an L1 that holds the line answers. FWD_S to an E copy leaves S and sends clean data, to an M copy
leaves O; FWD_M and RECALL take the line away, RECALL with its dirty sectors; INV drops it; a tile without the line, or a
Pruned one, answers NOT_PRESENT. The messages go in the order written, in this cycle where the banks of the line's way are
free. The model's own readings and choices it rests on: log entries 30, 31. -/
def Obligations.L1sAnswerForwardsAndInvalidations : Prop :=
  ∀ (t : TileId) (m : CMsg) (s : State), s.net = [] → (tileAt s t.val).regs.state = .running → m.tile.toNat < nTiles →
    let x := l1Line (tileAt s t.val) m.line
    WayFree s t.val m.line → x.sbe = [] → x.dbe = [] →
    let y (u : State) : L1Line := l1Line (tileAt u t.val) m.line
    let home : NetDst := .home (homeOf s m.part m.line)
    let toReq (info : Nat) (smask dmask : BitVec 4) : NetMsg := .coh (.tile m.tile.toNat) (some t.val) tDATA
      { cmsg m.part m.line t.val smask with info := BitVec.ofNat 3 info, dmask := dmask, data := packSectors x.data smask }
    let fwdAck (info : Nat) (smask : BitVec 4) : NetMsg := .coh home (some t.val) tFWDACK
      { cmsg m.part m.line t.val smask with info := BitVec.ofNat 3 info, dmask := smask, data := packSectors x.data smask }
    let absent (d : NetDst) : NetMsg := .coh d (some t.val) tNOTPRES (cmsg m.part m.line t.val 0)
    (x.st = .e → m.count = 0 → Completes (.fwdS t m) s (fun u => u.net = [toReq 1 m.smask 0, fwdAck 1 0] ∧ y u = { x with st := .s })) ∧
    (x.st = .m → m.count = 0 → Completes (.fwdS t m) s (fun u => u.net = [toReq 1 m.smask 0, fwdAck 2 0] ∧ y u = { x with st := .o })) ∧
    (x.st = .m → Completes (.fwdM t m) s (fun u => u.net = [toReq 3 15 x.dirty, fwdAck 0 0] ∧ y u = l1LineReset)) ∧
    (x.st = .m → Completes (.recall t m) s (fun u => u.net = [fwdAck 0 x.dirty] ∧ y u = l1LineReset)) ∧
    (x.st ≠ .i → Completes (.inv t m) s (fun u =>
      u.net = [.coh home (some t.val) tINVACK (cmsg m.part m.line t.val 0)] ∧ y u = l1LineReset)) ∧
    (x = l1LineReset → (tileAt s t.val).l1.wbs = [] → (tileAt s t.val).l1.wbuf = [] → (tileAt s t.val).l1.miss = [] →
      ∀ c, c ∈ [Instr.fwdS t m, .fwdM t m, .recall t m, .inv t m] → Completes c s (fun u => u.net = [absent home] ∧ y u = l1LineReset))

/-- R231–R235, R244, R252, R256, R212, R215: what DATA, ACK, ATOMR and CNT do at a tile. A grant installs the line in S, E or M,
a GETM's with the buffered stores merged; DATA after an INV installs nothing; an ACK frees its write-back entry, completes
its write, or answers a mover, a write of an acquire leaves the group's memory instructions free in the next cycle; POISON is
a fault with code 0x02; CNT counts bytes, at a Pruned tile none, and is answered. The model's own readings and choices it
rests on: log entries 30, 31. -/
def Obligations.TilesTakeDataAndAcknowledgements : Prop :=
  ∀ (t : TileId) (m : CMsg) (s : State), s.net = [] → (tileAt s t.val).prune = none → WayFree s t.val m.line →
    let z := tileAt s t.val
    let x := l1Line z m.line
    let y (u : State) : Tile := tileAt u t.val
    (∀ e, z.l1.miss.find? (·.line = m.line) = some e → e.unc = false → e.discard = false → x.st = .i → m.poison = false → canInstall z m.line = true →
      needSectors e.loads &&& ~~~m.smask = 0 → e.smask &&& ~~~m.smask = 0 →
      (e.invd = false → m.info = 1 ∨ m.info = 2 → Completes (.data t m) s (fun u =>
        (l1Line (y u) m.line).st = (if m.info = 2 then .e else .s) ∧ (l1Line (y u) m.line).dirty = 0 ∧
        (l1Line (y u) m.line).valid = x.valid ||| m.smask ∧ (l1Line (y u) m.line).data = mergeSectors x.data m.data m.smask ∧
        (y u).l1.miss = z.l1.miss.filter (·.line ≠ m.line))) ∧
      (e.invd = true → m.info ≠ 3 → Completes (.data t m) s (fun u => l1Line (y u) m.line = x ∧
        (y u).l1.miss = z.l1.miss.filter (·.line ≠ m.line)))) ∧
    (∀ b, wbufOf z m.line = some b → b.discard = false → m.poison = false → m.info = 3 → m.smask = 15 → z.l1.held = [] → canInstall z m.line = true →
      Completes (.data t m) s (fun u => (l1Line (y u) m.line).st = .m ∧ (l1Line (y u) m.line).valid = 15 ∧
        (l1Line (y u) m.line).dirty = m.dmask ||| maskSectors b.mask ∧
        (l1Line (y u) m.line).data = mergeMask (mergeSectors x.data m.data 15) b.data b.mask ∧
        (y u).l1.wbuf = z.l1.wbuf.filter (·.line ≠ m.line))) ∧
    (∀ e l ls, z.l1.miss.find? (·.line = m.line) = some e → e.loads = l :: ls → l.g ≠ jobGone → m.poison = true →
      Completes (.data t m) s (fun u => (y u).regs.faultCode = 2 ∧ l1Line (y u) m.line = x ∧
        (y u).l1.miss = z.l1.miss.filter (·.line ≠ m.line))) ∧
    (m.poison = false → (z.l1.wbs.any (·.line = m.line)) = true → Completes (.ack t none m) s (fun u => OnlyTile t.val s u ∧
      y u = { z with l1 := { z.l1 with wbs := z.l1.wbs.filter (·.line ≠ m.line) } })) ∧
    (∀ a g, m.poison = false → z.l1.wbs = [] → z.l1.awaits = [a] → a.line = m.line → a.fetch = false → groupAt z a.g = some g →
      Completes (.ack t none m) s (fun u => OnlyTile t.val s u ∧ (y u).l1.awaits = [] ∧
        (z.l1.miss = [] → readyAt g acqReg = never → ∃ g', groupAt (y u) a.g = some g' ∧ readyAt g' acqReg = s.cycle + 1))) ∧
    (∀ (k : MoverId) d, m.poison = false → (moverAt z k.val).queue = [d] → d.replies = [keyLine m.line] →
      Completes (.ack t (some k) m) s (fun u => OnlyTile t.val s u ∧ (moverAt (y u) k.val).queue = [{ d with replies := [] }])) ∧
    (∀ a g lane, z.l1.awaits = [a] → z.l1.miss = [] → a.line = m.line → a.fetch = true → a.size = 4 → a.lanes = [lane] → lane < 32 →
      groupAt z a.g = some g → m.vals.length = 1 → readyAt g a.reg = never →
      Completes (.atomr t m) s (fun u => OnlyTile t.val s u ∧ (y u).l1.awaits = [] ∧ ∃ g', groupAt (y u) a.g = some g' ∧
        gReg g' a.reg lane = m.vals.headD 0 % 2 ^ 32 ∧ readyAt g' a.reg = s.cycle + 1)) ∧
    (let v := (settleAcs s.cycle z).acs
     let answer : List NetMsg := if m.cntTile < nTiles then [ackMsg (cntAck m) false] else []
     (isPruned z = false → Completes (.cnt t m) s (fun u => (y u).ls = z.ls ∧ u.net = answer ∧
       ∀ i, acNow (y u) i = min (2 ^ 48 - 1) (fmGet 0 v.now i + (if i = m.ac % 64 then m.count else 0) - acTaken v i))) ∧
     (isPruned z = true → Completes (.cnt t m) s (fun u => (y u).ls = z.ls ∧ u.net = answer ∧ (y u).acs = z.acs)))

/-- R281, R282: a write of XL_CMD by the host sets BUSY, clears DONE, and its command starts in the next cycle; while BUSY it is
ignored and sets OVERRUN. Frame: nothing but the partition's translation block differs. R277, R281, R282: the effect and
RESULT of an accepted command that started in cycle `c`: an ADD puts the staged entry, with the partition's number, into its
slot; a READ stages the slot's entry; a WIN_CFG configures its window; a WITHDRAW takes effect at a frame boundary at least
1,024 cycles after a send within 128 cycles of the start and waits for every tile of the partition; a refused command leaves
the tables and gives its code. The model's own readings and choices it rests on: log entry 38. -/
def Obligations.TranslationCommands : Prop :=
  (
    ∀ (p : PartId) (v : BitVec 32) (s : State) (c : Instr) (op : Nat),
      (c, op) ∈ [(Instr.xlAdd p v, 1), (.xlWithdraw p v, 2), (.xlRead p v, 3), (.winAdd p v, 4), (.winWithdraw p v, 5), (.winCfg p v, 6),
        (.winRead p v, 7)] → LinkUp s →
      let x := xlAt s p.val
      (x.busy = false → Completes c s (fun u => OnlyXl p.val s u ∧
        xlAt u p.val = { x with start := some (op * 2 ^ 28 + v.toNat % 2 ^ 28, s.cycle + 1), busy := true, done := false })) ∧
      (x.busy = true → Completes c s (fun u => OnlyXl p.val s u ∧ xlAt u p.val = { x with overrun := true }))) ∧
  (
    ∀ (s : State) (p v c : Nat),
      let x := xlAt s p
      let y := xlAt (xlApply s p v c) p
      let ended (r : Nat) : Prop := y.start = none ∧ y.busy = false ∧ y.done = true ∧ y.result = r
      (xlResult s p v ≠ 0 → ended (xlResult s p v) ∧ y.table = x.table ∧ y.winTab = x.winTab ∧ y.wins = x.wins ∧ y.entry = x.entry) ∧
      (8 ≤ xlOp v → xlResult s p v = 1) ∧
      (xlOp v = 1 → 8192 ≤ xlIndex v → xlResult s p v = 5) ∧
      (xlOp v = 1 → xlIndex v < 8192 → entryOk false x.entry = false → xlResult s p v = 1) ∧
      (xlOp v = 1 → xlIndex v < 8192 → entryOk false x.entry = true → fmGet 0 x.table (xlIndex v) ≠ 0 → xlResult s p v = 4) ∧
      (xlOp v = 2 → xlIndex v < 8192 → fmGet 0 x.table (xlIndex v) = 0 → xlResult s p v = 4) ∧
      (xlResult s p v = 0 →
        (xlOp v = 1 → ended 0 ∧ y.winTab = x.winTab ∧
          ∀ i, fmGet 0 y.table i = if i = xlIndex v then x.entry / 32 * 32 + p else fmGet 0 x.table i) ∧
        (xlOp v = 3 → ended 0 ∧ y.table = x.table ∧ y.entry = fmGet 0 x.table (xlIndex v)) ∧
        (xlOp v = 4 → ended 0 ∧ y.table = x.table ∧
          fmGet 0 y.winTab (16 * xlWindow v + xlIndex v) = x.entry / 32 * 32 + p) ∧
        (xlOp v = 6 → (fmGet winReset x.wins (xlWindow v)).enable = false → ended 0 ∧ y.table = x.table ∧ y.winTab = x.winTab ∧
          fmGet winReset y.wins (xlWindow v) = ⟨x.entry.testBit 31, x.entry.testBit 30, BitVec.ofNat 10 (field x.entry 9 0)⟩) ∧
        (xlOp v = 2 → y.busy = x.busy ∧ y.table = x.table ∧ ∃ wd, y.withdrawal = some wd ∧ wd.slots = [xlIndex v] ∧ wd.done = false ∧
          wd.w % 512 = 0 ∧ c + 1024 ≤ wd.w ∧ wd.w < c + 128 + 1024 + 512 ∧ wd.waiting = partTiles s p)))

/-- R271, R277, R281, R282: the ranges of a partition stay apart, whatever command of its translation block takes effect, and
when a withdrawal does. -/
def Obligations.RangesStayApart : Prop :=
  ∀ (s : State) (p v c : Nat), p < 32 → RangesApart (xlAt s p) →
    RangesApart (xlAt (xlApply s p v c) p) ∧ RangesApart (xlAt (withdrawNow s p) p)

/-- R282–R284: at w the entries leave the table and every lookaside of the partition; a tile that no longer uses them reports,
and the last report ends the command with DONE; a drain abandoned 100 ms after its effect kills the job with cause 0x15 and
the command's RESULT is then 0x06. The model's own readings and choices it rests on: log entries 6, 39. -/
def Obligations.WithdrawalsDrain : Prop :=
  ∀ (p : PartId) (s : State) (x : Xl) (wd : Withdrawal), x.withdrawal = some wd →
    (s.xl = [(p.val, x)] → clockOn s = true → busySlices s = [] → portsBusy s = false → s.wires = [] → x.start = none → wd.window = false → wd.done = false → s.cycle < wd.w →
      Completes (.withdrawEffect p) s (fun u => u.cycle = wd.w ∧
        (∀ i, fmGet 0 (xlAt u p.val).table i = if i ∈ wd.slots then 0 else fmGet 0 x.table i) ∧
        (∃ wd', (xlAt u p.val).withdrawal = some wd' ∧ wd'.done = true ∧ wd'.waiting = wd.waiting) ∧
        ∀ t, inPart u p.val t = true → ∀ i ∈ wd.slots, i ∉ (tileAt u t).look)) ∧
    (xlAt s p.val = x → wd.done = true →
      (∀ t : TileId, t.val ∈ wd.waiting → (wd.window = true ∨ usesGone (tileAt s t.val) wd = false) →
        (wd.waiting.erase t.val ≠ [] → Completes (.drainReport p t) s (fun u => OnlyXl p.val s u ∧
          xlAt u p.val = { x with withdrawal := some { wd with waiting := wd.waiting.erase t.val } })) ∧
        (wd.waiting.erase t.val = [] → Completes (.drainReport p t) s (fun u => OnlyXl p.val s u ∧
          xlAt u p.val = { x with withdrawal := none, start := none, busy := false, done := true,
                                  result := if wd.abandoned then 6 else 0 }))) ∧
      (wd.waiting ≠ [] → wd.us + 100000 ≤ s.us → (partAt s p.val).job ≠ none → KillsPlainly s p.val → Completes (.drainAbandoned p) s (fun u =>
        (xlAt u p.val).withdrawal = some { wd with abandoned := true } ∧ (partAt u p.val).job = none ∧
        (partAt u p.val).faults.cause = 0x15)))

/-- R278–R281, R213, R388: the bytes of a window write that its window's configuration and entries accept go on at once, as an MW
packet of the memory attach to LS of the tile the entry names, or as a line write to DM, and count there; one they do not
accept is discarded and counted as refused. R285–R288: a write of DLOG_CTRL reaches the block in the next cycle, its clear of
OVERFLOW before that cycle; ENABLE stays 0 where an area does not fit. DLOG_CLEAR, before that cycle too, zeroes one page of
the bitmap and no other byte. The model's own readings and choices it rests on: log entries 40, 56. -/
def Obligations.WindowWritesAndDirtyLog : Prop :=
  (
    ∀ (n : PortId) (c : LockCell) (s : State) (pool : Nat),
      let p := c.rpart.toNat
      let k := 8 * c.len8.toNat
      (portNo s n.val).held = [(pool, c)] → c.dstModule.toNat = memberNo s → 0 < c.len8.toNat → c.window.toNat ≠ 63 → partExists s p = true →
      (windowOk s c = false → Completes (.windowWrite n c) s (fun u =>
        (xlAt u p).refused = min (2 ^ 32 - 1) ((xlAt s p).refused + 1) ∧ u.tiles = s.tiles ∧ u.net = s.net ∧ (portNo u n.val).held = [])) ∧
      (∀ e at_, windowOk s c = true → windowRange s c = some (e, at_) → c.data.length = 64 → c.len8.toNat ≤ 8 →
        (rTarget e = 3 → pbLsOff at_ % 128 + k ≤ 128 → Completes (.windowWrite n c) s (fun u => (portNo u n.val).held = [] ∧
          (∀ j, (tileAt u j).ls = (tileAt s j).ls ∧ (tileAt u j).acs = (tileAt s j).acs) ∧
          u.net = s.net ++ [.mw ⟨mwHdr c.cntTile.toNat windowMover (pbLsTile at_) (pbLsOff at_) k c.ac.toNat, c.data.take k, false, 0⟩ (some 4)])) ∧
        (rTarget e = 0 → at_ % 128 + k ≤ 128 → Completes (.windowWrite n c) s (fun u => (portNo u n.val).held = [] ∧ u.tiles = s.tiles ∧
          ∃ m, u.net = s.net ++ [.coh (.home (homeOf s p (at_ / 128))) none tDMW m] ∧ m.line = at_ / 128 ∧
            cMask m = (2 ^ k - 1) * 2 ^ (at_ % 128) ∧ m.data = zeros (at_ % 128) ++ c.data.take k ∧ m.ac = c.ac.toNat ∧
            m.cntTile = c.cntTile.toNat)))) ∧
  (
    ∀ (p : PartId) (v : BitVec 32) (s : State), LinkUp s →
      let z := nextCycle (dlogW1c p.val v.toNat) s
      (v.toNat % 32 = 0 → Completes (.dlogCtrl p v) s (fun u =>
        (xlAt u p.val).dlogEnable = (v.getLsbD 31 && bitmapOk z p.val) ∧ (xlAt u p.val).dlogRing2 = 0 ∧
        (xlAt u p.val).dlogOverflow = (xlAt z p.val).dlogOverflow ∧ u.dm = z.dm ∧ u.tiles = z.tiles)) ∧
      Completes (.dlogClear p v) s (fun u => ∃ f : State → State, u = nextCycle f s ∧ ∀ y,
        let page := v.toNat % 1024
        let lo := (xlAt y p.val).dlogBitmap + 4096 * page
        32768 * page < granules y p.val → bitmapOk y p.val = true → f y = { y with dm := (f y).dm } ∧
          ∀ a, memByte (f y).dm.mem a = if lo ≤ a ∧ a < lo + 4096 then 0 else memByte y.dm.mem a))

/-- R298–R302: a readout sets the temperature and the refresh rate, which falls only 2 °C below the threshold it rose at; ten
failed readouts, 105 °C, a failure or a retraining that does not clear the link shut the stack down and ask for a module
reset; but for temperature the stack is marked failed. A stack that stays hot through its wait is excluded. R297–R301:
refresh, RFM, patrol and the temperature wait. Patrol of a codeword with one symbol in error counts it and corrects it; of
one with two or three it rewrites the line with the poison pattern and records the address. The model's own readings and
choices it rests on: log entries 45, 101. -/
def Obligations.StacksFailRefreshAndPatrol : Prop :=
  (
    ∀ (k : StackId) (s : State),
      let x := stackAt s k.val
      let only (u : State) (y : Stack) : Prop := stackAt u k.val = y ∧ ∀ j, j ≠ k.val → stackAt u j = stackAt s j
      let down (u : State) (hot : Bool) : Prop := (stackAt u k.val).state = .shutDown ∧ (stackAt u k.val).hot = hot ∧
        (∀ j, j ≠ k.val → stackAt u j = stackAt s j) ∧ fmGet false u.dm.failed k.val = (fmGet false s.dm.failed k.val || !hot) ∧
        u.dm.mem = s.dm.mem ∧ (s.rcv.asked = none → u.rcv.asked = some (3, 3))
      x.state = .active →
      (∀ t, t < 105 → x.seen = true → Completes (.temperatureReadout k (some t)) s (fun u => u = { s with stk := u.stk } ∧
        only u { x with badReads := 0, temp := t, ref :=
          if x.ref = 3 then (if 93 < t then 3 else if 83 < t then 2 else 1)
          else if x.ref = 2 then (if 95 < t then 3 else if 83 < t then 2 else 1)
          else (if 95 < t then 3 else if 85 < t then 2 else 1) })) ∧
      (∀ t, 105 ≤ t → Completes (.temperatureReadout k (some t)) s (fun u => down u true)) ∧
      (x.badReads < 9 → Completes (.temperatureReadout k none) s (fun u => u = { s with stk := u.stk } ∧ only u { x with badReads := x.badReads + 1 })) ∧
      (x.badReads = 9 → Completes (.temperatureReadout k none) s (fun u => down u false)) ∧
      Completes (.stackFailed k .link) s (fun u => down u false) ∧ Completes (.stackFailed k .temperature) s (fun u => down u true) ∧
      Completes (.stackRetraining k true) s (fun u => u = { s with stk := u.stk } ∧ only u { x with retrainings := x.retrainings + 1 }) ∧
      Completes (.stackRetraining k false) s (fun u => down u false)) ∧
  (
    (∀ (k : StackId) (s : State), (stackAt s k.val).ref ≠ 0 → (stackAt s k.val).state ≠ .off →
      Completes (.refresh k) s (fun u => u = { s with stk := u.stk } ∧
        stackAt u k.val = { stackAt s k.val with refreshes := (stackAt s k.val).refreshes + 1 }) ∧
      Completes (.rfm k) s (fun u => u = { s with stk := u.stk } ∧
        stackAt u k.val = { stackAt s k.val with rfms := (stackAt s k.val).rfms + 1 })) ∧
    (∀ (k : StackId) (s : State), (stackAt s k.val).state = .training → (stackAt s k.val).hot = true → s.boot.onUs + 60000000 ≤ s.us →
      Completes (.stackTemperatureWait k) s (fun u => (stackAt u k.val).state = .excluded ∧ (stackAt u k.val).reason = 2 ∧ u.dm.mem = s.dm.mem)) ∧
    (∀ (pa : BitVec 41) (s : State), let cw := pa.toNat / 64
      let k := (stackOf s.dm.active (64 * cw)).1
      pa.toNat < dmCapacity s → (stackAt s k).state = .active → cw ∉ s.dm.poison →
      (fmGet 0 s.dm.errs cw = 1 → Completes (.patrol pa) s (fun u => u.dm.mem = s.dm.mem ∧ u.dm.poison = s.dm.poison ∧
        fmGet 0 u.dm.errs cw = 0 ∧ (stackAt u k).ce = min (2 ^ 64 - 1) ((stackAt s k).ce + 1))) ∧
      (fmGet 0 s.dm.errs cw = 2 ∨ fmGet 0 s.dm.errs cw = 3 → (stackAt s k).ueTimes = [] → 1 < dictNat s 0x4060 0 64 →
        Completes (.patrol pa) s (fun u => 2 * (cw / 2) ∈ u.dm.poison ∧ 2 * (cw / 2) + 1 ∈ u.dm.poison ∧ fmGet 0 u.dm.errs cw = 0 ∧
          (stackAt u k).last = 64 * cw ∧ (stackAt u k).ue = min (2 ^ 64 - 1) ((stackAt s k).ue + 1) ∧
          ∀ a, memByte u.dm.mem a = if 128 * (cw / 2) ≤ a ∧ a < 128 * (cw / 2) + 128 then 0 else memByte s.dm.mem a))))

/-- R313, R317–R320, R215: a page read delivers the bytes its request asks for; a lost one is marked and counted; a page write
stores its 16,384 bytes and counts them at its counter, a program that fails leaves them for another try, and a read-only
Seedbank refuses with ERR. R312–R316: CREATE, DELETE and ATTACH of an extent with their results: a created extent takes the
lowest free number, a fresh key and its partition; a deleted one reads nothing more; one that a range maps is not deleted;
only a detached one is attached. The model's own readings and choices it rests on: log entries 10, 47, 49. -/
def Obligations.PagesAndExtents : Prop :=
  (
    (∀ (r : SeedRead) (t o : Nat) (s : State), s.seed.status = 1 → (extentAt s r.ext).isSome = true → s.seed.reads = [r] → r.dst = .ls t o →
      let a := pageAddr r.ext r.page + r.off
      0 < r.len → a % 128 + r.len ≤ 128 → o % 128 + r.len ≤ 128 → o < 2 ^ 64 →
      fmGet false s.seed.lost (pageAddr r.ext r.page / 16384) = false → fmGet false s.seed.poison (a / 128) = false →
      Completes (.pageRead r.ext r.page .nominal) s (fun u => u.seed.reads = [] ∧ u.seed.mem = s.seed.mem ∧
        u.net = s.net ++ [.mw ⟨mwHdr r.tile r.mover t o r.len r.ac, memRead s.seed.mem a r.len, false, 0⟩ (some 4)])) ∧
    (∀ (ext page : Nat) (s : State), s.seed.status = 1 → (extentAt s ext).isSome = true → s.seed.reads = [] → pageHeld s.seed (pageNo ext page) = true →
      fmGet false s.seed.lost (pageAddr ext page / 16384) = false →
      Completes (.pageRead ext page .lost) s (fun u => fmGet false u.seed.lost (pageAddr ext page / 16384) = true ∧ u.seed.mem = s.seed.mem ∧
        fmGet 0 u.seed.counts 3 = min (2 ^ 64 - 1) (fmGet 0 s.seed.counts 3 + 1) ∧ u.seed.lastPoison = natLe 2 ext ++ natLe 6 page)) ∧
    (∀ (w : SeedWrite) (bytes : List Byte) (s : State), s.seed.writes = [w] → w.left = 0 → w.data = [(0, bytes)] → bytes.length = 16384 →
      w.poison = [] → (extentAt s w.ext).isSome = true → s.gov.nandStop ≠ 0xFFFFFFFF → s.seed.staged.length < stagingPages →
      w.cntTile < nTiles →
      let lo := pageAddr w.ext w.page
      (s.seed.status = 1 → Completes (.pageWrite w.ext w.page false) s (fun u => u.seed.writes = [] ∧
        (∀ a, memByte u.seed.mem a = if lo ≤ a ∧ a < lo + 16384 then bytes.getD (a - lo) 0 else memByte s.seed.mem a) ∧
        pageHeld u.seed (pageNo w.ext w.page) = true ∧
        let v := (settleAcs s.cycle (tileAt s w.cntTile)).acs
        acNow (tileAt u w.cntTile) (w.ac % 64) = min (2 ^ 48 - 1) (fmGet 0 v.now (w.ac % 64) + 16384 - acTaken v (w.ac % 64)))) ∧
      (s.seed.status = 1 → s.seed.blocks = [] → Completes (.pageWrite w.ext w.page true) s (fun u => u.seed.writes = [w] ∧ u.seed.mem = s.seed.mem ∧
        fmGet 0 u.seed.counts 4 = min (2 ^ 64 - 1) (fmGet 0 s.seed.counts 4 + 1) ∧ u.tiles = s.tiles)) ∧
      (s.seed.status = 2 → w.by_.2 < 4 → Completes (.pageWrite w.ext w.page false) s (fun u => u.seed.writes = [] ∧ u.seed.mem = s.seed.mem ∧
        (tileAt u w.by_.1).regs.moverErr = (tileAt s w.by_.1).regs.moverErr ||| BitVec.ofNat 4 (2 ^ w.by_.2) ∧
        acNow (tileAt u w.cntTile) (w.ac % 64) = acNow (tileAt s w.cntTile) (w.ac % 64))))) ∧
  (
    ∀ (c : List Byte) (s : State), c.length = 16 → s.seed.status = 1 →
      let n := extNo c
      let p := extPart c
      let size := extSize c
      let refused (r : Nat) (u : State) : Prop := u.seed = { s.seed with result := r }
      (extOp c = 1 →
        (size = 0 → Completes (.extentCreate c) s (refused 1)) ∧
        (0 < size → size ≤ 98304 → n = 0 → leAt c 8 8 = 0 →
          (p < 32 → partExists s p = false → Completes (.extentCreate c) s (refused 6)) ∧
          (p < 32 → partExists s p = true → 98304 < allocated s.seed + size → Completes (.extentCreate c) s (refused 2)) ∧
          (∀ m, p < 32 → partExists s p = true → allocated s.seed + size ≤ 98304 → freeExtent s = some m → Completes (.extentCreate c) s (fun u =>
            m ≠ 0 ∧ extentAt s m = none ∧ extentAt u m = some ⟨p, size, Config.freeNat s.fresh, 0⟩ ∧ u.seed.result = m * 65536 ∧
            ∀ j, j ≠ m → extentAt u j = extentAt s j)))) ∧
      (extOp c = 2 → n ≠ 0 → (extentAt s n).isSome = true → p = 0 → leAt c 4 12 = 0 →
        (extMapped s n = true → Completes (.extentDelete c) s (refused 4)) ∧
        (extMapped s n = false → Completes (.extentDelete c) s (fun u => extentAt u n = none ∧ u.seed.result = 0 ∧
          (∀ j, j ≠ n → extentAt u j = extentAt s j) ∧ ∀ a, a / 2 ^ 48 = n → memByte u.seed.mem a = 0))) ∧
      (extOp c = 3 → ∀ x, n ≠ 0 → extentAt s n = some x → leAt c 4 12 = 0 → p < 32 → partExists s p = true →
        (x.owner ≠ 0xFE → Completes (.attach c) s (refused 5)) ∧
        (x.owner = 0xFE → Completes (.attach c) s (fun u => extentAt u n = some { x with owner := p } ∧ u.seed.result = 0 ∧
          u.seed.mem = s.seed.mem))))

/-- R308–R311, R321–R325, R331: the Seedbank's background work. A refreshed, levelled or collected block has its valid pages in
staging and is erased; a failed die degrades its channel; FOLD places 31 staged pages and their parity, or retires the block
that failed; the scan reads a page of every block that holds data; training sets its time or stops the channel; the start
ends with bit 1 of 0x1010. The model's own readings and choices it rests on: log entries 10, 47. -/
def Obligations.SeedbankMaintainsItself : Prop :=
  ∀ (s : State), s.seed.status = 1 → s.gov.huskThrottle = false → s.gov.nandStop = 0 →
    let erased (b : Nat) (u : State) : Prop :=
      (blockAt u.seed b).erases = (blockAt s.seed b).erases + 1 ∧ (blockAt u.seed b).reads = 0 ∧ (blockAt u.seed b).use_ = .free ∧
      (blockAt u.seed b).pages = 0 ∧ (∀ pg ∈ validPages s.seed b, pg ∈ u.seed.staged ∧ fmGet 0 u.seed.loc pg = 0) ∧
      u.seed.mem = s.seed.mem
    (∀ b, (blockAt s.seed b).use_ = .data → (blockAt s.seed b).queued = false → (blockAt s.seed b).retire = false →
      (50000 ≤ (blockAt s.seed b).reads → Completes (.readDisturbRefresh b) s (erased b)) ∧
      (oldBlock s.seed b = true → Completes (.retentionRefresh b) s (erased b)) ∧
      (oldBlock s.seed b = false → Completes (.retentionRefresh b) s (fun u => u = s))) ∧
    (∀ (ch : ChanId) b y, s.seed.blocks = [(b, y)] → y.use_ = .data → blockChannel b = ch.val → b % blocksPerChannel < tlcPerChannel →
      (200 < y.erases → Completes (.staticWearLevelling ch) s (erased b)) ∧
      (y.erases ≤ 200 → Completes (.staticWearLevelling ch) s (fun u => u = s)) ∧
      (fmGet 0 s.seed.open_ ch.val ≠ b + 1 → (validPages s.seed b).length < y.pages → Completes (.garbageCollection ch) s (erased b))) ∧
    (∀ (ch : ChanId) (die : Fin 8), s.seed.deadDies = [] → Completes (.dieFailure ch die) s (fun u =>
      u.seed.deadDies = [8 * ch.val + die.val] ∧ fmGet 0 u.seed.channels ch.val = 1 ∧ u.seed.mem = s.seed.mem)) ∧
    (31 ≤ s.seed.staged.length → s.seed.staged.Nodup → s.seed.blocks = [] → s.seed.open_ = [] → s.seed.deadDies = [] →
      Completes (.fold false) s (fun u => u.seed.staged = s.seed.staged.drop 31 ∧ u.seed.stripe = s.seed.stripe + 1 ∧
        u.seed.programmed = s.seed.programmed + 32 * 16384 ∧ ∀ pg ∈ s.seed.staged.take 31, fmGet 0 u.seed.loc pg ≠ 0) ∧
      (s.seed.loc = [] → Completes (.fold true) s (fun u => u.seed.staged = s.seed.staged ∧ u.seed.stripe = s.seed.stripe ∧
        ∃ b, (blockAt u.seed b).use_ = .retired))) ∧
    Completes (.retentionScan []) s (fun u => u = { s with seed := u.seed } ∧ u.seed.mem = s.seed.mem ∧ u.seed.loc = s.seed.loc ∧
      ∀ b y, s.seed.blocks = [(b, y)] → y.use_ = .data → blockAt u.seed b = { y with reads := y.reads + 1 }) ∧
    (∀ ch : ChanId, Completes (.channelTraining ch true) s (fun u => u = { s with seed := u.seed } ∧ fmGet 0 u.seed.trainedAt ch.val = s.us) ∧
      Completes (.channelTraining ch false) s (fun u => u = { s with seed := u.seed } ∧ fmGet 0 u.seed.channels ch.val = 2)) ∧
    (∀ r, s.boot.running = some r →
      let z := { s with seed := { s.seed with status := 0 } }
      (∃ c, c < 32 ∧ fmGet 0 s.seed.channels c ≠ 2) → Completes .seedbankReady z (fun u => u.seed.status ≠ 0 ∧ u.boot.ready.getLsbD 1 = true))

/-- R328, R329, R421, R476: PARK of a resident session begins its image in the partition's session extent under a new GENERATION;
once it is written the session is Parked; RESUME begins its way back, and its end leaves it Resident, or Parked where the
image does not answer; the end of the snapshot budget carries out the kill that waited. The model's own readings and choices
it rests on: log entries 10, 50, 67, 104. -/
def Obligations.SessionsParkAndResume : Prop :=
  ∀ (id : Nat) (s : State),
    let x := sessAt s id
    (∀ ext off, x.st = .resident → x.pin = false → movingOf s id true = none → s.seed.status = 1 → sessExtent s x.part = some ext →
      anyPlace 16384 (16384 * (x.kvBytes / 16384 + 1)) (gaps (((extentAt s ext).map (·.size)).getD 0 * 2 ^ 30) 0 (imageSpans s x.part ext))
        (Config.freeNat s.fresh) = some off →
      Completes (.park id) s (fun u => sessAt u id = { x with st := .parking, generation := x.generation + 1 } ∧
        ∃ mv, movingOf u id true = some mv ∧ mv.off = off ∧ mv.pages = x.kvBytes / 16384)) ∧
    (∀ mv ext, movingOf s id true = some mv → sessExtent s mv.part = some ext → s.seed.status = 1 → (partAt s x.part).reqs = [] →
      Completes (.sessionParked id) s (fun u => (sessAt u id).st = .parked ∧ (sessAt u id).imageOff = mv.off + 16384 * mv.pages ∧
        (sessAt u id).slot = 0xFFFFFFFF ∧ u.seed.moving = s.seed.moving.erase mv)) ∧
    (∀ ext s', x.st = .parked → movingOf s id false = none → x.imageOff ≠ 2 ^ 64 - 1 → s.seed.status = 1 → sessExtent s x.part = some ext →
      giveKv s id x.part x.kvBytes none = some s' → Completes (.resume id) s (fun u => (sessAt u id).st = .resuming ∧
        movingOf u id false ≠ none)) ∧
    (∀ mv, movingOf s id false = some mv →
      (resumeOk s mv = true → hasReq s id = false → Completes (.resumeComplete id) s (fun u => (sessAt u id).st = .resident)) ∧
      (resumeOk s mv = false → (partAt s mv.part).reqs = [] → Completes (.resumeComplete id) s (fun u => (sessAt u id).st = .parked ∧
        (sessAt u id).slot = 0xFFFFFFFF ∧ u.seed.moving = s.seed.moving.erase mv))) ∧
    (∀ y cause p, s.rcv.snap = some y → s.rcv.after = some (1, cause, some p) → s.rcv.asked = none → dictNat s 0x9020 (p + 1) 3 = 0 →
      y.us + 50000 ≤ s.us → Completes .snapshotBudget s (fun u => u.rcv.snap = none ∧ u.rcv.after = none ∧ (partAt u p).job = none))

/-- R347, R362, R365, R381, R395: a bundle whose direction has failed more often in a second than 0x7150 allows becomes unstable
with a Graft event; a bundle whose last clock wire fails is dead in that direction; a lane that goes down takes its port down
with a LINK_DOWN event; a port whose four lanes lock trains, and a lockstep port sends its LINK_ID. The model's own readings
and choices it rests on: log entry 52. -/
def Obligations.BundlesAndPortsComeUpAndFail : Prop :=
  (∀ (l : LinkId) (b : Fin 64) (s : State), b.val < bundleCount l.val →
    let y := bundleAt s l.val b.val
    let others (u : State) : Prop := u = { s with graft := u.graft } ∧
      ∀ (l' : LinkId) (b' : Fin 64), (l' ≠ l ∨ b' ≠ b) → bundleAt u l'.val b'.val = bundleAt s l'.val b'.val
    let past : Prop := dictNat s 0x7150 0 16 < y.sec0 ∨ dictNat s 0x7150 0 16 < y.sec1
    (past → Completes (.unstable l b) s (fun u => others u ∧ bundleAt u l.val b.val = { y with unstable := true } ∧ u.graft.event = true)) ∧
    (¬ past → Completes (.unstable l b) s (fun u => u = s)) ∧
    Completes (.bundleClockFailure l b false) s (fun u => others u ∧ bundleAt u l.val b.val = { y with dead0 := true }) ∧
    Completes (.bundleClockFailure l b true) s (fun u => others u ∧ bundleAt u l.val b.val = { y with dead1 := true })) ∧
  (∀ (n : PortId) (lane : Fin 4) (s : State),
    let x := portNo s n.val
    x.role ≠ 0 →
    (x.state ≠ 0 → n.val ≠ parentPort s → Completes (.linkDown n lane) s (fun u => u.tiles = s.tiles ∧ u.parts = s.parts ∧
      (portNo u n.val).state = (if x.state = 5 then 5 else 1) ∧ (portNo u n.val).lanes.getLsbD lane.val = false ∧
      (portNo u n.val).measured = false ∧ (portNo u n.val).linked = false ∧
      ((x.state = 3 ∨ x.state = 4) → (portNo u n.val).event.getLsbD 0 = true ∧ u.dev.event.getLsbD 3 = true))) ∧
    (readyBit s 2 = true → s.pins.taken = false → (x.state = 1 ∨ x.state = 2) → Completes (.lanesLock n) s (fun u =>
      (portNo u n.val).state = 3 ∧ (portNo u n.val).lanes = 0xF ∧ readyBit u 8 = true ∧
      (portNo u n.val).outBlocks = x.outBlocks ++ (if x.role = 1 then
        [(s.cycle, ctlBlock 0x13 (groupId s % 2 ^ 32 * 2 ^ 216 + memberNo s % 2 ^ 10 * 2 ^ 206 + n.val * 2 ^ 203))] else []))))

/-- R369, R370, R374, R376, R388: an aligned port sends one sealed cell for a position: the flit of a scheduled entry, else a
waiting window cell that has a credit, else an empty cell; after the last of a tick, TICK. An arriving cell is buffered
unless it is uncorrectable, wrong in CRC or late. A release lands the cell of the position through a scheduled entry,
poisoned zeros where the cell is no cell of the job, and puts a window cell of a free position into its hop pool. Both take
the position's first cycle, which passes. A window cell goes into the queue of the routed port, one hop on. The model's own
readings and choices it rests on: log entries 55, 56, 103. -/
def Obligations.CellsLeaveArriveAndAreReleased : Prop :=
  ∀ (n : PortId) (s : State),
    let x := portNo s n.val
    let g := groupCycle s s.cycle
    x.role = 1 →
    (x.state = 4 → s.gt.aligned = true → clockOn s = true → s.coppice = [(n.val, x)] → x.reqAt + 4096 ≤ s.cycle → g % 2 = 0 →
      let e := emptyCell s n.val (g / 64) (g % 64 / 2)
      let entry := entryEdge (fmGet (0 : BitVec 16) x.sendA (g / 64 % 8 * 32 + g % 64 / 2)).toNat
      let sent (c : LockCell) (u : State) : Prop := u.cycle = s.cycle + 1 ∧
        (portNo u n.val).outCells = x.outCells ++ [{ c with crc := BitVec.ofNat 32 (cellCrc c), data := fit 0 64 c.data }] ∧
        (g % 64 = 62 → ∃ v rest, (portNo u n.val).outBlocks = x.outBlocks ++ (s.cycle, v) :: rest ∧ field (v / 2) 255 248 = 0x10 ∧
          field (v / 2) 247 200 = (g / 64 + 1) % 2 ^ 48)
      (∀ edge w, entry = some edge → s.wires = [w] → w.tile = edge → w.input = 10 → w.at_ = s.cycle → w.flit.kind = 1 →
        Completes (.cell n) s (sent { e with kind := 1, poison := w.flit.poison, data := w.flit.data })) ∧
      (∀ edge, entry = some edge → s.wires = [] → Completes (.cell n) s (sent e)) ∧
      (entry = none → x.winQ = [] → Completes (.cell n) s (sent e)) ∧
      (∀ c rest, entry = none → x.winQ = c :: rest → 0 < creditOf x c.hops.toNat → Completes (.cell n) s (fun u =>
        sent { c with jobTag := e.jobTag, tick := e.tick, pos := e.pos, poison := false } u ∧ (portNo u n.val).winQ = rest ∧
        creditOf (portNo u n.val) c.hops.toNat = creditOf x c.hops.toNat - 1))) ∧
    (∀ c : LockCell, x.state = 4 → x.skip = false → c.kind.toNat ≤ 2 →
      let good : Prop := c.crc = BitVec.ofNat 32 (cellCrc c)
      (good → 0 ≤ releaseIn s x c → x.buf.length < 2048 → Completes (.cellArrival n c false) s (fun u =>
        u = { s with coppice := u.coppice } ∧ portNo u n.val = { x with buf := x.buf ++ [c] })) ∧
      (good → releaseIn s x c < 0 → Completes (.cellArrival n c false) s (fun u => (portNo u n.val).buf = x.buf ∧
        (portNo u n.val).event.getLsbD 2 = true ∧ fmGet 0 (portNo u n.val).counts 3 = min (2 ^ 64 - 1) (fmGet 0 x.counts 3 + 1))) ∧
      (¬ good → Completes (.cellArrival n c false) s (fun u => u = { s with coppice := u.coppice } ∧ portNo u n.val = x)) ∧
      Completes (.cellArrival n c true) s (fun u => (portNo u n.val).buf = x.buf ∧ (portNo u n.val).skip = true ∧
        (portNo u n.val).event.getLsbD 1 = true ∧ fmGet 0 (portNo u n.val).counts 1 = min (2 ^ 64 - 1) (fmGet 0 x.counts 1 + 1))) ∧
    (x.state = 4 → s.gt.aligned = true → clockOn s = true → s.coppice = [(n.val, x)] → s.wires = [] → g % 2 = 0 → 64 * (flight x + 16) ≤ g →
      let tick := (g - 64 * (flight x + 16)) / 64
      let pos := (g - 64 * (flight x + 16)) % 64 / 2
      let entry := entryEdge (fmGet (0 : BitVec 16) x.landA (tick % 8 * 32 + pos)).toNat
      let tag := ((portJob s n.val).map (·.tag)).getD 0
      (∀ edge, entry = some edge →
        (x.buf = [] → Completes (.release n) s (fun u => u.wires = [⟨edge, 9, s.cycle + 24, schedFlit (zeros 64) true⟩] ∧
          fmGet 0 (portNo u n.val).counts 2 = min (2 ^ 64 - 1) (fmGet 0 x.counts 2 + 1) ∧
          fmGet 0 (portNo u n.val).counts 4 = min (2 ^ 64 - 1) (fmGet 0 x.counts 4 + 1))) ∧
        (∀ c, x.buf = [c] → c.tick = BitVec.ofNat 32 tick → c.pos = BitVec.ofNat 5 pos →
          (c.kind = 1 → c.jobTag.toNat = tag → Completes (.release n) s (fun u => (portNo u n.val).buf = [] ∧
            u.wires = [⟨edge, 9, s.cycle + 24, schedFlit c.data c.poison⟩] ∧ (portNo u n.val).counts = x.counts)) ∧
          ((c.kind = 3 ∨ c.jobTag.toNat ≠ tag) → Completes (.release n) s (fun u => (portNo u n.val).buf = [] ∧
            u.wires = [⟨edge, 9, s.cycle + 24, schedFlit (zeros 64) true⟩] ∧
            fmGet 0 (portNo u n.val).counts 4 = min (2 ^ 64 - 1) (fmGet 0 x.counts 4 + 1))))) ∧
      (∀ c, entry = none → x.buf = [c] → c.tick = BitVec.ofNat 32 tick → c.pos = BitVec.ofNat 5 pos → c.kind = 3 →
        poolHeld x c.hops.toNat < 16 → Completes (.release n) s (fun u => u.wires = [] ∧ (portNo u n.val).buf = [] ∧
          (portNo u n.val).held = x.held ++ [(c.hops.toNat, c)]))) ∧
    (∀ c : LockCell, x.winQ.length < 256 →
      (∀ t m, nextCut s n.val = some (t, m, c) → Completes (.windowCell n c) s (fun u =>
        (portNo u n.val).winQ = x.winQ ++ [{ c with hops := 0 }] ∧ u.gt.cut = s.gt.cut.erase (t, m, c))) ∧
      (∀ i h, nextCut s n.val = none → nextHop s n.val c = some (i, h) →
        (c.hops ≠ 15 → Completes (.windowCell n c) s (fun u => (portNo u n.val).winQ = x.winQ ++ [{ c with hops := c.hops + 1 }] ∧
          (portNo u i).held = (portNo s i).held.erase (h, c) ∧ fmGet 0 (portNo u i).owed h = fmGet 0 (portNo s i).owed h + 1)) ∧
        (c.hops = 15 → Completes (.windowCell n c) s (fun u => (portNo u n.val).winQ = x.winQ ∧
          (portNo u i).held = (portNo s i).held.erase (h, c) ∧
          fmGet 0 (portNo u i).counts 7 = min (2 ^ 64 - 1) (fmGet 0 (portNo s i).counts 7 + 1)))))

/-- R371, R376, R380, R381, R388: a control block that reaches a lockstep port. A block of another type is discarded and counted,
and ends the discarding of cells; FILL does nothing more; TICK gives the skew; CREDIT returns credits up to 16; LINK_ID of
another group or end takes the port down as a cable mismatch, and of the right one starts 64 ALIGN_REQ, one a tick; ALIGN_REQ
is answered with the group cycle and its SEQ; ALIGN_RSP gives D and Δ; FREQ is forwarded once and kept for its epoch. The
model's own readings and choices it rests on: log entries 53, 55, 57, 103. -/
def Obligations.ControlBlocksReachTheirPort : Prop :=
  ∀ (n : PortId) (b : BitVec 257) (s : State),
    let x := portNo s n.val
    let v := blockBits b
    let g := groupCycle s s.cycle
    x.role = 1 → 3 ≤ x.state → x.state ≠ 5 →
    (∀ c type, (c, type) ∈ [(Instr.tick n b, 0x10), (.alignReq n b, 0x11), (.alignRsp n b, 0x12), (.linkId n b, 0x13), (.freq n b, 0x14),
        (.credit n b, 0x15), (.fill n b, 0x1F)] → b.toNat % 2 = 0 → isBlock b type = false → Completes c s (fun u =>
      u = { s with coppice := u.coppice } ∧ (portNo u n.val).skip = false ∧ (portNo u n.val).state = x.state ∧
      fmGet 0 (portNo u n.val).counts 5 = min (2 ^ 64 - 1) (fmGet 0 x.counts 5 + 1))) ∧
    (isBlock b 0x1F = true → Completes (.fill n b) s (fun u => u = { s with coppice := u.coppice } ∧ portNo u n.val = { x with skip := false })) ∧
    (isBlock b 0x10 = true → x.state = 4 → n.val ≠ parentPort s → Completes (.tick n b) s (fun u =>
      let skew := toSigned 54 (ofSigned 54 ((g : Int) - 64 * (field v 247 200 : Nat))) - x.delay
      (portNo u n.val).skew = skew ∧ (portNo u n.val).skewValid = true ∧ (512 < skew.natAbs → (portNo u n.val).event.getLsbD 3 = true))) ∧
    (isBlock b 0x15 = true → Completes (.credit n b) s (fun u => u = { s with coppice := u.coppice } ∧
      ∀ h, h < 16 → creditOf (portNo u n.val) h = min 16 (creditOf x h + field v (4 * h + 187) (4 * h + 184)))) ∧
    (isBlock b 0x13 = true →
      let want := dictNat s 0x6021 (n.val + 1) 0xFFFF
      (field v 247 216 ≠ groupId s → Completes (.linkId n b) s (fun u => (portNo u n.val).state = 5 ∧
        (portNo u n.val).linked = false)) ∧
      (want ≠ 0xFFFF → (field v 215 206 ≠ field want 12 3 ∨ field v 205 203 ≠ field want 2 0) →
        Completes (.linkId n b) s (fun u => (portNo u n.val).state = 5)) ∧
      (field v 247 216 = groupId s → groupId s ≠ 0 → want = 0xFFFF → x.linked = false → Completes (.linkId n b) s (fun u =>
        (portNo u n.val).linked = true ∧ (portNo u n.val).reqAt = s.cycle ∧ (portNo u n.val).samples = []))) ∧
    (∀ i, i < 64 → x.linked = true → s.cycle = x.reqAt + 64 * i → (portNo (sendRequest n.val s) n.val).outBlocks =
      x.outBlocks ++ [(s.cycle, ctlBlock 0x11 (s.cycle % 2 ^ 64 * 2 ^ 184 + i * 2 ^ 176))]) ∧
    (isBlock b 0x11 = true → Completes (.alignReq n b) s (fun u => u = { s with coppice := u.coppice } ∧
      (portNo u n.val).outBlocks = x.outBlocks ++ [(s.cycle, ctlBlock 0x12 (g * 2 ^ 184 + g * 2 ^ 120 + field v 183 176 * 2 ^ 112))])) ∧
    (isBlock b 0x12 = true → x.linked = true → field v 119 112 < 64 → x.samples.length < 63 →
      let tx := x.reqAt + 64 * field v 119 112
      tx ≤ s.cycle → Completes (.alignRsp n b) s (fun u => u = { s with coppice := u.coppice } ∧
        let d : Int := (((s.cycle : Nat) : Int) - (tx : Nat) - toSigned 64 (ofSigned 64 (((field v 183 120 : Nat) : Int) - (field v 247 184 : Nat)))) / 2
        portNo u n.val = { x with skip := false, samples := x.samples ++ [(d, toSigned 64 (ofSigned 64 (((field v 247 184 : Nat) : Int) - (tx : Nat) - d)))] })) ∧
    (isBlock b 0x14 = true → field v 199 192 ≤ 7 →
      let e := field v 247 200
      (e ∈ s.gt.freqSeen → Completes (.freq n b) s (fun u => u = { s with coppice := u.coppice })) ∧
      (e ∉ s.gt.freqSeen → g + 64 ≤ e * 2 ^ 20 → Completes (.freq n b) s (fun u =>
        let gt' := { s.gt with freqSeen := s.gt.freqSeen ++ [e], freq := s.gt.freq ++ [(e, field v 199 192)] }
        u = { s with coppice := u.coppice, gt := gt' } ∧
        ∀ m : PortId, m ≠ n → (portNo s m.val).role = 1 → 3 ≤ (portNo s m.val).state → (portNo s m.val).state ≠ 5 →
          (portNo u m.val).outBlocks = (portNo s m.val).outBlocks ++ [(s.cycle, ctlBlock 0x14 (e % 2 ^ 48 * 2 ^ 200 + field v 199 192 * 2 ^ 192))])))

/-- R378, R379, R381, R386, R387, R448: the end of a slip sets OFFSET and measures again; the loss of the parent begins a
holdover of 1 s, after which the module runs from its own reference; a port without the job's tag for 64 positions is a lost
peer and its job ends; a lockstep launch is refused whole or loads the image as a lockstep job with its tiles armed for the
frame of T0; the root keeps a member's wanted point. The model's own readings and choices it rests on: log entries 6, 53, 54,
55, 103, 108. -/
def Obligations.GroupTimeAndLockstepJobs : Prop :=
  (∀ (n : PortId) (s : State) (v : Int) (due : Nat), s.gt.slip = some (v, due) → n.val = parentPort s → due ≤ s.cycle →
    Completes (.alignmentSlipDone n) s (fun u =>
      u.gt = { s.gt with offset := ofSigned 64 (-v), slip := none, slipped := true } ∧ u = { s with gt := u.gt, coppice := u.coppice } ∧
      (portNo u n.val).reqAt = s.cycle ∧ (portNo u n.val).samples = [])) ∧
  (∀ (n : PortId) (s : State), n.val = parentPort s → (portNo s n.val).role = 1 → s.gt.own = false →
    (∀ y ∈ s.parts, y.2.job.any (·.lockstep) = false) →
    (s.gt.holdover = none → Completes .parentLost s (fun u => u.gt.holdover = some s.us ∧ u.gt.slip = none ∧ u.gt.own = false ∧
      (portNo u n.val).event.getLsbD 4 = true ∧ (portNo u n.val).realign = none ∧ u.tiles = s.tiles ∧ u.parts = s.parts)) ∧
    (∀ us, s.gt.holdover = some us → us + 1000000 ≤ s.us → Completes .holdoverEnd s (fun u =>
      let gt' := { s.gt with holdover := none, own := true }
      u = { s with gt := gt' }))) ∧
  (∀ (n : PortId) (s : State),
    ((portNo s n.val).lost < 64 → Completes (.peerLost n) s (fun u => u = s)) ∧
    (∀ p, 64 ≤ (portNo s n.val).lost → (portNo s n.val).part = some p → (partAt s p).job ≠ none → KillsPlainly s p →
      Completes (.peerLost n) s (fun u => (partAt u p).job = none ∧ (partAt u p).faults.cause = 0x13))) ∧
  (∀ (p : PartId) (t0 : Nat) (tag : BitVec 16) (img : Image) (s : State),
    let start := 64 * t0 + s.gt.offset
    ((tag = 0 ∨ t0 % 8 ≠ 0 ∨ s.gt.aligned = false ∨ start < s.cycle + 5120 ∨ launchOk s p.val img true = false ∨ (partAt s p.val).job ≠ none) →
      Completes (.lockstepLaunch p t0 tag img) s (fun u => u = s)) ∧
    (partExists s p.val = true → (partAt s p.val).job = none → tag ≠ 0 → t0 % 8 = 0 → groupId s ≠ 0 → s.gt.aligned = true →
      s.cycle + 5120 ≤ start → img.lockstep = true → launchOk s p.val img true = true → Completes (.lockstepLaunch p t0 tag img) s (fun u =>
        (∃ job, (partAt u p.val).job = some job ∧ job.lockstep = true ∧ job.t0 = t0 ∧ job.tag = tag.toNat ∧ job.started = false) ∧
        ∀ x ∈ img.tiles, (tileAt s x.tile).regs.state = .idle → (tileAt u x.tile).seq.stream = .armed (start / 512)))) ∧
  (∀ (n : PortId) (h : Nat) (c : LockCell) (s : State), isRoot s = true →
    (portNo s n.val).held.find? (fun y => y.2.dstModule.toNat = memberNo s) = some (h, c) → c.window = 63 → c.len8 = 1 →
    Completes (.wantedPoint c) s (fun u => fmGet none u.gov.wanted (leAt c.data 2 2) = some (leAt c.data 0 1) ∧ u.net = s.net ∧ u.tiles = s.tiles))

/-- R394, R414–R416, R424: messages of clients by a service port. PING is answered with its body; a REQUEST that is refused gets
a REJECT with the reason and is counted, a repeated one is discarded, one that is taken gets its session, an ACCEPT and a
count; the CONTINUE of the next SEQ is appended; CANCEL waits for the next step boundary; a request whose input does not come
ends with REJECT reason 7. The model's own readings and choices it rests on: log entries 59, 104. -/
def Obligations.ClientMessagesAreServed : Prop :=
  (∀ (m : InMsg) (s : State), partExists s m.part = true → s.rcv.resetting = false → s.rcv.withdrawn = false → 16 ≤ m.queue →
    let sent (u : State) (type : Nat) (body : List Byte) : Prop :=
      ∃ rest, u.out = s.out ++ .datagram m.port m.src m.sport m.vlan m.linkLocal (colqua type m.part m.session m.reqId 0 body) :: rest
    Completes (.ping m) s (fun u => u = { s with out := u.out } ∧ sent u 0x1F m.body) ∧
    (∀ y, findReq s m.part m.session m.reqId = some y → Completes (.request m) s (fun u => u = s)) ∧
    (findReq s m.part m.session m.reqId = none → intakeFull s m.part = false →
      (refusal s m ≠ 0 → Completes (.request m) s (fun u => sent u 0x14 [BitVec.ofNat 8 (refusal s m)] ∧ u.sessions = s.sessions ∧
        (partAt u m.part).reqs = (partAt s m.part).reqs ∧
        fmGet 0 (partAt u m.part).counts 5 = min (2 ^ 64 - 1) (fmGet 0 (partAt s m.part).counts 5 + 1))) ∧
      (bodyOk m.body = false → refusal s m = 1) ∧
      (∀ img, refusal s m = 0 → (partAt s m.part).model = some (reqOf m).model → (partAt s m.part).image = some img → (sessAt s m.session).st = .resident →
        (reqOf m).firstUs = 0 → (reqOf m).tokenUs = 0 → Completes (.request m) s (fun u =>
          (∃ r ∈ (partAt u m.part).reqs, r.session = m.session ∧ r.reqId = m.reqId ∧ r.accepted = true ∧ r.maxTokens = leAt m.body 8 4) ∧
          (sessAt u m.session).st = .active ∧ (sessAt u m.session).requestId = m.reqId ∧
          (∃ body, leAt body 0 1 = m.part % 256 ∧ sent u 0x10 body) ∧
          fmGet 0 (partAt u m.part).counts 1 = min (2 ^ 64 - 1) (fmGet 0 (partAt s m.part).counts 1 + 1))))) ∧
  (∀ (m : InMsg) (s : State) (p : Nat) (r : Req), findReq s m.part m.session m.reqId = some (p, r) →
    Completes (.cancel m) s (fun u => u = setReq s p { r with cancel := true }) ∧
    (∀ img, rMore r = true → r.early = [] → m.seq = r.nextSeq → contOk r.mode m.body = true → modelImage s p r.model = some img →
      let input := r.input ++ unitsOf r.mode (m.body.drop 8)
      positionOf s p r + input.length ≤ img.svc.ctxMax → Completes (.continueReq m) s (fun u => u = setReq s p { r with
        input := input, nextSeq := r.nextSeq + 1, lastIn := m.stamp, flags := if leAt m.body 4 1 = 2 then r.flags else r.flags - 2 })) ∧
    (m.seq < r.nextSeq → Completes (.continueReq m) s (fun u => u = s))) ∧
  (∀ (p : PartId) (s : State) (r : Req), (partAt s p.val).reqs = [r] → 16 ≤ r.queue → r.home = none → rClose r = false →
    (rMore r = true → r.lastIn + 1000000 ≤ s.us → (sessAt s r.session).st = .active → Completes (.inputTimeout p r.reqId) s (fun u => (partAt u p.val).reqs = [] ∧
      (sessAt u r.session).st = .resident ∧ ∃ rest, u.out = s.out ++ .datagram r.port r.src r.sport r.vlan r.linkLocal
        (colqua 0x14 p.val r.session r.reqId r.sendSeq [7]) :: rest)) ∧
    (rMore r = false → Completes (.inputTimeout p r.reqId) s (fun u => u = s)))

/-- R391, R392, R410, R411, R413: the two doors. A frame of a port that serves is discarded under the first check that fails, or
its message is taken, or an ICMPv6 answer goes out; a port that does not serve takes none. QP_CTRL enables a pair only with a
weight and legal sizes; a tail and a head are taken; a submission entry moves HEAD on, sets BADENTRY or DMAERR where it is
bad, and its PING is answered by one record in the response ring: prefix, message, padding to 64 bytes. The model's own
readings and choices it rests on: log entries 58, 91, 104. -/
def Obligations.FramesAndQueuePairsAreServed : Prop :=
  (∀ (n : PortId) (bytes : List Byte) (e : Bool) (us : Nat) (s : State), mirrorsOf s n.val 0 = [] → us ≤ s.us → s.rcv.resetting = false →
    (portServes s n.val = false → Completes (.frame n bytes e us) s (fun u => u = s)) ∧
    (portServes s n.val = true →
      (e = true → checkFrame s n.val bytes e us = .bad 0) ∧
      (∀ k, checkFrame s n.val bytes e us = .bad k → Completes (.frame n bytes e us) s (fun u => u = { s with coppice := u.coppice } ∧
        let x := portNo s n.val
        portNo u n.val = { x with discards := (portNo u n.val).discards } ∧
        fmGet 0 (portNo u n.val).discards k = min (2 ^ 64 - 1) (fmGet 0 x.discards k + 1))) ∧
      (∀ m, checkFrame s n.val bytes e us = .message m → Completes (.frame n bytes e us) s (fun u => u = message m s)) ∧
      (∀ a dst, checkFrame s n.val bytes e us = .icmp (some a) dst → mirrorsOf s n.val 1 = [] →
        Completes (.frame n bytes e us) s (fun u => u = { s with out := s.out ++ [.icmp n.val dst a] })) ∧
      (∀ dst, checkFrame s n.val bytes e us = .icmp none dst → Completes (.frame n bytes e us) s (fun u => u = s)))) ∧
  (∀ (p : PartId) (q : QpId) (v : BitVec 32) (s : State), LinkUp s → partExists s p.val = true →
    let z := nextCycle (fun x => x) s
    let x := qpAt z p.val q.val
    partExists z p.val = true → x.held = [] →
    Completes (.qpCtrl p q v) s (fun u =>
      let y := qpAt u p.val q.val
      (qpEnable y = true ↔ v.getLsbD 31 = true ∧ field v.toNat 7 0 ≠ 0 ∧ 4 ≤ field v.toNat 19 16 ∧ 12 ≤ field v.toNat 24 20 ∧
        field v.toNat 24 20 ≤ 24) ∧
      qpWeight y = field v.toNat 7 0 ∧ qpSqLog y = field v.toNat 19 16 ∧ qpRqLog y = field v.toNat 24 20 ∧
      y.tail < 2 ^ qpSqLog y ∧ y.head < 2 ^ qpSqLog y) ∧
    Completes (.qpSqTail p q v) s (fun u => qpAt u p.val q.val = { x with tail := v.toNat % 2 ^ qpSqLog x }) ∧
    Completes (.qpRqHead p q v) s (fun u => qpAt u p.val q.val = { x with rqHead := v.toNat })) ∧
  (∀ (p : PartId) (q : QpId) (entry : List Byte) (msg : Option (List Byte)) (us : Nat) (s : State), us ≤ s.us →
    let x := qpAt s p.val q.val
    let x' := { x with head := (x.head + 1) % 2 ^ qpSqLog x }
    let takes : Prop := partExists s p.val = true ∧ qpEnable x = true ∧ x.head ≠ x.tail ∧ intakeFull s p.val = false ∧
      s.rcv.resetting = false ∧ s.rcv.withdrawn = false
    let plain : Prop := (∀ b ∈ entry.drop 10, b = 0) ∧ leAt entry 0 8 % 8 = 0
    (x.head = x.tail → Completes (.submissionEntry p q entry msg us) s (fun u => u = s)) ∧
    (takes → ¬ plain → Completes (.submissionEntry p q entry msg us) s (fun u => qpAt u p.val q.val = { x' with badEntry := true })) ∧
    (takes → plain → leAt entry 8 2 = 0 → Completes (.submissionEntry p q entry msg us) s (fun u => qpAt u p.val q.val = x')) ∧
    (takes → plain → 32 ≤ leAt entry 8 2 → leAt entry 8 2 ≤ 9150 →
      Completes (.submissionEntry p q entry none us) s (fun u => qpAt u p.val q.val = { x' with dmaErr := true }) ∧
      (∀ b, b.length = leAt entry 8 2 → colquaOk b = true → leAt b 4 1 = p.val → leAt b 3 1 = 15 → x.held = [] → pcieUp s = true →
        let size := 2 ^ qpRqLog x
        let n := (b.length + 8 + 63) / 64 * 64
        let used := (x.rqTail + 2 ^ 32 - x.rqHead) % 2 ^ 32
        n ≤ size - x.rqTail % size → used + n ≤ size →
        let m := colqua 0x1F p.val (leAt b 8 4) (leAt b 12 8) 0 (b.drop 32)
        Completes (.submissionEntry p q entry (some b) us) s (fun u => qpAt u p.val q.val = { x' with rqTail := (x.rqTail + n) % 2 ^ 32 } ∧
          ∃ rest, u.out = s.out ++
            .hostWrite (1 + p.val) (ringBase x.rqLo x.rqHi + x.rqTail % size) (natLe 2 m.length ++ zeros 6 ++ fit 0 (n - 8) m) :: rest))))

/-- R402–R404, R406, R435: CREATE of a definition that fails a check changes nothing but the result; of one that passes gives Pn
its blocks, its memory, its span and its slices, an empty range table and state Idle. DELETE of an absent partition answers
8, and leaves no partition, tile or slice of an existing one. RESET ends the job with cause 0x11 and keeps sessions and
waiting requests. The session extent and the selected session are taken where they are the partition's. The model's own
readings and choices it rests on: log entries 66, 67, 104. -/
def Obligations.PartitionsAreCreatedResetAndDeleted : Prop :=
  ∀ (p : PartId) (s : State),
    (partsServed s = true →
      (createCode s p.val ≠ 0 → Completes (.create p) s (fun u => u = partResult (createCode s p.val) p.val s)) ∧
      (partDef s p.val = none → createCode s p.val = 1) ∧
      (∀ d, partDef s p.val = some d → createCode s p.val = 0 → Completes (.create p) s (fun u =>
        (partAt u p.val).state = 2 ∧ (partAt u p.val).blocks = d.blocks ∧ (partAt u p.val).dmBase = d.dmBase ∧
        (partAt u p.val).dmSize = d.dmSize ∧ (partAt u p.val).sessBase = d.sessBase ∧ (partAt u p.val).sessCount = d.sessCount ∧
        (partAt u p.val).job = none ∧ (xlAt u p.val).table = [] ∧ (xlAt u p.val).wins = [] ∧ u.ctl.cmdResult = 256 * p.val ∧
        (∀ t ∈ defTiles d, (tileAt u t).regs.partValid = true ∧ (tileAt u t).regs.part.toNat = p.val ∧ (tileAt u t).ls = (tileAt s t).ls) ∧
        (∀ h ∈ sliceList u p.val, (sliceAt u h).valid = true ∧ (sliceAt u h).part.toNat = p.val) ∧
        ∀ k, k < d.sessCount → (sessAt u (d.sessBase + k)).st = .free)) ∧
      (partExists s p.val = false → Completes (.delete p) s (fun u => u = partResult 8 p.val s) ∧
        Completes (.reset p) s (fun u => u = partResult 8 p.val s)) ∧
      (partExists s p.val = true → (partAt s p.val).reqs = [] → (partAt s p.val).job = none → sessionsOf s p.val = [] →
        Completes (.delete p) s (fun u => partAt u p.val = partReset ∧ u.ctl.cmdResult = 256 * p.val ∧ sliceList u p.val = [] ∧
          (∀ t, inPart s p.val t = true → (tileAt u t).regs.partValid = false ∧ (tileAt u t).look = []) ∧
          (∀ h ∈ sliceList s p.val, (sliceAt u h).valid = false ∧ (sliceAt u h).lines = []) ∧ (xlAt u p.val).table = [])) ∧
      (partExists s p.val = true → sampled s 2 = false → (∀ r ∈ (partAt s p.val).reqs, r.inFlight = false) →
        Completes (.reset p) s (fun u => (partAt u p.val).job = none ∧ (partAt u p.val).state = 2 ∧ (partAt u p.val).hold = false ∧
          (partAt u p.val).reqs = (partAt s p.val).reqs ∧ u.sessions = s.sessions ∧ u.ctl.cmdResult = 256 * p.val ∧
          ((partAt s p.val).job ≠ none → (partAt u p.val).faults.cause = 0x11)))) ∧
    (∀ ext : BitVec 16,
      (extentNameOk s p.val ext.toNat = false → Completes (.sessionExtent p ext) s (fun u => u = s)) ∧
      (extentNameOk s p.val ext.toNat = true → partExists s p.val = false → Completes (.sessionExtent p ext) s (fun u =>
        u = { s with ctl := u.ctl } ∧ dictNat u 0x3011 (p.val + 1) 0xFFFF = ext.toNat))) ∧
    (∀ (r : Requester) (v : List Byte), (r = .vfMailbox p ∨ roleOf s (clientNo r) ≠ 1) → s.boot.life ≠ 4 → runningSlot s ≠ none →
      readyBit s 10 = true → v.length = 4 →
      (inSpan s p.val (leNat v) = true → Completes (.sessionSelect r p v) s (fun u => u = { s with ctl := u.ctl } ∧
        fmGet none (clientAt u (clientNo r)).selSession p.val = some (leNat v))) ∧
      (inSpan s p.val (leNat v) = false → Completes (.sessionSelect r p v) s (fun u => u = s)))

/-- R418–R427, R430, R455: a step boundary ends a cancelled request with reason 2 and gives a running request its slot in the
next step, whose record is then under way; the output of the oldest step moves its session on by what the slot consumed,
takes the token that it gives and sends it; a session command is applied where the session is held; a resume that a member
does not confirm is rejected with reason 6. The model's own readings and choices it rests on: log entries 10, 60, 61, 65,
104. -/
def Obligations.StepsAreBuiltAndReported : Prop :=
  (∀ (p : PartId) (us : Nat) (s : State) (r : Req), us ≤ s.us → partExists s p.val = true → s.rcv.resetting = false → s.rcv.withdrawn = false →
    (partAt s p.val).reqs = [r] → r.home = none →
    (r.cancel = true → 16 ≤ r.queue → rClose r = false → (partAt s p.val).job = none → (partAt s p.val).image = none →
      Completes (.stepBoundary p us) s (fun u => (partAt u p.val).reqs = [] ∧
        ∃ body rest, leAt body 0 1 = 2 ∧ u.out = s.out ++ .datagram r.port r.src r.sport r.vlan r.linkLocal
          (colqua 0x13 p.val r.session r.reqId r.sendSeq body) :: rest)) ∧
    (∀ job img x, (partAt s p.val).job = some job → (partAt s p.val).image = some img → (partAt s p.val).model = some r.model →
      (partAt s p.val).hold = false → job.started = true → job.open_ = [] → img.lockstep = false → r.cancel = false → r.accepted = true →
      r.inFlight = true → r.started = true → r.firstAt ≠ none → rReplay r = false → stepable s p.val r = true →
      slotFor s p.val img r = some x → (∀ cap, capOf s (sessAt s r.session) = some cap → needsTokens (positionOf s p.val r) x ≤ cap) →
      affordable s p.val (estimate (partAt s p.val) img 1) = true →
      Completes (.stepBoundary p us) s (fun u => ∃ o, o.no = job.step ∧ o.slots = [x] ∧ o.startUs = us ∧
        (partAt u p.val).job = some { job with step := job.step + 1, open_ := [o] }))) ∧
  (∀ (p : PartId) (us : Nat) (s : State) (job : Job) (img : Image) (o : OpenStep) (x : StepSlot) (r : Req),
    us ≤ s.us → 0 < (partAt s p.val).outputs → (partAt s p.val).job = some job → (partAt s p.val).image = some img → job.open_ = [o] → o.slots = [x] →
    (partAt s p.val).reqs = [r] → r.session = x.session → r.reqId = x.reqId → r.home = none → rClose r = false → 16 ≤ r.queue →
    let pos := (sessAt s x.session).tokens
    (x.kind = 0 → x.gives = false → rMore r = true → Completes (.stepOutput p us) s (fun u =>
      (partAt u p.val).job = some { job with open_ := [] } ∧ (sessAt u x.session).tokens = pos + x.adv ∧
      (partAt u p.val).tauP = meanStep (partAt s p.val).tauP (us - o.startUs) ∧ (partAt u p.val).tauD = (partAt s p.val).tauD)) ∧
    (x.kind = 1 → x.gives = true → Completes (.stepOutput p us) s (fun u =>
      (partAt u p.val).job = some { job with open_ := [] } ∧ (sessAt u x.session).tokens = pos + x.adv ∧
      ∃ tok text mid rest, u.out = s.out ++ mid ++ .datagram r.port r.src r.sport r.vlan r.linkLocal (colqua 0x11 p.val x.session r.reqId r.sendSeq
        (natLe 1 p.val ++ natLe 1 1 ++ natLe 2 text.length ++ natLe 4 (pos + x.adv) ++ natLe 4 tok ++ text)) :: rest))) ∧
  (∀ (p : PartId) (i : Nat) (s : State), partExists s p.val = true →
    (∀ tag va slot seed, inSpan s p.val i = true → (sessAt s i).st = .free →
      Completes (.sessionCommand p (.openSession i tag va 0 slot seed)) s (fun u => (sessAt u i).st = .resident ∧
        (sessAt u i).modelTag = tag ∧ (sessAt u i).seed = seed ∧ (sessAt u i).part = p.val ∧ (sessAt u i).tokens = 0)) ∧
    ((sessAt s i).st ≠ .free → (sessAt s i).fallback = none → Completes (.sessionCommand p (.close i)) s (fun u => sessAt u i = sessReset)) ∧
    (∀ m, Completes (.sessionCommand p (.absent i m)) s (fun u => u = { s with sessions := u.sessions } ∧
      let x := sessAt s i
      sessAt u i = { x with tokens := 0 })) ∧
    (∀ m t ms, (partAt s p.val).resumes = [(i, t, ms)] → Completes (.sessionCommand p (.confirm i m)) s (fun u => OnlyPart p.val s u ∧
      (partAt u p.val).resumes = if ms.filter (· ≠ m) = [] then [] else [(i, t, ms.filter (· ≠ m))])) ∧
    (∀ r t ms, (partAt s p.val).reqs = [r] → r.session = i → 16 ≤ r.queue → r.home = none → (partAt s p.val).resumes = [(i, t, ms)] → ms ≠ [] →
      t + 10000 ≤ s.us →
      Completes (.resumeConfirmationTimeout p i) s (fun u => (partAt u p.val).reqs = [] ∧ (partAt u p.val).resumes = [] ∧
        ∃ rest, u.out = s.out ++ .datagram r.port r.src r.sport r.vlan r.linkLocal (colqua 0x14 p.val i r.reqId r.sendSeq [6]) :: rest)) ∧
    ((partAt s p.val).resumes = [] → Completes (.resumeConfirmationTimeout p i) s (fun u => u = s)))

/-- R436, R438, R439, R441–R447, R450, R451, R453, R454, R456: an estimation interval adds its calibrated estimate to the epoch
and to the accounts of its consumers, freezes the gain of a failed converter, counts a fast limit, and at 110 °C of a Hazel
sensor stops the compute clock and ends every job; an epoch boundary moves the gains, judges the ended epoch, takes the
settings, brings the decided point into force and divides the headroom; the decision follows the first row that applies; a
droop detection starts or extends a stretch event of 256 periods, which pass in 128 cycles and leave 128 in LAG, less what is
repaid; at its end another follows while the estimate stays above P_CEIL. The model's own readings and choices it rests on:
log entries 6, 68, 69, 70, 71, 101, 105. -/
def Obligations.GovernorMeasuresDecidesAndStretches : Prop :=
  (∀ (x : Interval) (s : State), clockOn s = true → s.cycle % 4096 = 0 → s.gov.interval < s.cycle / 4096 →
    let ns := nowNs s - s.gov.markNs
    let e := intervalEnergy s.gov (rawAll s.point ns (sensorMap x.sensors) x)
    let calm : Prop := (∀ d, d < 4 → x.sensors.hazel.getD d 0 < 100000) ∧ x.sensors.husk < 100000 ∧ x.sensors.regulator < 115000
    let sound : Prop := ∀ d, d < 21 → x.converterFault.getD d false = false
    (calm → sound → e * 1000 ≤ 7500 * ns → s.gov.overNs + ns < 10000000 →
      let plain (u : State) : Prop := u.gov.epochE = s.gov.epochE + e ∧ u.gov.epochNs = s.gov.epochNs + ns ∧
        u.gov.est = min 65535 (e * 1000 / max 1 ns) ∧ u.gov.interval = s.cycle / 4096 ∧ u.gov.thermal = false ∧
        u.gov.event = s.gov.event ∧ u.gov.clockStopped = false
      (∀ c p, x.charges = [(c, 1)] → accountOf s c = some p → partExists s p = true → Completes (.estimationInterval x) s (fun u => plain u ∧
        fmGet 0 (partAt u p).energy 18 = min topEnergy (fmGet 0 (partAt s p).energy 18 + e))) ∧
      (∀ c, x.charges = [(c, 1)] → accountOf s c = none → Completes (.estimationInterval x) s (fun u => plain u ∧ u.parts = s.parts ∧
        u.gov.devCharge = s.gov.devCharge + e ∧ u.gov.devAccount = min topEnergy (s.gov.devAccount + e)))) ∧
    (∀ d, calm → d < 21 → x.converterFault.getD d false = true → fmGet false s.gov.frozen d = false →
      Completes (.estimationInterval x) s (fun u => fmGet false u.gov.frozen d = true ∧ gainOf u.gov d = 65536 ∧ u.gov.event.getLsbD 3 = true)) ∧
    (calm → sound → 7500 * ns < e * 1000 → Completes (.estimationInterval x) s (fun u => u.gov.event.getLsbD 1 = true ∧
      u.gov.stretchLeft = 256 ∧ u.gov.fastEvents = min (2 ^ 64 - 1) (s.gov.fastEvents + 1))) ∧
    (∀ d, sound → d < 4 → 110000 ≤ x.sensors.hazel.getD d 0 → x.sensors.husk < 100000 → x.sensors.regulator < 115000 →
      s.rcv.snap = none → s.rcv.asked = none → Completes (.estimationInterval x) s (fun u =>
        u.gov.clockStopped = true ∧ u.gov.event.getLsbD 4 = true ∧ u.gov.thermal = true ∧ u.rcv.asked = some (3, 4) ∧
        ∀ p, (partAt u p).job = none))) ∧
  (∀ (x : EpochMeasure) (s : State) (p : Nat) (y : Part), Quiet s → s.parts = [(p, y)] → partExists s p = true →
    Completes (.epochBoundary x) s (fun u =>
      u.cycle = s.cycle + (2 ^ 20 - epochCycle s s.cycle % 2 ^ 20) ∧ u.gov.halfDone = false ∧ u.gov.epochE = 0 ∧
      u.gov.capNow = dictNat s 0x2010 1 6000 ∧ u.gov.winNow = dictNat s 0x2010 2 5 ∧ u.gov.ceilNow = dictNat s 0x2010 3 6600 ∧
      (groupId s = 0 → s.gov.clock = epochClock s → u.point = s.gov.next) ∧
      (epochOverrun s.gov = true → u.gov.overrunLast = true ∧ u.gov.overruns = min (2 ^ 64 - 1) (s.gov.overruns + 1) ∧ u.gov.event.getLsbD 2 = true) ∧
      (epochOverrun s.gov = false → u.gov.overrunLast = false ∧ u.gov.overruns = s.gov.overruns) ∧
      (let hd := u.gov.headroom - s.gov.devCharge
       let g := hd * y.energyShare / 65536
       (partAt u p).balance = max 0 ((g : Int) + min 0 y.balance) ∧ u.gov.pool = hd - g) ∧
      ∀ d, d < 21 → fmGet false s.gov.frozen d = false →
        let e := fmGet 0 s.gov.raw d
        let m := measuredOf s.gov d
        e ≤ 4 * m → m ≤ 4 * e → 0 < e → x.fusedMax.getD d 0 ≤ 100 * e →
        gainOf u.gov d = (clampInt 32768 81920 ((gainOf s.gov d : Int) + (((m * 65536 / e : Nat) : Int) - (gainOf s.gov d : Int)) / 16)).toNat)) ∧
  (∀ s : State, readyBit s 3 = true → s.gov.clockStopped = false → epochCycle s s.cycle % 2 ^ 20 = 2 ^ 19 → s.gov.halfDone = false →
    let decided (n : Nat) : Prop := Completes .pointDecision s (fun u =>
      let g' := { s.gov with halfDone := true, next := max n (dictNat s 0x2020 0 0) }
      u = { s with gov := g' })
    let some_ : Bool := s.parts.any (fun y => partExists s y.1)
    (groupId s = 0 →
      (some_ = false → decided 7) ∧
      (some_ = true → s.gov.thermal = true → decided (min 7 (s.point + 1))) ∧
      (some_ = true → s.gov.thermal = false → s.gov.overrunLast = true → (∀ q, overRating s q = false) → decided (min 7 (s.point + 1))) ∧
      (some_ = true → s.gov.thermal = false → s.gov.overrunLast = false → 16 ≤ s.gov.goodRun → decided (s.point - 1)) ∧
      (some_ = true → s.gov.thermal = false → s.gov.overrunLast = false → s.gov.goodRun < 16 → decided s.point)) ∧
    (groupId s ≠ 0 → isRoot s = true → s.gt.aligned = true → Completes .pointDecision s (fun u =>
      ∃ q, u.gt.freq = s.gt.freq ++ [(epochOf (groupCycle s s.cycle) + 3, q)] ∧ q ≤ 7 ∧
      ∀ m : PortId, (portNo s m.val).role = 1 → 3 ≤ (portNo s m.val).state → (portNo s m.val).state ≠ 5 →
        (portNo u m.val).outBlocks = (portNo s m.val).outBlocks ++
          [(s.cycle, ctlBlock 0x14 ((epochOf (groupCycle s s.cycle) + 3) % 2 ^ 48 * 2 ^ 200 + q * 2 ^ 192))]))) ∧
  (∀ (r : Fin 36) (s : State), clockOn s = true →
    let start (u : State) : Prop := u.gov.stretchLeft = 256 ∧
      u.gov.stretches = if s.gov.stretchLeft = 0 then min (2 ^ 64 - 1) (s.gov.stretches + 1) else s.gov.stretches
    Completes (.droopDetection r) s (fun u => start u ∧ u.gov.event.getLsbD 0 = true) ∧
    (Quiet s → s.gov.stretchLeft = 256 → s.gt.lag + 128 ≤ 1024 → Completes .stretchEvent s (fun u => u.cycle = s.cycle + 128 ∧
      u.gt.lag = s.gt.lag + 128 - repaid s (s.cycle + 128) ∧ u.gov.stretchLeft = 0)) ∧
    (s.gov.stretchLeft = 0 → s.gt.lag ≤ 1024 →
      (s.gov.overNs < 10000000 → Completes .stretchEventEnd s (fun u => u = s)) ∧
      (10000000 ≤ s.gov.overNs → Completes .stretchEventEnd s (fun u => start u ∧ u.gov.event.getLsbD 1 = true))))

/-- R464, R465, R468–R476, R479, R483, R484: a detector of a job's hang, and the operator, end the job with the cause's code; a
watchdog of the module and a command reset the device or the module: the dies, stacks, slices, partitions and sessions are
empty, the reset stands in the history with its cause, and the Seedbank keeps its bytes; where 0x9040 selects the domain the
snapshot goes first, and a reset during a snapshot waits; a reset that misses its bound escalates; Withdrawn is entered and
left with a device reset; the hold is cleared, and the image launched again. The model's own readings and choices it rests
on: log entries 6, 67, 73, 74. -/
def Obligations.HangsKillsAndResets : Prop :=
  (∀ (p : PartId) (s : State) (job : Job), (partAt s p.val).job = some job → KillsPlainly s p.val →
    (∀ o rest, job.open_ = o :: rest → o.startUs + 1000 * job.watchdogMs ≤ s.us → Completes (.stepWatchdog p) s (fun u =>
      (partAt u p.val).job = none ∧ (partAt u p.val).faults.cause = 0x12 ∧ (partAt u p.val).hold = true)) ∧
    (job.open_ = [] → Completes (.stepWatchdog p) s (fun u => u = s)) ∧
    (partExists s p.val = true → Completes (.jobKillCommand p) s (fun u => (partAt u p.val).job = none ∧ (partAt u p.val).faults.cause = 0x16))) ∧
  (∀ (s : State) (r : Option Bool), s.boot.running = some r → s.pins.taken = false → s.seed.writes = [] →
    let entry (cause domain : Nat) : List Byte := natLe 8 (standbyTime s) ++ natLe 1 cause ++ natLe 1 domain ++ natLe 2 0xFFFF ++ zeros 4
    let reset (cause domain : Nat) (u : State) : Prop :=
      u.rcv.resetting = true ∧ u.rcv.history = (entry cause domain :: s.rcv.history).take 16 ∧ u.cycle = 0 ∧ u.point = 7 ∧ u.tiles = [] ∧
      u.tile0 = tileReset ∧ u.slices = [] ∧ u.dm.mem = [] ∧ u.dm.failed = s.dm.failed ∧ u.sessions = [] ∧ u.xl = [] ∧
      (∀ p, (partAt u p).job = none) ∧ (∀ n, n ∈ [3, 4, 5, 6, 7, 10] → readyBit u n = false) ∧ u.seed.mem = s.seed.mem ∧ u.seed.extents = s.seed.extents ∧
      u.rcv.withdrawn = (s.rcv.withdrawn || withdraws s cause) ∧
      (domain = 4 → u.boot.running = none ∧ u.boot.ready = 0 ∧ u.seed.status = 0)
    let sampling (cause domain : Nat) (u : State) : Prop :=
      u.rcv.after = some (domain, cause, none) ∧ (∃ y, u.rcv.snap = some y ∧ y.cause = cause ∧ y.domain = domain ∧ y.cycle = s.cycle) ∧
      u.parts = s.parts ∧ u.dm.mem = s.dm.mem
    (s.rcv.snap = none →
      (sampled s 3 = false →
        Completes .applicationCoreWatchdog s (reset 5 3) ∧
        (∀ c : BitVec 8, Completes (.deviceReset c) s (reset c.toNat 3)) ∧
        (∀ d : DieId, s.esp.hubOk.getLsbD d.val = true → Completes (.hubWatchdog d) s (reset 8 3)) ∧
        (s.rcv.withdrawn = true → Completes .clearWithdrawn s (fun u => u.rcv.withdrawn = false ∧ u.rcv.times = [] ∧
          u.rcv.history = (entry 0x0C 3 :: s.rcv.history).take 16)) ∧
        (s.rcv.withdrawn = false → Completes .enterWithdrawn s (fun u => u.rcv.withdrawn = true ∧ u.tiles = [] ∧
          u.rcv.history = (entry 0x0C 3 :: s.rcv.history).take 16))) ∧
      (sampled s 4 = false →
        Completes .managementWatchdog s (reset 6 4) ∧
        (∀ c : BitVec 8, c ≠ 2 → Completes (.moduleReset c) s (reset c.toNat 4)) ∧
        Completes (.moduleReset 2) s (fun u => u.tiles = [] ∧ u.boot.running = none ∧ u.rcv.withdrawn = s.rcv.withdrawn ∧
          u.rcv.history = (entry 2 4 :: s.rcv.history).take 16)) ∧
      (sampled s 3 = true → readyBit s 6 = true → s.gov.clockStopped = false → Completes .applicationCoreWatchdog s (sampling 5 3))) ∧
    (∀ (y : Snap) (c : BitVec 8), s.rcv.snap = some y →
      (y.cycle ≠ s.cycle → s.rcv.asked = none → Completes (.deviceReset c) s (fun u =>
        let k := { s.rcv with asked := some (3, c.toNat) }
        u = { s with rcv := k })) ∧
      (y.cycle = s.cycle → y.domain < 3 → s.gov.clockStopped = false → Completes (.deviceReset c) s (sampling c.toNat 3)))) ∧
  (∀ (d : DieId) (s : State), s.esp.hubOk.getLsbD d.val = false → Completes (.hubWatchdog d) s (fun u => u = s)) ∧
  (∀ (p : PartId) (s : State) (cause : Nat),
    (∀ y, s.rcv.after = some (1, cause, some p.val) → s.rcv.snap = some y → y.us + 10000 ≤ s.us → Completes (.escalation (some p)) s (fun u =>
      let k := { s.rcv with after := some (2, 0x11, some p.val) }
      u = { s with rcv := k })) ∧
    (∀ y, s.rcv.after = some (2, cause, some p.val) → s.rcv.snap = some y → y.us + 100000 ≤ s.us → Completes (.escalation (some p)) s (fun u =>
      let k := { s.rcv with after := some (3, 7, none) }
      u = { s with rcv := k })) ∧
    (s.rcv.resetting = false → Completes (.escalation none) s (fun u => u = s)) ∧
    (s.rcv.resetting = true → s.rcv.began + 10000000 ≤ s.us → s.rcv.snap = none → sampled s 4 = false → Completes (.escalation none) s (fun u =>
      u.boot.running = none ∧ u.tiles = [] ∧ ∃ rest, u.rcv.history =
        (natLe 8 (standbyTime s) ++ natLe 1 7 ++ natLe 1 4 ++ natLe 2 0xFFFF ++ zeros 4) :: rest))) ∧
  (∀ (p : PartId) (s : State),
    (((partAt s p.val).image = none ∨ (partAt s p.val).hold = false) → Completes (.holdFlagClear p) s (fun u => OnlyPart p.val s u ∧
      let x := partAt s p.val
      partAt u p.val = { x with hold := false })) ∧
    (∀ i, (partAt s p.val).image = some i → (partAt s p.val).hold = true → (partAt s p.val).job = none → i.lockstep = false →
      dictNat s 0x9020 (p.val + 1) 3 ≠ 0 → launchOk (updPart s p.val (fun x => { x with hold := false })) p.val i false = true →
      Completes (.holdFlagClear p) s (fun u => (partAt u p.val).hold = false ∧ (partAt u p.val).image = some i ∧
        (partAt u p.val).state = 3 ∧ (partAt u p.val).job ≠ none)))

/-- R506, R507, R509, R512–R516: a request whose SEQ follows the last is served and its response kept; one that repeats the last
SEQ gets the kept response and is not executed; any other is refused with SEQUENCE. READ answers the value, WRITE checks
access, length, range and store before the entry takes the value, READ_SEG reads the snapshot of offset 0, CLEAR empties an
entry that has an empty value. A UDP session is opened with a nonce and the lowest free number, serves nothing before AUTH,
ends with a wrong proof, with CLOSE and after 60 s. The model's own readings and choices it rests on: log entries 10, 77, 78,
81. -/
def Obligations.DictionaryRequestsAreAnswered : Prop :=
  (∀ (f : HFrame) (s : State) (c : Instr) (op : Nat) (stored : Bool),
    (c, op) ∈ [(Instr.read .i3c f, 1), (.write .i3c f stored, 2), (.readSeg .i3c f, 3), (.dictionaryClear .i3c f stored, 4)] →
    readyBit s 0 = true → s.boot.running ≠ none → frameOk op f = true → f.session = 0 →
    let k := clientAt s 0
    let answered (frame : List Byte) (u : State) : Prop :=
      u.out = s.out ++ [.response 0 frame] ∧ u = { s with out := u.out, ctl := u.ctl } ∧
      (clientAt u 0).seq = f.seq ∧ (clientAt u 0).resp = frame
    let refused (code : Nat) (u : State) : Prop :=
      answered (respFrame f 0xFF f.offset 0 (natLe 4 code)) u ∧ u.ctl.vals = s.ctl.vals
    (f.seq = k.seq → k.resp ≠ [] → Completes c s (fun u => u = { s with out := s.out ++ [.response 0 k.resp] })) ∧
    (f.seq ≠ k.seq → f.seq ≠ (k.seq + 1) % 2 ^ 32 → Completes c s (fun u =>
      u = { s with out := s.out ++ [.response 0 (respFrame f 0xFF f.offset 0 (natLe 4 0x05000001))] })) ∧
    (f.seq = (k.seq + 1) % 2 ^ 32 →
      (op = 1 → (∀ v, dictRead s 0 f.index f.sub = .ok v → v.length ≤ 1024 → Completes c s (answered (respFrame f 0x81 f.offset 0 v))) ∧
        (∀ v, dictRead s 0 f.index f.sub = .ok v → 1024 < v.length → Completes c s (refused 0x05000002)) ∧
        (∀ e, dictRead s 0 f.index f.sub = .error e → Completes c s (refused e))) ∧
      (∀ row a, op = 2 → findEntry s 0 f.index f.sub = .ok (some row, a) →
        (a = .ro → Completes c s (refused 0x02000002)) ∧
        (a = .rw → f.index ∈ [0x3070, 0x3081, 0x9010, 0x9011] →
          (f.data = [] → Completes c s (refused 0x03000002)) ∧
          (f.data ≠ [] → valueOk s 0 row f.sub f.data = false → Completes c s (refused 0x03000001)) ∧
          (valueOk s 0 row f.sub f.data = true → f.data ≠ [] → row.kept = true → stored = false → Completes c s (refused 0x06000001)) ∧
          (valueOk s 0 row f.sub f.data = true → f.data ≠ [] → stored = true → row.idx = f.index → Completes c s (fun u =>
            answered (respFrame f 0x82 f.offset 0 []) u ∧ dictVal u f.index f.sub = some f.data)))) ∧
      (∀ v, op = 3 → f.index ≠ 0x5051 → 0 < f.length → dictRead s 0 f.index f.sub = .ok v →
        let key := 256 * f.index + f.sub
        (f.offset = 0 → Completes c s (fun u => answered (respFrame f 0x83 0 0 (v.take f.length)) u ∧
          (clientAt u 0).snap = if v.length ≤ f.length then none else some (key, v))) ∧
        (∀ bytes, f.offset ≠ 0 → k.snap = some (key, bytes) →
          Completes c s (answered (respFrame f 0x83 f.offset 0 ((bytes.drop f.offset).take f.length)))) ∧
        (f.offset ≠ 0 → k.snap = none → Completes c s (refused 0x05000001))) ∧
      (∀ row, op = 4 → findEntry s 0 f.index f.sub = .ok (some row, .rw) → stateRo s f.index f.sub 0 = false →
        (row.empty = false → Completes c s (refused 0x03000001)) ∧
        (row.empty = true → stored = true → Completes c s (fun u => answered (respFrame f 0x84 f.offset 0 []) u ∧
          dictVal u f.index f.sub = some []))))) ∧
  (∀ (f : HFrame) (n : Nat) (src : List Byte) (s : State), readyBit s 0 = true → firmwareRuns s = true → s.pins.taken = false →
    sourceOk s src = true → frameOk 0x10 f = true → f.seq = 0 → (leAt f.data 0 1 = 0 ∨ leAt f.data 0 1 = 2) →
    (∀ k, freeUdp s = some k → Completes (.openSession (.udp n) f src) s (fun u => (clientAt u (64 + k)).open_ = true ∧
      (clientAt u (64 + k)).authed = false ∧ (clientAt u (64 + k)).vendor = decide (leAt f.data 0 1 = 2) ∧
      (clientAt u (64 + k)).nonce.length = 16 ∧ (clientAt u (64 + k)).src = src ∧
      u.out = s.out ++ [.response (64 + k) (respFrame f 0x90 0 k (clientAt u (64 + k)).nonce)])) ∧
    (freeUdp s = none → ∃ g, Completes (.openSession (.udp n) f src) s (fun u =>
      u = { s with out := s.out ++ [.response g (respFrame f 0xFF 0 0 (natLe 4 0x04000001))] }))) ∧
  (∀ (f : HFrame) (n : Nat) (s : State), readyBit s 0 = true → firmwareRuns s = true → s.pins.taken = false →
    let r : Requester := .udp n
    let k := clientAt s (64 + n)
    k.open_ = true → sourceOk s k.src = true → f.seq = (k.seq + 1) % 2 ^ 32 →
    (∀ key, frameOk 0x11 f = true → k.vendor = false → k.nonce ≠ [] → dictVal s 0xA010 0 = some key →
      (f.data = hmacSha256 key (k.nonce ++ natLe 4 n) → Completes (.auth r f) s (fun u => (clientAt u (64 + n)).authed = true ∧
        (clientAt u (64 + n)).open_ = true ∧ u.out = s.out ++ [.response (64 + n) (respFrame f 0x91 f.offset n [])])) ∧
      (f.data ≠ hmacSha256 key (k.nonce ++ natLe 4 n) → Completes (.auth r f) s (fun u => clientAt u (64 + n) = clientReset ∧
        u.out = s.out ++ [.response (64 + n) (respFrame f 0xFF 0 n (natLe 4 0x05000003))]))) ∧
    (frameOk 0x12 f = true → Completes (.close r f) s (fun u => clientAt u (64 + n) = clientReset ∧
      u.out = s.out ++ [.response (64 + n) (respFrame f 0x92 0 n [])])) ∧
    (frameOk 1 f = true → k.authed = false → Completes (.read r f) s (fun u => u.ctl.vals = s.ctl.vals ∧
      u.out = s.out ++ [.response (64 + n) (respFrame f 0xFF f.offset n (natLe 4 0x05000003))])) ∧
    (k.lastUs + 60000000 ≤ s.us → Completes (.sessionIdleTimeout n) s (fun u => clientAt u (64 + n) = clientReset ∧ u = { s with ctl := u.ctl }))) ∧
  (∀ (r : Requester) (s : State),
    ((clientAt s (clientNo r)).snap ≠ none → (clientAt s (clientNo r)).snapAt + 1000000 ≤ s.us → Completes (.segmentSnapshotExpiry r) s (fun u =>
      u = { s with ctl := u.ctl } ∧ (clientAt u (clientNo r)).snap = none)) ∧
    ((clientAt s (clientNo r)).snap = none → Completes (.segmentSnapshotExpiry r) s (fun u => u = s)))

/-- R507: a write of zero length is refused with ZERO_LENGTH; CLEAR sets an entry to empty, length 0, where its row gives empty a
meaning, which only rows of type STR and OCTETS do, and is refused with VALUE_RANGE on any other entry. A refusal changes
nothing. -/
def Obligations.EmptyValues : Prop :=
  ∀ (s : State) (r idx sub : Nat) (stored : Bool) (row : EntryRow) (a : Access), findEntry s r idx sub = .ok (some row, a) →
    ((a = .rw ∨ a = .wo) → stateRo s idx sub 0 = false → ¬ (idx = 0xA010 ∧ 64 ≤ r) → dictWrite r idx sub [] stored s = (s, 0x03000002)) ∧
    (row.empty = false → dictClear r idx sub stored s = (s, 0x03000001)) ∧
    (row.empty = true → row.ty = .str ∨ row.ty = .octets) ∧
    (row.empty = true → (a = .rw ∨ a = .wo) → stateRo s idx sub 0 = false → (row.kept = true → stored = true) →
      (dictClear r idx sub stored s).2 = 0 ∧ dictVal (dictClear r idx sub stored s).1 idx sub = some [])

/-- R39, R201, R268, R305, R490, R493, R496, R502, R517, R523, R524, R528: reads of a low word give it and latch what goes with
it; a write reaches its register in the next cycle, a W1C clear before what the hardware does in it, one to no register does
nothing; a counter's selection takes the written code, a reserved code as 0; W1C bits clear; a bit alias changes its bit
alone; GO makes a mailbox busy, or sets OVERRUN; a sweep of 0x8050 gives the tenant its own partition's sums and no other's.
R525–R527: COMMIT makes the sweep after the next start the reference, a write of SEAL_REF gives it; a sweep in which no
sealed field was written leaves the CRC-32C of the sealed words in SEAL_LAST, arms and ends STALE when it is the reference,
and, when reports are enabled, armed and not stale, sets MISMATCH with the device event for a result other than the
reference. The model's own readings and choices it rests on: log entries 82, 83. -/
def Obligations.RegistersAndTheSeal : Prop :=
  (
    (∀ (t : TileId) (s : State), LinkUp s → twigUp s t.val = true →
      let y := tileAt s t.val
      let r := y.regs
      Completes (.acValueLo .pf t) s (fun u => u = { s with tiles := u.tiles, out := s.out ++ [.regValue (BitVec.ofNat 32 (acNow y r.acSel.toNat))] } ∧
        tileAt u t.val = (let r' := { r with acHi := BitVec.ofNat 16 (acNow y r.acSel.toNat / 2 ^ 32) }
          { y with regs := r' })) ∧
      (y.cnt.cntSel < 16 → Completes (.cntLo .pf t) s (fun u =>
        let v := fmGet 0 y.cnt.done.vals y.cnt.cntSel
        u = { s with tiles := u.tiles, out := s.out ++ [.regValue (BitVec.ofNat 32 v)] } ∧
        tileAt u t.val = (let c := { y.cnt with hi := v / 2 ^ 32, tag := y.cnt.done.layer * 2 ^ 16 + y.cnt.done.opid, seqLatch := y.cnt.done.seq }
          { y with cnt := c })))) ∧
    (∀ (h : SliceId) (k : StackId) (s : State), LinkUp s →
      Completes .espCycleLo s (fun u => u.out = s.out ++ [.regValue (BitVec.ofNat 32 s.cycle)] ∧ u.esp.cycleHi = BitVec.ofNat 32 (s.cycle / 2 ^ 32) ∧ u.cycle = s.cycle) ∧
      Completes (.hsPoisonLo h) s (fun u => let x := sliceAt s h.val
        u.out = s.out ++ [.regValue (BitVec.ofNat 32 (x.poisonLine % 2 ^ 32 / 128 * 128))] ∧
        sliceAt u h.val = { x with poisonHi := x.poisonLine / 2 ^ 32 % 512 }) ∧
      Completes (.stkLastLo k) s (fun u => let x := stackAt s k.val
        u.out = s.out ++ [.regValue (BitVec.ofNat 32 (x.last % 2 ^ 32 / 64 * 64))] ∧
        stackAt u k.val = { x with lastHi := x.last / 2 ^ 32 % 512 })) ∧
    (∀ (t : TileId) (v : BitVec 32) (s : State), LinkUp s →
      let z := nextCycle (fun y => y) s
      (∀ a, 0x200000 ≤ a → Completes (.registerWrite .pf a v) s (fun u => u = s)) ∧
      let cleared (mask : BitVec 5) : State := nextCycle (fun y =>
        let g := { y.gov with event := y.gov.event &&& ~~~ mask }
        { y with gov := g }) s
      Completes (.registerWrite .pf 0x18D00C v) s (fun u => u = cleared (v.setWidth 5)) ∧
      (∀ k : Fin 5,
        Completes (.aliasWrite (0x2000000 + 0x8D00C * 32 + 4 * k.val) 0) s (fun u => u = z) ∧
        Completes (.aliasWrite (0x2000000 + 0x8D00C * 32 + 4 * k.val) 1) s (fun u => u = cleared (BitVec.ofNat 5 (2 ^ k.val)))) ∧
      (twigUp z t.val = true →
        (∀ i : Fin 4, Completes (.registerWrite .pf (0x190000 + 0x40 * t.val + 4 * i.val) v) s (fun u =>
          (∀ j, j < 4 → fmGet 0 (tileAt u t.val).cnt.sel (4 * i.val + j) = selStore (field v.toNat (8 * j + 7) (8 * j))) ∧
          (∀ j, j < 16 → j / 4 ≠ i.val → fmGet 0 (tileAt u t.val).cnt.sel j = fmGet 0 (tileAt z t.val).cnt.sel j) ∧
          ((tileAt u t.val).cnt.sel ≠ (tileAt z t.val).cnt.sel → u.dev.stale = true ∧ u.dev.armed = false))) ∧
        ∀ k : Fin 6, Completes (.aliasWrite (0x2000000 + (0x100 * t.val + 0x1C) * 32 + 4 * k.val) v) s (fun u =>
          ∀ j, j < 6 → (tileAt u t.val).regs.acSel.getLsbD j =
            if j = k.val then v.getLsbD 0 else (tileAt z t.val).regs.acSel.getLsbD j))) ∧
    (∀ (f : Fn) (v : BitVec 32) (s : State), pcieUp s = true → (∀ n, f = .vf n → partExists s n.val = true) →
      let z := nextCycle (fun y => y) s
      let m := match f with
        | .pf => 0
        | .vf n => 1 + n.val
      let x := mbxAt z m
      (v.getLsbD 0 = true → x.busy = false → Completes (.mbxDoorbell f v) s (fun u => mbxAt u m = { x with busy := true, done := false })) ∧
      (v.getLsbD 0 = true → x.busy = true → Completes (.mbxDoorbell f v) s (fun u => mbxAt u m = { x with overrun := true })) ∧
      (v.getLsbD 0 = false → Completes (.mbxDoorbell f v) s (fun u => u = z))) ∧
    (∀ (p q : PartId) (s : State), s.boot.life ≠ 4 → runningSlot s ≠ none → readyBit s 10 = true →
      Completes (.counterSweep (.vfMailbox p) p) s (fun u => u = { s with out := s.out ++ [.response (2 + p.val) (sweepValue true s p.val)] }) ∧
      Completes (.counterSweep .i3c p) s (fun u => u = { s with out := s.out ++ [.response 0 (sweepValue false s p.val)] }) ∧
      (p ≠ q → Completes (.counterSweep (.vfMailbox q) p) s (fun u =>
        u = { s with out := s.out ++ [.response (2 + q.val) (natLe 4 0x02000001)] })))) ∧
  (
    (∀ (v : BitVec 32) (s : State), pcieUp s = true →
      let z := nextCycle (fun y => y) s
      Completes (.commit v) s (fun u =>
        let d := { z.dev with enable := v.getLsbD 31, commit := z.dev.commit || v.getLsbD 0 }
        u = { z with dev := d }) ∧
      Completes (.sealRef v) s (fun u =>
        let d := { z.dev with ref := v, refWait := true }
        u = { z with dev := d })) ∧
    (∀ s : State, s.dev.touched = false →
      let crc := BitVec.ofNat 32 (crc32c ((sealedWords s).flatMap (natLe 4)))
      let armed : Prop := s.dev.enable = true ∧ s.dev.armed = true ∧ s.dev.stale = false ∧ s.dev.refSweep = false
      Completes .sweep s (fun u => u = { s with dev := u.dev, out := u.out, ctl := u.ctl } ∧ u.ctl.vals = s.ctl.vals ∧
        u.dev.last = crc ∧ u.dev.sweeps = (s.dev.sweeps + 1) % 2 ^ 32 ∧ u.dev.refSweep = s.dev.commit ∧ u.dev.commit = false ∧
        (armed → crc ≠ s.dev.ref → u.dev.mismatch = true ∧ u.dev.event.getLsbD 0 = true) ∧
        (¬ armed ∨ crc = s.dev.ref → u.dev.mismatch = s.dev.mismatch ∧ u.dev.event = s.dev.event ∧ u.out = s.out) ∧
        (s.dev.refSweep = true → u.dev.ref = crc ∧ u.dev.stale = false ∧ u.dev.armed = true) ∧
        (s.dev.refSweep = false → u.dev.ref = s.dev.ref) ∧
        (s.dev.refWait = true → u.dev.stale = false ∧ u.dev.armed = true) ∧
        (s.dev.refSweep = false → s.dev.refWait = false → u.dev.stale = s.dev.stale ∧ u.dev.armed = s.dev.armed))))

/-- R532–R534: the boot ROM runs the active slot's image when its signature and security version are accepted, else the other's,
which it makes active, else its loader; bit 0 rises. Chunks are written into the inactive slot; a check refuses a wrong
signature with 1 and a low version with 2, or activates the slot at the next module reset; the fused minimum is raised to the
running image's version and never lowered. Whether a signature verifies and which version an image carries are free values of
Config (log entries 10, 85). The model's own readings and choices it rests on: log entries 10, 85. -/
def Obligations.FirmwareIsCheckedAndReplaced : Prop :=
  ∀ s : State,
    let b := s.boot
    (b.running = none → b.record = none → Completes .boot s (fun u =>
      let pick : Option Bool := if slotOk b b.active then some b.active else if slotOk b (!b.active) then some (!b.active) else none
      u.boot.running = some pick ∧ u.boot.active = pick.getD b.active ∧ readyBit u 0 = true ∧ firmwareRuns u = pick.isSome ∧
      u.seed = s.seed ∧ u.parts = s.parts ∧ u.gov.capNow = (if pick.isSome then dictNat s 0x2010 1 6000 else s.gov.capNow))) ∧
    (b.running ≠ none →
      let m := slotOf b (!b.active)
      (∀ data : List Byte, 8 ≤ data.length → data.length ≤ 1024 → leAt data 0 4 % 4 = 0 →
        (leAt data 0 4 + data.length - 4 ≤ 48 * 2 ^ 20 → Completes (.chunk data) s (fun u => slotOf u.boot b.active = slotOf b b.active ∧
          ∀ a, memByte (slotOf u.boot (!b.active)) a =
            if leAt data 0 4 ≤ a ∧ a < leAt data 0 4 + data.length - 4 then data.getD (4 + (a - leAt data 0 4)) 0 else memByte m a)) ∧
        (48 * 2 ^ 20 < leAt data 0 4 + data.length - 4 → Completes (.chunk data) s (fun u => u = s))) ∧
      Completes (.eraseInactiveSlot true) s (fun u => slotOf u.boot (!b.active) = [] ∧ slotOf u.boot b.active = slotOf b b.active ∧ u.boot.fwResult = 0) ∧
      Completes (.eraseInactiveSlot false) s (fun u => slotOf u.boot (!b.active) = m ∧ u.boot.fwResult = 3) ∧
      Completes .checkAndActivate s (fun u => u.boot =
        if Config.imageSigned m = false then { b with fwResult := 1 }
        else if Config.imageVersion m < b.fusedMin then { b with fwResult := 2 }
        else { b with fwResult := 0, activate := true })) ∧
    (∀ k, b.running = some (some k) → b.fusedMin ≤ 64 → Completes .raiseMinimum s (fun u =>
      u.boot = { b with fusedMin := u.boot.fusedMin, fwResult := 0 } ∧ b.fusedMin ≤ u.boot.fusedMin ∧ u.boot.fusedMin ≤ 64 ∧
      min 64 (Config.imageVersion (slotOf b k)) ≤ u.boot.fusedMin))

/-- R453, R535–R546, R557: main power is admitted with firmware that runs, short of Retired; the start sequence powers the dies
at point 7 and, with every die usable, wipes the stores and slices and trains the FIFOs, and does nothing in Withdrawn; with
bits 3 to 7 the device is ready; a PCIe link that goes down takes bit 9 with it; loss of main or standby power leaves no
content of the dies, and the Seedbank's bytes; a transition that R541 does not list changes nothing but its result, and one
that it lists destroys the Seedbank's content and ends in the new state. The model's own readings and choices it rests on:
log entries 6, 84, 86. -/
def Obligations.PowerReadinessAndLifeCycle : Prop :=
  (∀ s : State, readyBit s 0 = true → s.boot.life ≠ 4 → firmwareRuns s = true → readyBit s 2 = false → s.gov.huskTrip = false → s.gov.regTrip = false →
    Completes .mainAdmission s (fun u => readyBit u 2 = true ∧ u.boot.admitted = true ∧
      (clockOn s = false → u.us = if readyBit s 1 = true ∨ s.seed.status = 3 then s.us else max s.us (s.boot.upUs + 30000000)))) ∧
  (∀ s : State, s.boot.life = 4 → Completes .mainAdmission s (fun u => u = s)) ∧
  (∀ (x : StartResults) (s : State), readyBit s 2 = true → readyBit s 3 = false → readyBit s 4 = false → readyBit s 7 = false →
    (s.rcv.withdrawn = true → Completes (.startSequence x) s (fun u => u = s)) ∧
    (s.rcv.withdrawn = false → s.rcv.snap = none → s.gov.clockStopped = false → s.gov.huskTrip = false → s.gov.regTrip = false →
      s.pins.refHold = false → s.pins.taken = false → Completes (.startSequence x) s (fun u => u.point = 7 ∧ readyBit u 3 = true ∧
        u.rcv.resetting = false ∧ u.graft.tested = true ∧
        (readyBit u 7 = true → u.esp.trained = true ∧ u.esp.hubOk = 0xF ∧ u.slices = [] ∧ u.slice0.ready = true ∧ u.graft.unusable = 0)))) ∧
  (∀ s : State, (∀ n, n ∈ [3, 4, 5, 6, 7] → readyBit s n = true) → readyBit s 10 = false → s.boot.life = 1 → s.rcv.withdrawn = false →
    Completes .deviceReady s (fun u => readyBit u 10 = true ∧ u.boot.readyUs = s.us ∧ u.parts = s.parts)) ∧
  (∀ s : State,
    Completes .pcieLinkDown s (fun u => u = { s with boot := u.boot } ∧ ∀ n, n < 32 → readyBit u n = (readyBit s n && decide (n ≠ 9)))) ∧
  (∀ s : State, s.seed.writes = [] →
    let empty (u : State) : Prop := u.tiles = [] ∧ u.tile0 = tileReset ∧ u.slices = [] ∧ u.dm.mem = [] ∧ u.sessions = [] ∧
      u.seed.mem = s.seed.mem ∧ u.seed.extents = s.seed.extents ∧ ∀ n, n ∈ [2, 3, 4, 5, 6, 7, 9, 10] → readyBit u n = false
    (readyBit s 2 = true → Completes .mainPowerLost s (fun u => empty u ∧ u.boot.running = s.boot.running ∧ readyBit u 0 = readyBit s 0)) ∧
    Completes .standbyLost s (fun u => empty u ∧ u.boot.running = none ∧ readyBit u 0 = false ∧ u.pins.standby = false ∧ u.us = 0 ∧ u.rcv.times = [] ∧
      ∀ k v, keptKey k = true → fmGet none s.ctl.vals k = some v → fmGet none u.ctl.vals k = some v)) ∧
  (∀ s : State, s.gov.clockStopped = true → s.gov.huskTrip = false → s.gov.regTrip = false →
    (hottestHazel s.gov < 90000 → Completes .tripClear s (fun u =>
      let g := { s.gov with clockStopped := false }
      u = { s with gov := g })) ∧
    (90000 ≤ hottestHazel s.gov → Completes .tripClear s (fun u => u = s))) ∧
  (∀ (r : Requester) (c : List Byte) (s : State), c.length = 8 → roleOf s (clientNo r) ≠ 1 → lifeReady s = true →
    let new := leAt c 0 1
    let stopped (code : Nat) : Prop := Completes (.transition r c) s (fun u =>
      let b := { s.boot with lifeResult := code + 256 * new }
      u = { s with boot := b })
    let allowed_ := lifeAllowed s.boot.life new (roleOf s (clientNo r))
    let sure : Prop := leAt c 4 4 = crc32c Config.serial
    (allowed_ = false → stopped 1) ∧ (allowed_ = true → ¬ sure → stopped 2) ∧ (allowed_ = true → sure → leAt c 1 3 ≠ 0 → stopped 3) ∧
    (allowed_ = true → sure → leAt c 1 3 = 0 → s.parts = [] → s.rcv.snap = none → s.pins.taken = false → sampled s 3 = false →
      Completes (.transition r c) s (fun u => u.boot.life = new ∧ u.boot.record = none ∧ u.boot.lifeResult = 256 * new + 65536 * 9 ∧
        u.seed.mem = [] ∧ (∀ n, n ≠ 0 → extentAt u n = none) ∧ (new ≠ 1 → u.tiles = [] ∧ u.dm.mem = []) ∧
        (new = 4 → u.boot.admitted = false ∧ readyBit u 2 = false))))

/-- R554: PERST_N low takes bit 9 of 0x1010 to 0 and holds the link down; no other function is affected; the link comes up after
PERST_N has risen, once bit 2 of 0x1010 is 1 (and REFCLK runs, R539). The TAP does not hold the pins (R568). -/
def Obligations.PerstHoldsTheLinkDown : Prop :=
  ∀ s : State, s.pins.taken = false →
    let sameButNine (u : State) : Prop := ∀ n, n < 32 → n ≠ 9 → readyBit u n = readyBit s n
    Completes (.perstN false) s (fun u => u.pins = { s.pins with perst := false } ∧ readyBit u 9 = false ∧
      u = { s with pins := u.pins, boot := u.boot } ∧ u.boot = { s.boot with ready := u.boot.ready } ∧ sameButNine u) ∧
    Completes (.perstN true) s (fun u => u = { s with pins := u.pins } ∧ u.pins = { s.pins with perst := true }) ∧
    (s.pins.perst = false → Completes .pcieLinkUp s (fun u => u = s)) ∧
    (readyBit s 2 = false ∨ s.pins.refclk = false → Completes .pcieLinkUp s (fun u => u = s)) ∧
    (s.pins.perst = true → readyBit s 2 = true → s.pins.refclk = true → Completes .pcieLinkUp s (fun u =>
      readyBit u 9 = true ∧ u = { s with boot := u.boot } ∧ u.boot = { s.boot with ready := u.boot.ready } ∧ sameButNine u))

/-- R516, R553, R560, R566–R568, R570: MOD_RESET_N low for 10 µs resets the module, below 2 µs it does not; a lost REFCLK takes
the link down and is counted, and after 1 s without it a module that derives its clock from it ends its jobs and resets the
device, which waits for 10 ms of REFCLK; the TAP holds the instruction that is loaded, a scan takes the oldest waiting levels
and cells (free where none waits), shifts out the captured pins and sets the cells, an instruction that drives the pins takes
them, ends every job and holds the dies, and the return to another ends in a module reset; MCTP control messages are answered
and the dynamic address is taken. The model's own readings and choices it rests on: log entries 58, 87, 88. -/
def Obligations.PinsClocksScanAndI3c : Prop :=
  (∀ (lowNs : Nat) (b : Bool) (s : State), s.pins.taken = false →
    (lowNs < 2000 → Completes (.modResetN lowNs b) s (fun u => u = s)) ∧
    (10000 ≤ lowNs → s.rcv.snap = none → sampled s 4 = false → Completes (.modResetN lowNs b) s (fun u => u.boot.running = none ∧ u.tiles = [] ∧
      u.boot.ready = 0 ∧ u.rcv.history = ((natLe 8 (standbyTime s) ++ natLe 1 2 ++ natLe 1 4 ++ natLe 2 0xFFFF ++ zeros 4) :: s.rcv.history).take 16))) ∧
  (∀ s : State,
    (s.pins.refclk = true → Completes .refclkLost s (fun u => readyBit u 9 = false ∧ u = { s with pins := u.pins, boot := u.boot } ∧
      u.pins = { s.pins with refclk := false, refLost := some s.us, refLosses := min (2 ^ 64 - 1) (s.pins.refLosses + 1) })) ∧
    (s.pins.refclk = false → Completes .refclkReturn s (fun u => u = { s with pins := u.pins } ∧
      u.pins = { s.pins with refclk := true, refLost := none })) ∧
    (∀ us, s.pins.refLost = some us → us + 1000000 ≤ s.us →
      (clockFromRef s = false → Completes .refclkHoldoverExpiry s (fun u => u = { s with pins := u.pins } ∧ u.pins = { s.pins with refLost := none })) ∧
      (clockFromRef s = true → s.boot.running ≠ none → s.rcv.snap = none → s.pins.taken = false → sampled s 3 = false →
        Completes .refclkHoldoverExpiry s (fun u => u.pins.refHold = true ∧ u.tiles = [] ∧ (∀ p, (partAt u p).job = none) ∧ readyBit u 3 = false ∧
          ∃ rest, u.rcv.history = (natLe 8 (standbyTime s) ++ natLe 1 0x0A ++ natLe 1 3 ++ natLe 2 0xFFFF ++ zeros 4) :: rest))) ∧
    (s.pins.refLost = none → Completes .refclkHoldoverExpiry s (fun u => u = s)) ∧
    (s.pins.refclk = true → s.pins.refHold = true → Completes .refclkReturned10Ms s (fun u => u = { s with pins := u.pins } ∧
      u.pins = { s.pins with refHold := false }))) ∧
  (∀ s : State,
    let holds (i : BitVec 8) (u : State) : Prop := u = { s with pins := u.pins } ∧ u.pins = { s.pins with tap := i }
    Completes .trstN s (holds 1) ∧ (∀ c, Completes (.bypass c) s (holds 0xFF)) ∧
    (∀ (x : PinLevels) (c : PinCells) rest, s.pins.scans = (x, c) :: rest → Completes .samplePreload s (fun u => u = { s with pins := u.pins, out := u.out } ∧
      u.pins = { s.pins with tap := 2, cells := c, scans := rest } ∧ u.out = s.out ++ [.captured s.pins.perst x.modReset (!alertAsserted s) x.scl x.sda s.pins.refclk x.rx])) ∧
    Completes .idcode s (fun u => u.pins = { s.pins with tap := 1 } ∧ u.out = s.out ++ [.regValue (BitVec.ofNat 32 (Config.fused 2))]) ∧
    (∀ c : BitVec 8,
      (s.pins.vendorTap = true → (s.boot.life = 0 ∨ s.boot.life = 3) → 0x80 ≤ c.toNat → c.toNat ≤ 0xFE → Completes (.vendorInstruction c) s (holds c)) ∧
      ((s.pins.vendorTap = false ∨ (s.boot.life ≠ 0 ∧ s.boot.life ≠ 3)) → Completes (.vendorInstruction c) s (holds 0xFF))) ∧
    (s.pins.scans = [] → Completes .samplePreload s (fun u => u = { s with pins := u.pins, out := u.out, fresh := u.fresh } ∧
      ∃ (x : PinLevels) (c : PinCells), u.pins = { s.pins with tap := 2, cells := c } ∧
        u.out = s.out ++ [.captured s.pins.perst x.modReset (!alertAsserted s) x.scl x.sda s.pins.refclk x.rx])) ∧
    (∀ (x : PinLevels) (k : PinCells) rest, s.pins.scans = (x, k) :: rest → let shifted (u : State) : Prop := u.pins.cells = k ∧ u.pins.scans = rest ∧ ∃ pre, u.out = pre ++
        [.captured s.pins.perst x.modReset s.pins.cells.alert x.scl (x.sda && s.pins.cells.sda) s.pins.refclk x.rx]
      Completes .extest s shifted ∧ Completes .extestPulse s shifted ∧ Completes .extestTrain s shifted) ∧
    (s.pins.taken = true → Completes .clamp s (holds 4) ∧ Completes .highz s (holds 5)) ∧
    (∀ c i, (c, i) ∈ [(Instr.extest, 3), (.clamp, 4), (.highz, 5), (.extestPulse, 6), (.extestTrain, (7 : BitVec 8))] → s.pins.taken = false →
      Completes c s (fun u => u.pins.tap = i ∧ u.pins.taken = true ∧ (∀ p, (partAt u p).job = none) ∧ u.tiles = [] ∧ u.rcv.snap = none ∧
        (∀ n, n ∈ [3, 4, 5, 6, 7, 8, 9, 10] → readyBit u n = false) ∧ u.boot.running = s.boot.running)) ∧
    (s.pins.taken = true → s.rcv.snap = none → sampled s 4 = false →
      (pinDriving s.pins.tap = false → Completes .boundaryScanEnd s (fun u => u.pins.taken = false ∧ u.boot.running = none ∧
        u.rcv.withdrawn = s.rcv.withdrawn ∧ ∃ rest, u.rcv.history =
          (natLe 8 (standbyTime s) ++ natLe 1 0x0E ++ natLe 1 4 ++ natLe 2 0xFFFF ++ zeros 4) :: rest)) ∧
      (pinDriving s.pins.tap = true → Completes .boundaryScanEnd s (fun u => u = s)))) ∧
  (∀ (a : BitVec 7) (e : Byte) (s : State), readyBit s 0 = true →
    Completes (.entdaa a) s (fun u => u = { s with ctl := u.ctl } ∧ u.ctl = { s.ctl with i3cAddr := a }) ∧
    (e ≠ 0 → e ≠ 0xFF → Completes (.mctpControlMessage (.setEndpointId e)) s (fun u => u.ctl.eid = e ∧ u.out = s.out ++ [.mctp [0, 0, e, 0]])) ∧
    Completes (.mctpControlMessage .getEndpointId) s (fun u => u = { s with out := s.out ++ [.mctp [0, s.ctl.eid, 0, 0]] }) ∧
    Completes (.mctpControlMessage .getMessageTypeSupport) s (fun u => u = { s with out := s.out ++ [.mctp [0, 1, 0x7E]] }))
end

