-- ==== Sys2Proof/Laws/Maps.lean ====
section
/-!
SUPPORT. Laws of the sparse maps and of the addressed stores: what a read after a write gives, that a write leaves every
other place alone, and that every operation keeps the canonical form.
-/

namespace Sys2Proof.Machine

variable {α : Type}

/-! ### Reads after writes -/

@[simp] theorem fmGet_nil (d : α) (k : Nat) : fmGet d [] k = d := rfl

theorem fmGet_cons (d : α) (e : Nat × α) (m : FMap α) (k : Nat) :
    fmGet d (e :: m) k = if e.1 = k then e.2 else fmGet d m k := rfl

@[simp] theorem fmGet_fmDel_same (d : α) (m : FMap α) (k : Nat) : fmGet d (fmDel m k) k = d := by
  induction m with
  | nil => rfl
  | cons e m ih =>
    rw [fmDel]; split
    · exact ih
    · rename_i h; rw [fmGet_cons, if_neg h]; exact ih

@[simp] theorem fmGet_fmDel_ne (d : α) (m : FMap α) {k j : Nat} (h : j ≠ k) : fmGet d (fmDel m k) j = fmGet d m j := by
  induction m with
  | nil => rfl
  | cons e m ih =>
    rw [fmDel]; split
    · rename_i hk; rw [ih, fmGet_cons, if_neg (by omega)]
    · simp only [fmGet_cons, ih]

theorem fmGet_fmIns (d : α) (m : FMap α) (k : Nat) (v : α) (j : Nat) (hk : fmDel m k = m) :
    fmGet d (fmIns k v m) j = if k = j then v else fmGet d m j := by
  induction m with
  | nil => rfl
  | cons e m ih =>
    rw [fmDel] at hk
    by_cases he : e.1 = k
    · rw [if_pos he] at hk
      have : (fmDel m k).length ≤ m.length := by
        clear ih hk
        induction m with
        | nil => exact Nat.le_refl _
        | cons x m ih => rw [fmDel]; split <;> simp only [List.length_cons] <;> omega
      rw [hk] at this; simp at this
    · rw [if_neg he] at hk
      have hm : fmDel m k = m := by simpa using hk
      rw [fmIns]; split
      · simp only [fmGet_cons]
      · simp only [fmGet_cons, ih hm]
        by_cases h1 : e.1 = j
        · rw [if_pos h1, if_neg (by omega), if_pos h1]
        · rw [if_neg h1, if_neg h1]

theorem fmDel_fmDel (m : FMap α) (k : Nat) : fmDel (fmDel m k) k = fmDel m k := by
  induction m with
  | nil => rfl
  | cons e m ih =>
    rw [fmDel]; split
    · exact ih
    · rename_i h; rw [fmDel, if_neg h, ih]

theorem fmGet_fmSet [DecidableEq α] (d : α) (m : FMap α) (k : Nat) (v : α) (j : Nat) :
    fmGet d (fmSet d m k v) j = if k = j then v else fmGet d m j := by
  unfold fmSet
  by_cases h : v = d
  · rw [if_pos h]
    by_cases hk : k = j
    · rw [if_pos hk, ← hk, fmGet_fmDel_same, h]
    · rw [if_neg hk, fmGet_fmDel_ne d m (Ne.symm hk)]
  · rw [if_neg h, fmGet_fmIns d _ k v j (fmDel_fmDel m k)]
    by_cases hk : k = j
    · rw [if_pos hk, if_pos hk]
    · rw [if_neg hk, if_neg hk, fmGet_fmDel_ne d m (Ne.symm hk)]

/-- A read of the key just written gives the value written. -/
@[simp] theorem fmGet_fmSet_same [DecidableEq α] (d : α) (m : FMap α) (k : Nat) (v : α) : fmGet d (fmSet d m k v) k = v := by
  rw [fmGet_fmSet, if_pos rfl]

/-- A write leaves every other key alone. -/
theorem fmGet_fmSet_ne [DecidableEq α] (d : α) (m : FMap α) {k j : Nat} (v : α) (h : j ≠ k) :
    fmGet d (fmSet d m k v) j = fmGet d m j := by
  rw [fmGet_fmSet, if_neg (Ne.symm h)]

@[simp] theorem fmGet_fmUpd_same [DecidableEq α] (d : α) (m : FMap α) (k : Nat) (f : α → α) :
    fmGet d (fmUpd d m k f) k = f (fmGet d m k) := fmGet_fmSet_same ..

theorem fmGet_fmUpd_ne [DecidableEq α] (d : α) (m : FMap α) {k j : Nat} (f : α → α) (h : j ≠ k) :
    fmGet d (fmUpd d m k f) j = fmGet d m j := fmGet_fmSet_ne _ _ _ h

/-! ### The canonical form -/

/-- A bound of the canonical form may be lowered. -/
theorem fmWfFrom_mono [DecidableEq α] (d : α) {b c : Nat} (h : c ≤ b) (m : FMap α) (hm : fmWfFrom d (some b) m = true) :
    fmWfFrom d (some c) m = true := by
  cases m with
  | nil => rfl
  | cons e m =>
    simp only [fmWfFrom, Bool.and_eq_true, decide_eq_true_eq] at hm ⊢
    exact ⟨⟨by omega, hm.1.2⟩, hm.2⟩

theorem fmWfFrom_none [DecidableEq α] (d : α) {b : Nat} (m : FMap α) (hm : fmWfFrom d (some b) m = true) :
    fmWfFrom d none m = true := by
  cases m with
  | nil => rfl
  | cons e m =>
    simp only [fmWfFrom, Bool.and_eq_true, decide_eq_true_eq, Bool.true_and] at hm ⊢
    exact ⟨hm.1.2, hm.2⟩

theorem fmWfFrom_weak [DecidableEq α] (d : α) (b : Option Nat) {c : Nat} (m : FMap α) (hm : fmWfFrom d (some c) m = true)
    (h : ∀ x, b = some x → x ≤ c) : fmWfFrom d b m = true := by
  cases b with
  | none => exact fmWfFrom_none d m hm
  | some x => exact fmWfFrom_mono d (h x rfl) m hm

theorem fmWfFrom_fmDel [DecidableEq α] (d : α) (k : Nat) (m : FMap α) (b : Option Nat) (hm : fmWfFrom d b m = true) :
    fmWfFrom d b (fmDel m k) = true := by
  induction m generalizing b with
  | nil => cases b <;> rfl
  | cons e m ih =>
    have h := hm
    simp only [fmWfFrom, Bool.and_eq_true, decide_eq_true_eq] at h
    rw [fmDel]; split
    · refine ih b (fmWfFrom_weak d b m h.2 ?_)
      intro x hx; subst hx; simp at h; omega
    · simp only [fmWfFrom, Bool.and_eq_true, decide_eq_true_eq]
      exact ⟨h.1, ih _ h.2⟩

theorem fmWfFrom_fmIns [DecidableEq α] (d : α) (k : Nat) (v : α) (hv : v ≠ d) (m : FMap α) (b : Option Nat)
    (hb : ∀ x, b = some x → x < k) (hk : fmDel m k = m) (hm : fmWfFrom d b m = true) :
    fmWfFrom d b (fmIns k v m) = true := by
  induction m generalizing b with
  | nil =>
    cases b with
    | none => simpa [fmIns, fmWfFrom] using hv
    | some x => simpa [fmIns, fmWfFrom, hv] using hb x rfl
  | cons e m ih =>
    have h := hm
    simp only [fmWfFrom, Bool.and_eq_true, decide_eq_true_eq] at h
    have hne : e.1 ≠ k := by
      intro he
      have h0 : fmGet d (e :: m) k = d := by rw [← hk]; exact fmGet_fmDel_same d _ k
      rw [fmGet_cons, if_pos he] at h0
      exact h.1.2 h0
    have hm' : fmDel m k = m := by
      rw [fmDel, if_neg hne] at hk; simpa using hk
    rw [fmIns]; split
    · rename_i hlt
      cases b with
      | none => simp only [fmWfFrom, Bool.and_eq_true, decide_eq_true_eq, Bool.true_and]; exact ⟨hv, ⟨hlt, h.1.2⟩, h.2⟩
      | some x => simp only [fmWfFrom, Bool.and_eq_true, decide_eq_true_eq]; exact ⟨⟨hb x rfl, hv⟩, ⟨hlt, h.1.2⟩, h.2⟩
    · simp only [fmWfFrom, Bool.and_eq_true, decide_eq_true_eq]
      refine ⟨h.1, ih (some e.1) ?_ hm' h.2⟩
      intro x hx
      have : e.1 = x := by simpa using hx
      omega

/-- A write keeps the canonical form. -/
theorem fmWf_fmSet [DecidableEq α] (d : α) (m : FMap α) (k : Nat) (v : α) (hm : fmWf d m = true) :
    fmWf d (fmSet d m k v) = true := by
  unfold fmSet fmWf; split
  · exact fmWfFrom_fmDel d k m none hm
  · rename_i h
    exact fmWfFrom_fmIns d k v h _ none (by simp) (fmDel_fmDel m k) (fmWfFrom_fmDel d k m none hm)

theorem fmWf_fmUpd [DecidableEq α] (d : α) (m : FMap α) (k : Nat) (f : α → α) (hm : fmWf d m = true) :
    fmWf d (fmUpd d m k f) = true := fmWf_fmSet d m k _ hm

/-! ### Addressed stores -/

/-- A byte written is read back, and every other byte is as before. -/
theorem memByte_memSet (m : Memory) (a : Nat) (v : Byte) (x : Nat) :
    memByte (memSet m a v) x = if a = x then v else memByte m x := fmGet_fmSet ..

theorem fmGet_append (d : α) (m n : FMap α) (k : Nat) (h : ∀ e ∈ m, e.1 ≠ k) : fmGet d (m ++ n) k = fmGet d n k := by
  induction m with
  | nil => rfl
  | cons e m ih =>
    rw [List.cons_append, fmGet_cons, if_neg (h e (by simp)), ih (fun e he => h e (by simp [he]))]

theorem fmGet_append_right (d : α) (m n : FMap α) (k : Nat) (h : ∀ e ∈ n, e.1 ≠ k) : fmGet d (m ++ n) k = fmGet d m k := by
  induction m with
  | nil =>
    induction n with
    | nil => rfl
    | cons e n ih => rw [List.nil_append, fmGet_cons, if_neg (h e (by simp)), ← List.nil_append n, ih (fun e he => h e (by simp [he]))]
  | cons e m ih => rw [List.cons_append, fmGet_cons, fmGet_cons, ih]

theorem fmGet_filter (d : α) (p : Nat → Bool) (m : FMap α) (k : Nat) (h : p k = true) :
    fmGet d (m.filter (fun c => p c.1)) k = fmGet d m k := by
  induction m with
  | nil => rfl
  | cons e m ih =>
    rw [List.filter_cons]; split
    · rw [fmGet_cons, fmGet_cons, ih]
    · rename_i hp
      rw [fmGet_cons, if_neg, ih]
      intro he; rw [he] at hp; exact hp h

theorem mem_cellsOf (bs : List Byte) (a : Nat) (e : Host.Cell) (h : e ∈ cellsOf a bs) :
    a ≤ e.1 ∧ e.1 < a + bs.length ∧ e.2 ≠ 0 := by
  induction bs generalizing a with
  | nil => simp [cellsOf] at h
  | cons v vs ih =>
    have step (h : e ∈ cellsOf (a + 1) vs) : a ≤ e.1 ∧ e.1 < a + (v :: vs).length ∧ e.2 ≠ 0 := by
      obtain ⟨h1, h2, h3⟩ := ih (a + 1) h
      exact ⟨by omega, by simp only [List.length_cons]; omega, h3⟩
    rw [cellsOf] at h
    split at h
    · exact step h
    · rename_i hv
      rcases List.mem_cons.1 h with rfl | h
      · exact ⟨Nat.le_refl _, by simp only [List.length_cons]; omega, hv⟩
      · exact step h

theorem memByte_cellsOf (bs : List Byte) (a x : Nat) (h : a ≤ x) : memByte (cellsOf a bs) x = bs.getD (x - a) 0 := by
  induction bs generalizing a with
  | nil => simp [cellsOf, memByte]
  | cons v vs ih =>
    by_cases hx : a = x
    · subst hx
      rw [cellsOf]; split
      · rename_i hv
        rw [show a - a = 0 by omega, List.getD_cons_zero, hv]
        unfold memByte
        rw [← List.append_nil (cellsOf (a + 1) vs), fmGet_append]
        · rfl
        · intro e he; have := mem_cellsOf vs (a + 1) e he; omega
      · unfold memByte; rw [fmGet_cons, if_pos rfl, show a - a = 0 by omega, List.getD_cons_zero]
    · have hs : x - a = (x - (a + 1)) + 1 := by omega
      rw [hs, List.getD_cons_succ, ← ih (a + 1) (by omega), cellsOf]; split
      · rfl
      · unfold memByte; rw [fmGet_cons, if_neg hx]

/-- What a byte reads as after a write: the byte written inside the bytes written, as before everywhere else. -/
theorem memByte_memWrite (m : Memory) (a : Nat) (bs : List Byte) (x : Nat) :
    memByte (memWrite m a bs) x = if a ≤ x ∧ x < a + bs.length then bs.getD (x - a) 0 else memByte m x := by
  unfold memWrite memByte
  by_cases h1 : x < a
  · rw [if_neg (by omega), List.append_assoc, fmGet_append_right]
    · exact fmGet_filter 0 (fun k => decide (k < a)) m x (by simpa using h1)
    · intro e he
      rcases List.mem_append.1 he with he | he
      · have := mem_cellsOf bs a e he; omega
      · have := (List.mem_filter.1 he).2; simp at this; omega
  · by_cases h2 : x < a + bs.length
    · rw [if_pos ⟨by omega, h2⟩, fmGet_append_right, fmGet_append]
      · exact memByte_cellsOf bs a x (by omega)
      · intro e he; have := (List.mem_filter.1 he).2; simp at this; omega
      · intro e he; have := (List.mem_filter.1 he).2; simp at this; omega
    · rw [if_neg (by omega), fmGet_append]
      · exact fmGet_filter 0 (fun k => decide (a + bs.length ≤ k)) m x (by simp; omega)
      · intro e he
        rcases List.mem_append.1 he with he | he
        · have := (List.mem_filter.1 he).2; simp at this; omega
        · have := mem_cellsOf bs a e he; omega

@[simp] theorem length_memRead (m : Memory) (a n : Nat) : (memRead m a n).length = n := by simp [memRead]

/-- A read of `n` bytes gives each of them. -/
theorem getD_memRead (m : Memory) (a n i : Nat) (h : i < n) : (memRead m a n).getD i 0 = memByte m (a + i) := by
  simp only [memRead, List.getD_eq_getElem?_getD, List.getElem?_map, List.getElem?_range h, Option.map_some, Option.getD_some]
  exact fmGet_filter 0 (fun k => decide (a ≤ k) && decide (k < a + n)) m (a + i) (by simp; omega)

/-- A read of exactly the bytes just written gives them back. -/
theorem memRead_memWrite (m : Memory) (a : Nat) (bs : List Byte) : memRead (memWrite m a bs) a bs.length = bs := by
  apply List.ext_getElem (by simp)
  intro i h1 h2
  have := getD_memRead (memWrite m a bs) a bs.length i h2
  rw [memByte_memWrite, if_pos ⟨by omega, by omega⟩, show a + i - a = i by omega] at this
  simpa [List.getD_eq_getElem?_getD, h1, h2] using this

theorem fmWfFrom_cons [DecidableEq α] (d : α) (b : Option Nat) (e : Nat × α) (m : FMap α) :
    fmWfFrom d b (e :: m) = true ↔ (∀ x, b = some x → x < e.1) ∧ e.2 ≠ d ∧ fmWfFrom d (some e.1) m = true := by
  cases b <;> simp [fmWfFrom, and_assoc]

theorem fmWfFrom_nil [DecidableEq α] (d : α) (b : Option Nat) : fmWfFrom d b ([] : FMap α) = true := by cases b <;> rfl

theorem fmWfFrom_append [DecidableEq α] (d : α) (n : FMap α) (m : FMap α) (b : Option Nat) (hm : fmWfFrom d b m = true)
    (h : ∀ c : Option Nat, (∀ x, c = some x → b = some x ∨ ∃ e ∈ m, e.1 = x) → fmWfFrom d c n = true) :
    fmWfFrom d b (m ++ n) = true := by
  induction m generalizing b with
  | nil => exact h b (fun x hx => .inl hx)
  | cons e m ih =>
    rw [fmWfFrom_cons] at hm
    rw [List.cons_append, fmWfFrom_cons]
    refine ⟨hm.1, hm.2.1, ih _ hm.2.2 ?_⟩
    intro c hc
    refine h c ?_
    intro x hx
    rcases hc x hx with h1 | ⟨e', he, h1⟩
    · exact .inr ⟨e, by simp, by simpa using h1⟩
    · exact .inr ⟨e', by simp [he], h1⟩

theorem fmWfFrom_filter [DecidableEq α] (d : α) (p : Nat × α → Bool) (m : FMap α) (b : Option Nat) (hm : fmWfFrom d b m = true) :
    fmWfFrom d b (m.filter p) = true := by
  induction m generalizing b with
  | nil => exact fmWfFrom_nil d b
  | cons e m ih =>
    rw [fmWfFrom_cons] at hm
    rw [List.filter_cons]; split
    · rw [fmWfFrom_cons]; exact ⟨hm.1, hm.2.1, ih _ hm.2.2⟩
    · exact ih b (fmWfFrom_weak d b m hm.2.2 (fun x hx => Nat.le_of_lt (hm.1 x hx)))

/-- A canonical map whose keys all lie at `a` or above stands below every smaller bound. -/
theorem fmWfFrom_of_bound [DecidableEq α] (d : α) (m : FMap α) (b c : Option Nat) (hm : fmWfFrom d b m = true)
    (h : ∀ x, c = some x → ∀ e ∈ m, x < e.1) : fmWfFrom d c m = true := by
  cases m with
  | nil => exact fmWfFrom_nil d c
  | cons e m =>
    rw [fmWfFrom_cons] at hm ⊢
    exact ⟨fun x hx => h x hx e (by simp), hm.2.1, hm.2.2⟩

theorem fmWfFrom_cellsOf (bs : List Byte) (a : Nat) (c : Option Nat) (h : ∀ x, c = some x → x < a) :
    fmWfFrom (0 : Byte) c (cellsOf a bs) = true := by
  induction bs generalizing a c with
  | nil => exact fmWfFrom_nil 0 c
  | cons v vs ih =>
    rw [cellsOf]; split
    · exact ih (a + 1) c (fun x hx => by have := h x hx; omega)
    · rename_i hv
      rw [fmWfFrom_cons]
      refine ⟨h, hv, ih (a + 1) _ ?_⟩
      intro x hx
      have : a = x := by simpa using hx
      omega

/-- A write of a byte keeps the canonical form. -/
theorem Memory.wf_memSet (m : Memory) (a : Nat) (v : Byte) (h : Memory.wf m = true) : Memory.wf (memSet m a v) = true :=
  fmWf_fmSet 0 m a v h

/-- A write of bytes keeps the canonical form. -/
theorem Memory.wf_memWrite (m : Memory) (a : Nat) (bs : List Byte) (h : Memory.wf m = true) :
    Memory.wf (memWrite m a bs) = true := by
  unfold Memory.wf fmWf memWrite
  rw [List.append_assoc]
  refine fmWfFrom_append 0 _ _ none (fmWfFrom_filter 0 _ m none h) ?_
  intro c hc
  have hlt : ∀ x, c = some x → x < a := by
    intro x hx
    rcases hc x hx with h1 | ⟨e, he, rfl⟩
    · cases h1
    · simpa using (List.mem_filter.1 he).2
  refine fmWfFrom_append 0 _ _ c (fmWfFrom_cellsOf bs a c hlt) ?_
  intro c' hc'
  refine fmWfFrom_of_bound 0 _ none c' (fmWfFrom_filter 0 _ m none h) ?_
  intro x hx e he
  have he' : a + bs.length ≤ e.1 := by simpa using (List.mem_filter.1 he).2
  rcases hc' x hx with h1 | ⟨e', he1, rfl⟩
  · have := hlt x h1; omega
  · have := mem_cellsOf bs a e' he1; omega

/-- A masked write keeps the canonical form. -/
theorem Memory.wf_memWriteMask (bs : List Byte) (m : Memory) (a mask i : Nat) (h : Memory.wf m = true) :
    Memory.wf (memWriteMask m a mask i bs) = true := by
  induction bs generalizing m a i with
  | nil => exact h
  | cons v vs ih =>
    rw [memWriteMask]
    apply ih; split
    · exact Memory.wf_memSet m a v h
    · exact h

/-- What a byte reads as after a masked write: byte `x − a` where its mask bit is 1, as before everywhere else. -/
theorem memByte_memWriteMask (bs : List Byte) (m : Memory) (a mask i x : Nat) :
    memByte (memWriteMask m a mask i bs) x =
      if a ≤ x ∧ x < a + bs.length ∧ mask.testBit (i + (x - a)) = true then bs.getD (x - a) 0 else memByte m x := by
  induction bs generalizing m a i with
  | nil => rw [memWriteMask, if_neg]; simp only [List.length_nil]; omega
  | cons v vs ih =>
    rw [memWriteMask, ih]
    by_cases hx : x = a
    · subst hx
      rw [if_neg (by omega), show x - x = 0 by omega, Nat.add_zero, List.getD_cons_zero, List.length_cons]
      by_cases hb : mask.testBit i = true
      · rw [if_pos hb, memByte_memSet, if_pos rfl, if_pos ⟨by omega, by omega, hb⟩]
      · rw [if_neg hb, if_neg (fun h => hb h.2.2)]
    · have hm : memByte (if mask.testBit i = true then memSet m a v else m) x = memByte m x := by
        split
        · rw [memByte_memSet, if_neg (Ne.symm hx)]
        · rfl
      rw [hm, List.length_cons]
      by_cases hlt : a ≤ x
      · have e1 : i + 1 + (x - (a + 1)) = i + (x - a) := by omega
        have e2 : x - a = (x - (a + 1)) + 1 := by omega
        have e3 : (v :: vs).getD (x - a) 0 = vs.getD (x - (a + 1)) 0 := by rw [e2, List.getD_cons_succ]
        rw [e1, e3]
        by_cases hc : a + 1 ≤ x ∧ x < a + 1 + vs.length ∧ mask.testBit (i + (x - a)) = true
        · rw [if_pos hc, if_pos ⟨by omega, by omega, hc.2.2⟩]
        · rw [if_neg hc, if_neg]
          intro h; exact hc ⟨by omega, by omega, h.2.2⟩
      · rw [if_neg (by omega), if_neg (by omega)]

/-- The empty memory is canonical. -/
theorem Memory.wf_nil : Memory.wf [] = true := rfl

end Sys2Proof.Machine
end

