-- ==== Sys2Proof/Laws/State.lean ====
section
/-!
SUPPORT. Field lemmas of the state's updates: each update leaves every field but its own as it was, and a table read
after a write gives the value written.
-/

namespace Sys2Proof.Machine

/-! ### setTile -/
@[simp] theorem setTile_pending (s : State) (t : Nat) (x : Tile) : (setTile s t x).pending = s.pending := rfl
@[simp] theorem setTile_fresh (s : State) (t : Nat) (x : Tile) : (setTile s t x).fresh = s.fresh := rfl
@[simp] theorem setTile_cycle (s : State) (t : Nat) (x : Tile) : (setTile s t x).cycle = s.cycle := rfl
@[simp] theorem setTile_us (s : State) (t : Nat) (x : Tile) : (setTile s t x).us = s.us := rfl
@[simp] theorem setTile_fs (s : State) (t : Nat) (x : Tile) : (setTile s t x).fs = s.fs := rfl
@[simp] theorem setTile_point (s : State) (t : Nat) (x : Tile) : (setTile s t x).point = s.point := rfl
@[simp] theorem setTile_tile0 (s : State) (t : Nat) (x : Tile) : (setTile s t x).tile0 = s.tile0 := rfl
@[simp] theorem setTile_slice0 (s : State) (t : Nat) (x : Tile) : (setTile s t x).slice0 = s.slice0 := rfl
@[simp] theorem setTile_slices (s : State) (t : Nat) (x : Tile) : (setTile s t x).slices = s.slices := rfl
@[simp] theorem setTile_rings (s : State) (t : Nat) (x : Tile) : (setTile s t x).rings = s.rings := rfl
@[simp] theorem setTile_net (s : State) (t : Nat) (x : Tile) : (setTile s t x).net = s.net := rfl
@[simp] theorem setTile_wires (s : State) (t : Nat) (x : Tile) : (setTile s t x).wires = s.wires := rfl
@[simp] theorem setTile_esp (s : State) (t : Nat) (x : Tile) : (setTile s t x).esp = s.esp := rfl
@[simp] theorem setTile_xl (s : State) (t : Nat) (x : Tile) : (setTile s t x).xl = s.xl := rfl
@[simp] theorem setTile_stk (s : State) (t : Nat) (x : Tile) : (setTile s t x).stk = s.stk := rfl
@[simp] theorem setTile_dm (s : State) (t : Nat) (x : Tile) : (setTile s t x).dm = s.dm := rfl
@[simp] theorem setTile_seed (s : State) (t : Nat) (x : Tile) : (setTile s t x).seed = s.seed := rfl
@[simp] theorem setTile_graft (s : State) (t : Nat) (x : Tile) : (setTile s t x).graft = s.graft := rfl
@[simp] theorem setTile_coppice (s : State) (t : Nat) (x : Tile) : (setTile s t x).coppice = s.coppice := rfl
@[simp] theorem setTile_gt (s : State) (t : Nat) (x : Tile) : (setTile s t x).gt = s.gt := rfl
@[simp] theorem setTile_parts (s : State) (t : Nat) (x : Tile) : (setTile s t x).parts = s.parts := rfl
@[simp] theorem setTile_sessions (s : State) (t : Nat) (x : Tile) : (setTile s t x).sessions = s.sessions := rfl
@[simp] theorem setTile_homeReports (s : State) (t : Nat) (x : Tile) : (setTile s t x).homeReports = s.homeReports := rfl
@[simp] theorem setTile_pcount (s : State) (t : Nat) (x : Tile) : (setTile s t x).pcount = s.pcount := rfl
@[simp] theorem setTile_devCount (s : State) (t : Nat) (x : Tile) : (setTile s t x).devCount = s.devCount := rfl
@[simp] theorem setTile_sliceLists (s : State) (t : Nat) (x : Tile) : (setTile s t x).sliceLists = s.sliceLists := rfl
@[simp] theorem setTile_gov (s : State) (t : Nat) (x : Tile) : (setTile s t x).gov = s.gov := rfl
@[simp] theorem setTile_rcv (s : State) (t : Nat) (x : Tile) : (setTile s t x).rcv = s.rcv := rfl
@[simp] theorem setTile_ctl (s : State) (t : Nat) (x : Tile) : (setTile s t x).ctl = s.ctl := rfl
@[simp] theorem setTile_dev (s : State) (t : Nat) (x : Tile) : (setTile s t x).dev = s.dev := rfl
@[simp] theorem setTile_boot (s : State) (t : Nat) (x : Tile) : (setTile s t x).boot = s.boot := rfl
@[simp] theorem setTile_pins (s : State) (t : Nat) (x : Tile) : (setTile s t x).pins = s.pins := rfl
@[simp] theorem setTile_out (s : State) (t : Nat) (x : Tile) : (setTile s t x).out = s.out := rfl

/-! ### updTile -/
@[simp] theorem updTile_pending (s : State) (t : Nat) (f : Tile → Tile) : (updTile s t f).pending = s.pending := rfl
@[simp] theorem updTile_fresh (s : State) (t : Nat) (f : Tile → Tile) : (updTile s t f).fresh = s.fresh := rfl
@[simp] theorem updTile_cycle (s : State) (t : Nat) (f : Tile → Tile) : (updTile s t f).cycle = s.cycle := rfl
@[simp] theorem updTile_us (s : State) (t : Nat) (f : Tile → Tile) : (updTile s t f).us = s.us := rfl
@[simp] theorem updTile_fs (s : State) (t : Nat) (f : Tile → Tile) : (updTile s t f).fs = s.fs := rfl
@[simp] theorem updTile_point (s : State) (t : Nat) (f : Tile → Tile) : (updTile s t f).point = s.point := rfl
@[simp] theorem updTile_tile0 (s : State) (t : Nat) (f : Tile → Tile) : (updTile s t f).tile0 = s.tile0 := rfl
@[simp] theorem updTile_slice0 (s : State) (t : Nat) (f : Tile → Tile) : (updTile s t f).slice0 = s.slice0 := rfl
@[simp] theorem updTile_slices (s : State) (t : Nat) (f : Tile → Tile) : (updTile s t f).slices = s.slices := rfl
@[simp] theorem updTile_rings (s : State) (t : Nat) (f : Tile → Tile) : (updTile s t f).rings = s.rings := rfl
@[simp] theorem updTile_net (s : State) (t : Nat) (f : Tile → Tile) : (updTile s t f).net = s.net := rfl
@[simp] theorem updTile_wires (s : State) (t : Nat) (f : Tile → Tile) : (updTile s t f).wires = s.wires := rfl
@[simp] theorem updTile_esp (s : State) (t : Nat) (f : Tile → Tile) : (updTile s t f).esp = s.esp := rfl
@[simp] theorem updTile_xl (s : State) (t : Nat) (f : Tile → Tile) : (updTile s t f).xl = s.xl := rfl
@[simp] theorem updTile_stk (s : State) (t : Nat) (f : Tile → Tile) : (updTile s t f).stk = s.stk := rfl
@[simp] theorem updTile_dm (s : State) (t : Nat) (f : Tile → Tile) : (updTile s t f).dm = s.dm := rfl
@[simp] theorem updTile_seed (s : State) (t : Nat) (f : Tile → Tile) : (updTile s t f).seed = s.seed := rfl
@[simp] theorem updTile_graft (s : State) (t : Nat) (f : Tile → Tile) : (updTile s t f).graft = s.graft := rfl
@[simp] theorem updTile_coppice (s : State) (t : Nat) (f : Tile → Tile) : (updTile s t f).coppice = s.coppice := rfl
@[simp] theorem updTile_gt (s : State) (t : Nat) (f : Tile → Tile) : (updTile s t f).gt = s.gt := rfl
@[simp] theorem updTile_parts (s : State) (t : Nat) (f : Tile → Tile) : (updTile s t f).parts = s.parts := rfl
@[simp] theorem updTile_sessions (s : State) (t : Nat) (f : Tile → Tile) : (updTile s t f).sessions = s.sessions := rfl
@[simp] theorem updTile_homeReports (s : State) (t : Nat) (f : Tile → Tile) : (updTile s t f).homeReports = s.homeReports := rfl
@[simp] theorem updTile_pcount (s : State) (t : Nat) (f : Tile → Tile) : (updTile s t f).pcount = s.pcount := rfl
@[simp] theorem updTile_devCount (s : State) (t : Nat) (f : Tile → Tile) : (updTile s t f).devCount = s.devCount := rfl
@[simp] theorem updTile_sliceLists (s : State) (t : Nat) (f : Tile → Tile) : (updTile s t f).sliceLists = s.sliceLists := rfl
@[simp] theorem updTile_gov (s : State) (t : Nat) (f : Tile → Tile) : (updTile s t f).gov = s.gov := rfl
@[simp] theorem updTile_rcv (s : State) (t : Nat) (f : Tile → Tile) : (updTile s t f).rcv = s.rcv := rfl
@[simp] theorem updTile_ctl (s : State) (t : Nat) (f : Tile → Tile) : (updTile s t f).ctl = s.ctl := rfl
@[simp] theorem updTile_dev (s : State) (t : Nat) (f : Tile → Tile) : (updTile s t f).dev = s.dev := rfl
@[simp] theorem updTile_boot (s : State) (t : Nat) (f : Tile → Tile) : (updTile s t f).boot = s.boot := rfl
@[simp] theorem updTile_pins (s : State) (t : Nat) (f : Tile → Tile) : (updTile s t f).pins = s.pins := rfl
@[simp] theorem updTile_out (s : State) (t : Nat) (f : Tile → Tile) : (updTile s t f).out = s.out := rfl

/-! ### mapTiles -/
@[simp] theorem mapTiles_pending (s : State) (f : Tile → Tile) : (mapTiles s f).pending = s.pending := rfl
@[simp] theorem mapTiles_fresh (s : State) (f : Tile → Tile) : (mapTiles s f).fresh = s.fresh := rfl
@[simp] theorem mapTiles_cycle (s : State) (f : Tile → Tile) : (mapTiles s f).cycle = s.cycle := rfl
@[simp] theorem mapTiles_us (s : State) (f : Tile → Tile) : (mapTiles s f).us = s.us := rfl
@[simp] theorem mapTiles_fs (s : State) (f : Tile → Tile) : (mapTiles s f).fs = s.fs := rfl
@[simp] theorem mapTiles_point (s : State) (f : Tile → Tile) : (mapTiles s f).point = s.point := rfl
@[simp] theorem mapTiles_slice0 (s : State) (f : Tile → Tile) : (mapTiles s f).slice0 = s.slice0 := rfl
@[simp] theorem mapTiles_slices (s : State) (f : Tile → Tile) : (mapTiles s f).slices = s.slices := rfl
@[simp] theorem mapTiles_rings (s : State) (f : Tile → Tile) : (mapTiles s f).rings = s.rings := rfl
@[simp] theorem mapTiles_net (s : State) (f : Tile → Tile) : (mapTiles s f).net = s.net := rfl
@[simp] theorem mapTiles_wires (s : State) (f : Tile → Tile) : (mapTiles s f).wires = s.wires := rfl
@[simp] theorem mapTiles_esp (s : State) (f : Tile → Tile) : (mapTiles s f).esp = s.esp := rfl
@[simp] theorem mapTiles_xl (s : State) (f : Tile → Tile) : (mapTiles s f).xl = s.xl := rfl
@[simp] theorem mapTiles_stk (s : State) (f : Tile → Tile) : (mapTiles s f).stk = s.stk := rfl
@[simp] theorem mapTiles_dm (s : State) (f : Tile → Tile) : (mapTiles s f).dm = s.dm := rfl
@[simp] theorem mapTiles_seed (s : State) (f : Tile → Tile) : (mapTiles s f).seed = s.seed := rfl
@[simp] theorem mapTiles_graft (s : State) (f : Tile → Tile) : (mapTiles s f).graft = s.graft := rfl
@[simp] theorem mapTiles_coppice (s : State) (f : Tile → Tile) : (mapTiles s f).coppice = s.coppice := rfl
@[simp] theorem mapTiles_gt (s : State) (f : Tile → Tile) : (mapTiles s f).gt = s.gt := rfl
@[simp] theorem mapTiles_parts (s : State) (f : Tile → Tile) : (mapTiles s f).parts = s.parts := rfl
@[simp] theorem mapTiles_sessions (s : State) (f : Tile → Tile) : (mapTiles s f).sessions = s.sessions := rfl
@[simp] theorem mapTiles_homeReports (s : State) (f : Tile → Tile) : (mapTiles s f).homeReports = s.homeReports := rfl
@[simp] theorem mapTiles_pcount (s : State) (f : Tile → Tile) : (mapTiles s f).pcount = s.pcount := rfl
@[simp] theorem mapTiles_devCount (s : State) (f : Tile → Tile) : (mapTiles s f).devCount = s.devCount := rfl
@[simp] theorem mapTiles_sliceLists (s : State) (f : Tile → Tile) : (mapTiles s f).sliceLists = s.sliceLists := rfl
@[simp] theorem mapTiles_gov (s : State) (f : Tile → Tile) : (mapTiles s f).gov = s.gov := rfl
@[simp] theorem mapTiles_rcv (s : State) (f : Tile → Tile) : (mapTiles s f).rcv = s.rcv := rfl
@[simp] theorem mapTiles_ctl (s : State) (f : Tile → Tile) : (mapTiles s f).ctl = s.ctl := rfl
@[simp] theorem mapTiles_dev (s : State) (f : Tile → Tile) : (mapTiles s f).dev = s.dev := rfl
@[simp] theorem mapTiles_boot (s : State) (f : Tile → Tile) : (mapTiles s f).boot = s.boot := rfl
@[simp] theorem mapTiles_pins (s : State) (f : Tile → Tile) : (mapTiles s f).pins = s.pins := rfl
@[simp] theorem mapTiles_out (s : State) (f : Tile → Tile) : (mapTiles s f).out = s.out := rfl

/-! ### updSlice -/
@[simp] theorem updSlice_pending (s : State) (h : Nat) (f : Slice → Slice) : (updSlice s h f).pending = s.pending := rfl
@[simp] theorem updSlice_fresh (s : State) (h : Nat) (f : Slice → Slice) : (updSlice s h f).fresh = s.fresh := rfl
@[simp] theorem updSlice_cycle (s : State) (h : Nat) (f : Slice → Slice) : (updSlice s h f).cycle = s.cycle := rfl
@[simp] theorem updSlice_us (s : State) (h : Nat) (f : Slice → Slice) : (updSlice s h f).us = s.us := rfl
@[simp] theorem updSlice_fs (s : State) (h : Nat) (f : Slice → Slice) : (updSlice s h f).fs = s.fs := rfl
@[simp] theorem updSlice_point (s : State) (h : Nat) (f : Slice → Slice) : (updSlice s h f).point = s.point := rfl
@[simp] theorem updSlice_tile0 (s : State) (h : Nat) (f : Slice → Slice) : (updSlice s h f).tile0 = s.tile0 := rfl
@[simp] theorem updSlice_tiles (s : State) (h : Nat) (f : Slice → Slice) : (updSlice s h f).tiles = s.tiles := rfl
@[simp] theorem updSlice_slice0 (s : State) (h : Nat) (f : Slice → Slice) : (updSlice s h f).slice0 = s.slice0 := rfl
@[simp] theorem updSlice_rings (s : State) (h : Nat) (f : Slice → Slice) : (updSlice s h f).rings = s.rings := rfl
@[simp] theorem updSlice_net (s : State) (h : Nat) (f : Slice → Slice) : (updSlice s h f).net = s.net := rfl
@[simp] theorem updSlice_wires (s : State) (h : Nat) (f : Slice → Slice) : (updSlice s h f).wires = s.wires := rfl
@[simp] theorem updSlice_esp (s : State) (h : Nat) (f : Slice → Slice) : (updSlice s h f).esp = s.esp := rfl
@[simp] theorem updSlice_xl (s : State) (h : Nat) (f : Slice → Slice) : (updSlice s h f).xl = s.xl := rfl
@[simp] theorem updSlice_stk (s : State) (h : Nat) (f : Slice → Slice) : (updSlice s h f).stk = s.stk := rfl
@[simp] theorem updSlice_dm (s : State) (h : Nat) (f : Slice → Slice) : (updSlice s h f).dm = s.dm := rfl
@[simp] theorem updSlice_seed (s : State) (h : Nat) (f : Slice → Slice) : (updSlice s h f).seed = s.seed := rfl
@[simp] theorem updSlice_graft (s : State) (h : Nat) (f : Slice → Slice) : (updSlice s h f).graft = s.graft := rfl
@[simp] theorem updSlice_coppice (s : State) (h : Nat) (f : Slice → Slice) : (updSlice s h f).coppice = s.coppice := rfl
@[simp] theorem updSlice_gt (s : State) (h : Nat) (f : Slice → Slice) : (updSlice s h f).gt = s.gt := rfl
@[simp] theorem updSlice_parts (s : State) (h : Nat) (f : Slice → Slice) : (updSlice s h f).parts = s.parts := rfl
@[simp] theorem updSlice_sessions (s : State) (h : Nat) (f : Slice → Slice) : (updSlice s h f).sessions = s.sessions := rfl
@[simp] theorem updSlice_homeReports (s : State) (h : Nat) (f : Slice → Slice) : (updSlice s h f).homeReports = s.homeReports := rfl
@[simp] theorem updSlice_pcount (s : State) (h : Nat) (f : Slice → Slice) : (updSlice s h f).pcount = s.pcount := rfl
@[simp] theorem updSlice_devCount (s : State) (h : Nat) (f : Slice → Slice) : (updSlice s h f).devCount = s.devCount := rfl
@[simp] theorem updSlice_sliceLists (s : State) (h : Nat) (f : Slice → Slice) : (updSlice s h f).sliceLists = s.sliceLists := rfl
@[simp] theorem updSlice_gov (s : State) (h : Nat) (f : Slice → Slice) : (updSlice s h f).gov = s.gov := rfl
@[simp] theorem updSlice_rcv (s : State) (h : Nat) (f : Slice → Slice) : (updSlice s h f).rcv = s.rcv := rfl
@[simp] theorem updSlice_ctl (s : State) (h : Nat) (f : Slice → Slice) : (updSlice s h f).ctl = s.ctl := rfl
@[simp] theorem updSlice_dev (s : State) (h : Nat) (f : Slice → Slice) : (updSlice s h f).dev = s.dev := rfl
@[simp] theorem updSlice_boot (s : State) (h : Nat) (f : Slice → Slice) : (updSlice s h f).boot = s.boot := rfl
@[simp] theorem updSlice_pins (s : State) (h : Nat) (f : Slice → Slice) : (updSlice s h f).pins = s.pins := rfl
@[simp] theorem updSlice_out (s : State) (h : Nat) (f : Slice → Slice) : (updSlice s h f).out = s.out := rfl

/-! ### updStack -/
@[simp] theorem updStack_pending (s : State) (k : Nat) (f : Stack → Stack) : (updStack s k f).pending = s.pending := rfl
@[simp] theorem updStack_fresh (s : State) (k : Nat) (f : Stack → Stack) : (updStack s k f).fresh = s.fresh := rfl
@[simp] theorem updStack_cycle (s : State) (k : Nat) (f : Stack → Stack) : (updStack s k f).cycle = s.cycle := rfl
@[simp] theorem updStack_us (s : State) (k : Nat) (f : Stack → Stack) : (updStack s k f).us = s.us := rfl
@[simp] theorem updStack_fs (s : State) (k : Nat) (f : Stack → Stack) : (updStack s k f).fs = s.fs := rfl
@[simp] theorem updStack_point (s : State) (k : Nat) (f : Stack → Stack) : (updStack s k f).point = s.point := rfl
@[simp] theorem updStack_tile0 (s : State) (k : Nat) (f : Stack → Stack) : (updStack s k f).tile0 = s.tile0 := rfl
@[simp] theorem updStack_tiles (s : State) (k : Nat) (f : Stack → Stack) : (updStack s k f).tiles = s.tiles := rfl
@[simp] theorem updStack_slice0 (s : State) (k : Nat) (f : Stack → Stack) : (updStack s k f).slice0 = s.slice0 := rfl
@[simp] theorem updStack_slices (s : State) (k : Nat) (f : Stack → Stack) : (updStack s k f).slices = s.slices := rfl
@[simp] theorem updStack_rings (s : State) (k : Nat) (f : Stack → Stack) : (updStack s k f).rings = s.rings := rfl
@[simp] theorem updStack_net (s : State) (k : Nat) (f : Stack → Stack) : (updStack s k f).net = s.net := rfl
@[simp] theorem updStack_wires (s : State) (k : Nat) (f : Stack → Stack) : (updStack s k f).wires = s.wires := rfl
@[simp] theorem updStack_esp (s : State) (k : Nat) (f : Stack → Stack) : (updStack s k f).esp = s.esp := rfl
@[simp] theorem updStack_xl (s : State) (k : Nat) (f : Stack → Stack) : (updStack s k f).xl = s.xl := rfl
@[simp] theorem updStack_dm (s : State) (k : Nat) (f : Stack → Stack) : (updStack s k f).dm = s.dm := rfl
@[simp] theorem updStack_seed (s : State) (k : Nat) (f : Stack → Stack) : (updStack s k f).seed = s.seed := rfl
@[simp] theorem updStack_graft (s : State) (k : Nat) (f : Stack → Stack) : (updStack s k f).graft = s.graft := rfl
@[simp] theorem updStack_coppice (s : State) (k : Nat) (f : Stack → Stack) : (updStack s k f).coppice = s.coppice := rfl
@[simp] theorem updStack_gt (s : State) (k : Nat) (f : Stack → Stack) : (updStack s k f).gt = s.gt := rfl
@[simp] theorem updStack_parts (s : State) (k : Nat) (f : Stack → Stack) : (updStack s k f).parts = s.parts := rfl
@[simp] theorem updStack_sessions (s : State) (k : Nat) (f : Stack → Stack) : (updStack s k f).sessions = s.sessions := rfl
@[simp] theorem updStack_homeReports (s : State) (k : Nat) (f : Stack → Stack) : (updStack s k f).homeReports = s.homeReports := rfl
@[simp] theorem updStack_pcount (s : State) (k : Nat) (f : Stack → Stack) : (updStack s k f).pcount = s.pcount := rfl
@[simp] theorem updStack_devCount (s : State) (k : Nat) (f : Stack → Stack) : (updStack s k f).devCount = s.devCount := rfl
@[simp] theorem updStack_sliceLists (s : State) (k : Nat) (f : Stack → Stack) : (updStack s k f).sliceLists = s.sliceLists := rfl
@[simp] theorem updStack_gov (s : State) (k : Nat) (f : Stack → Stack) : (updStack s k f).gov = s.gov := rfl
@[simp] theorem updStack_rcv (s : State) (k : Nat) (f : Stack → Stack) : (updStack s k f).rcv = s.rcv := rfl
@[simp] theorem updStack_ctl (s : State) (k : Nat) (f : Stack → Stack) : (updStack s k f).ctl = s.ctl := rfl
@[simp] theorem updStack_dev (s : State) (k : Nat) (f : Stack → Stack) : (updStack s k f).dev = s.dev := rfl
@[simp] theorem updStack_boot (s : State) (k : Nat) (f : Stack → Stack) : (updStack s k f).boot = s.boot := rfl
@[simp] theorem updStack_pins (s : State) (k : Nat) (f : Stack → Stack) : (updStack s k f).pins = s.pins := rfl
@[simp] theorem updStack_out (s : State) (k : Nat) (f : Stack → Stack) : (updStack s k f).out = s.out := rfl

/-! ### updXl -/
@[simp] theorem updXl_pending (s : State) (p : Nat) (f : Xl → Xl) : (updXl s p f).pending = s.pending := rfl
@[simp] theorem updXl_fresh (s : State) (p : Nat) (f : Xl → Xl) : (updXl s p f).fresh = s.fresh := rfl
@[simp] theorem updXl_cycle (s : State) (p : Nat) (f : Xl → Xl) : (updXl s p f).cycle = s.cycle := rfl
@[simp] theorem updXl_us (s : State) (p : Nat) (f : Xl → Xl) : (updXl s p f).us = s.us := rfl
@[simp] theorem updXl_fs (s : State) (p : Nat) (f : Xl → Xl) : (updXl s p f).fs = s.fs := rfl
@[simp] theorem updXl_point (s : State) (p : Nat) (f : Xl → Xl) : (updXl s p f).point = s.point := rfl
@[simp] theorem updXl_tile0 (s : State) (p : Nat) (f : Xl → Xl) : (updXl s p f).tile0 = s.tile0 := rfl
@[simp] theorem updXl_tiles (s : State) (p : Nat) (f : Xl → Xl) : (updXl s p f).tiles = s.tiles := rfl
@[simp] theorem updXl_slice0 (s : State) (p : Nat) (f : Xl → Xl) : (updXl s p f).slice0 = s.slice0 := rfl
@[simp] theorem updXl_slices (s : State) (p : Nat) (f : Xl → Xl) : (updXl s p f).slices = s.slices := rfl
@[simp] theorem updXl_rings (s : State) (p : Nat) (f : Xl → Xl) : (updXl s p f).rings = s.rings := rfl
@[simp] theorem updXl_net (s : State) (p : Nat) (f : Xl → Xl) : (updXl s p f).net = s.net := rfl
@[simp] theorem updXl_wires (s : State) (p : Nat) (f : Xl → Xl) : (updXl s p f).wires = s.wires := rfl
@[simp] theorem updXl_esp (s : State) (p : Nat) (f : Xl → Xl) : (updXl s p f).esp = s.esp := rfl
@[simp] theorem updXl_stk (s : State) (p : Nat) (f : Xl → Xl) : (updXl s p f).stk = s.stk := rfl
@[simp] theorem updXl_dm (s : State) (p : Nat) (f : Xl → Xl) : (updXl s p f).dm = s.dm := rfl
@[simp] theorem updXl_seed (s : State) (p : Nat) (f : Xl → Xl) : (updXl s p f).seed = s.seed := rfl
@[simp] theorem updXl_graft (s : State) (p : Nat) (f : Xl → Xl) : (updXl s p f).graft = s.graft := rfl
@[simp] theorem updXl_coppice (s : State) (p : Nat) (f : Xl → Xl) : (updXl s p f).coppice = s.coppice := rfl
@[simp] theorem updXl_gt (s : State) (p : Nat) (f : Xl → Xl) : (updXl s p f).gt = s.gt := rfl
@[simp] theorem updXl_parts (s : State) (p : Nat) (f : Xl → Xl) : (updXl s p f).parts = s.parts := rfl
@[simp] theorem updXl_sessions (s : State) (p : Nat) (f : Xl → Xl) : (updXl s p f).sessions = s.sessions := rfl
@[simp] theorem updXl_homeReports (s : State) (p : Nat) (f : Xl → Xl) : (updXl s p f).homeReports = s.homeReports := rfl
@[simp] theorem updXl_pcount (s : State) (p : Nat) (f : Xl → Xl) : (updXl s p f).pcount = s.pcount := rfl
@[simp] theorem updXl_devCount (s : State) (p : Nat) (f : Xl → Xl) : (updXl s p f).devCount = s.devCount := rfl
@[simp] theorem updXl_sliceLists (s : State) (p : Nat) (f : Xl → Xl) : (updXl s p f).sliceLists = s.sliceLists := rfl
@[simp] theorem updXl_gov (s : State) (p : Nat) (f : Xl → Xl) : (updXl s p f).gov = s.gov := rfl
@[simp] theorem updXl_rcv (s : State) (p : Nat) (f : Xl → Xl) : (updXl s p f).rcv = s.rcv := rfl
@[simp] theorem updXl_ctl (s : State) (p : Nat) (f : Xl → Xl) : (updXl s p f).ctl = s.ctl := rfl
@[simp] theorem updXl_dev (s : State) (p : Nat) (f : Xl → Xl) : (updXl s p f).dev = s.dev := rfl
@[simp] theorem updXl_boot (s : State) (p : Nat) (f : Xl → Xl) : (updXl s p f).boot = s.boot := rfl
@[simp] theorem updXl_pins (s : State) (p : Nat) (f : Xl → Xl) : (updXl s p f).pins = s.pins := rfl
@[simp] theorem updXl_out (s : State) (p : Nat) (f : Xl → Xl) : (updXl s p f).out = s.out := rfl

/-! ### updPart -/
@[simp] theorem updPart_pending (s : State) (p : Nat) (f : Part → Part) : (updPart s p f).pending = s.pending := rfl
@[simp] theorem updPart_fresh (s : State) (p : Nat) (f : Part → Part) : (updPart s p f).fresh = s.fresh := rfl
@[simp] theorem updPart_cycle (s : State) (p : Nat) (f : Part → Part) : (updPart s p f).cycle = s.cycle := rfl
@[simp] theorem updPart_us (s : State) (p : Nat) (f : Part → Part) : (updPart s p f).us = s.us := rfl
@[simp] theorem updPart_fs (s : State) (p : Nat) (f : Part → Part) : (updPart s p f).fs = s.fs := rfl
@[simp] theorem updPart_point (s : State) (p : Nat) (f : Part → Part) : (updPart s p f).point = s.point := rfl
@[simp] theorem updPart_tile0 (s : State) (p : Nat) (f : Part → Part) : (updPart s p f).tile0 = s.tile0 := rfl
@[simp] theorem updPart_tiles (s : State) (p : Nat) (f : Part → Part) : (updPart s p f).tiles = s.tiles := rfl
@[simp] theorem updPart_slice0 (s : State) (p : Nat) (f : Part → Part) : (updPart s p f).slice0 = s.slice0 := rfl
@[simp] theorem updPart_slices (s : State) (p : Nat) (f : Part → Part) : (updPart s p f).slices = s.slices := rfl
@[simp] theorem updPart_rings (s : State) (p : Nat) (f : Part → Part) : (updPart s p f).rings = s.rings := rfl
@[simp] theorem updPart_net (s : State) (p : Nat) (f : Part → Part) : (updPart s p f).net = s.net := rfl
@[simp] theorem updPart_wires (s : State) (p : Nat) (f : Part → Part) : (updPart s p f).wires = s.wires := rfl
@[simp] theorem updPart_esp (s : State) (p : Nat) (f : Part → Part) : (updPart s p f).esp = s.esp := rfl
@[simp] theorem updPart_xl (s : State) (p : Nat) (f : Part → Part) : (updPart s p f).xl = s.xl := rfl
@[simp] theorem updPart_stk (s : State) (p : Nat) (f : Part → Part) : (updPart s p f).stk = s.stk := rfl
@[simp] theorem updPart_dm (s : State) (p : Nat) (f : Part → Part) : (updPart s p f).dm = s.dm := rfl
@[simp] theorem updPart_seed (s : State) (p : Nat) (f : Part → Part) : (updPart s p f).seed = s.seed := rfl
@[simp] theorem updPart_graft (s : State) (p : Nat) (f : Part → Part) : (updPart s p f).graft = s.graft := rfl
@[simp] theorem updPart_coppice (s : State) (p : Nat) (f : Part → Part) : (updPart s p f).coppice = s.coppice := rfl
@[simp] theorem updPart_gt (s : State) (p : Nat) (f : Part → Part) : (updPart s p f).gt = s.gt := rfl
@[simp] theorem updPart_sessions (s : State) (p : Nat) (f : Part → Part) : (updPart s p f).sessions = s.sessions := rfl
@[simp] theorem updPart_homeReports (s : State) (p : Nat) (f : Part → Part) : (updPart s p f).homeReports = s.homeReports := rfl
@[simp] theorem updPart_pcount (s : State) (p : Nat) (f : Part → Part) : (updPart s p f).pcount = s.pcount := rfl
@[simp] theorem updPart_devCount (s : State) (p : Nat) (f : Part → Part) : (updPart s p f).devCount = s.devCount := rfl
@[simp] theorem updPart_sliceLists (s : State) (p : Nat) (f : Part → Part) : (updPart s p f).sliceLists = s.sliceLists := rfl
@[simp] theorem updPart_gov (s : State) (p : Nat) (f : Part → Part) : (updPart s p f).gov = s.gov := rfl
@[simp] theorem updPart_rcv (s : State) (p : Nat) (f : Part → Part) : (updPart s p f).rcv = s.rcv := rfl
@[simp] theorem updPart_ctl (s : State) (p : Nat) (f : Part → Part) : (updPart s p f).ctl = s.ctl := rfl
@[simp] theorem updPart_dev (s : State) (p : Nat) (f : Part → Part) : (updPart s p f).dev = s.dev := rfl
@[simp] theorem updPart_boot (s : State) (p : Nat) (f : Part → Part) : (updPart s p f).boot = s.boot := rfl
@[simp] theorem updPart_pins (s : State) (p : Nat) (f : Part → Part) : (updPart s p f).pins = s.pins := rfl
@[simp] theorem updPart_out (s : State) (p : Nat) (f : Part → Part) : (updPart s p f).out = s.out := rfl

/-! ### dictPut -/
@[simp] theorem dictPut_pending (s : State) (i j : Nat) (v : List Byte) : (dictPut s i j v).pending = s.pending := rfl
@[simp] theorem dictPut_fresh (s : State) (i j : Nat) (v : List Byte) : (dictPut s i j v).fresh = s.fresh := rfl
@[simp] theorem dictPut_cycle (s : State) (i j : Nat) (v : List Byte) : (dictPut s i j v).cycle = s.cycle := rfl
@[simp] theorem dictPut_us (s : State) (i j : Nat) (v : List Byte) : (dictPut s i j v).us = s.us := rfl
@[simp] theorem dictPut_fs (s : State) (i j : Nat) (v : List Byte) : (dictPut s i j v).fs = s.fs := rfl
@[simp] theorem dictPut_point (s : State) (i j : Nat) (v : List Byte) : (dictPut s i j v).point = s.point := rfl
@[simp] theorem dictPut_tile0 (s : State) (i j : Nat) (v : List Byte) : (dictPut s i j v).tile0 = s.tile0 := rfl
@[simp] theorem dictPut_tiles (s : State) (i j : Nat) (v : List Byte) : (dictPut s i j v).tiles = s.tiles := rfl
@[simp] theorem dictPut_slice0 (s : State) (i j : Nat) (v : List Byte) : (dictPut s i j v).slice0 = s.slice0 := rfl
@[simp] theorem dictPut_slices (s : State) (i j : Nat) (v : List Byte) : (dictPut s i j v).slices = s.slices := rfl
@[simp] theorem dictPut_rings (s : State) (i j : Nat) (v : List Byte) : (dictPut s i j v).rings = s.rings := rfl
@[simp] theorem dictPut_net (s : State) (i j : Nat) (v : List Byte) : (dictPut s i j v).net = s.net := rfl
@[simp] theorem dictPut_wires (s : State) (i j : Nat) (v : List Byte) : (dictPut s i j v).wires = s.wires := rfl
@[simp] theorem dictPut_esp (s : State) (i j : Nat) (v : List Byte) : (dictPut s i j v).esp = s.esp := rfl
@[simp] theorem dictPut_xl (s : State) (i j : Nat) (v : List Byte) : (dictPut s i j v).xl = s.xl := rfl
@[simp] theorem dictPut_stk (s : State) (i j : Nat) (v : List Byte) : (dictPut s i j v).stk = s.stk := rfl
@[simp] theorem dictPut_dm (s : State) (i j : Nat) (v : List Byte) : (dictPut s i j v).dm = s.dm := rfl
@[simp] theorem dictPut_seed (s : State) (i j : Nat) (v : List Byte) : (dictPut s i j v).seed = s.seed := rfl
@[simp] theorem dictPut_graft (s : State) (i j : Nat) (v : List Byte) : (dictPut s i j v).graft = s.graft := rfl
@[simp] theorem dictPut_coppice (s : State) (i j : Nat) (v : List Byte) : (dictPut s i j v).coppice = s.coppice := rfl
@[simp] theorem dictPut_gt (s : State) (i j : Nat) (v : List Byte) : (dictPut s i j v).gt = s.gt := rfl
@[simp] theorem dictPut_parts (s : State) (i j : Nat) (v : List Byte) : (dictPut s i j v).parts = s.parts := rfl
@[simp] theorem dictPut_sessions (s : State) (i j : Nat) (v : List Byte) : (dictPut s i j v).sessions = s.sessions := rfl
@[simp] theorem dictPut_homeReports (s : State) (i j : Nat) (v : List Byte) : (dictPut s i j v).homeReports = s.homeReports := rfl
@[simp] theorem dictPut_pcount (s : State) (i j : Nat) (v : List Byte) : (dictPut s i j v).pcount = s.pcount := rfl
@[simp] theorem dictPut_devCount (s : State) (i j : Nat) (v : List Byte) : (dictPut s i j v).devCount = s.devCount := rfl
@[simp] theorem dictPut_sliceLists (s : State) (i j : Nat) (v : List Byte) : (dictPut s i j v).sliceLists = s.sliceLists := rfl
@[simp] theorem dictPut_gov (s : State) (i j : Nat) (v : List Byte) : (dictPut s i j v).gov = s.gov := rfl
@[simp] theorem dictPut_rcv (s : State) (i j : Nat) (v : List Byte) : (dictPut s i j v).rcv = s.rcv := rfl
@[simp] theorem dictPut_dev (s : State) (i j : Nat) (v : List Byte) : (dictPut s i j v).dev = s.dev := rfl
@[simp] theorem dictPut_boot (s : State) (i j : Nat) (v : List Byte) : (dictPut s i j v).boot = s.boot := rfl
@[simp] theorem dictPut_pins (s : State) (i j : Nat) (v : List Byte) : (dictPut s i j v).pins = s.pins := rfl
@[simp] theorem dictPut_out (s : State) (i j : Nat) (v : List Byte) : (dictPut s i j v).out = s.out := rfl

/-! ### dropWire -/
@[simp] theorem dropWire_pending (s : State) (w : Wire) : (dropWire s w).pending = s.pending := rfl
@[simp] theorem dropWire_fresh (s : State) (w : Wire) : (dropWire s w).fresh = s.fresh := rfl
@[simp] theorem dropWire_cycle (s : State) (w : Wire) : (dropWire s w).cycle = s.cycle := rfl
@[simp] theorem dropWire_us (s : State) (w : Wire) : (dropWire s w).us = s.us := rfl
@[simp] theorem dropWire_fs (s : State) (w : Wire) : (dropWire s w).fs = s.fs := rfl
@[simp] theorem dropWire_point (s : State) (w : Wire) : (dropWire s w).point = s.point := rfl
@[simp] theorem dropWire_tile0 (s : State) (w : Wire) : (dropWire s w).tile0 = s.tile0 := rfl
@[simp] theorem dropWire_tiles (s : State) (w : Wire) : (dropWire s w).tiles = s.tiles := rfl
@[simp] theorem dropWire_slice0 (s : State) (w : Wire) : (dropWire s w).slice0 = s.slice0 := rfl
@[simp] theorem dropWire_slices (s : State) (w : Wire) : (dropWire s w).slices = s.slices := rfl
@[simp] theorem dropWire_rings (s : State) (w : Wire) : (dropWire s w).rings = s.rings := rfl
@[simp] theorem dropWire_net (s : State) (w : Wire) : (dropWire s w).net = s.net := rfl
@[simp] theorem dropWire_esp (s : State) (w : Wire) : (dropWire s w).esp = s.esp := rfl
@[simp] theorem dropWire_xl (s : State) (w : Wire) : (dropWire s w).xl = s.xl := rfl
@[simp] theorem dropWire_stk (s : State) (w : Wire) : (dropWire s w).stk = s.stk := rfl
@[simp] theorem dropWire_dm (s : State) (w : Wire) : (dropWire s w).dm = s.dm := rfl
@[simp] theorem dropWire_seed (s : State) (w : Wire) : (dropWire s w).seed = s.seed := rfl
@[simp] theorem dropWire_graft (s : State) (w : Wire) : (dropWire s w).graft = s.graft := rfl
@[simp] theorem dropWire_coppice (s : State) (w : Wire) : (dropWire s w).coppice = s.coppice := rfl
@[simp] theorem dropWire_gt (s : State) (w : Wire) : (dropWire s w).gt = s.gt := rfl
@[simp] theorem dropWire_parts (s : State) (w : Wire) : (dropWire s w).parts = s.parts := rfl
@[simp] theorem dropWire_sessions (s : State) (w : Wire) : (dropWire s w).sessions = s.sessions := rfl
@[simp] theorem dropWire_homeReports (s : State) (w : Wire) : (dropWire s w).homeReports = s.homeReports := rfl
@[simp] theorem dropWire_pcount (s : State) (w : Wire) : (dropWire s w).pcount = s.pcount := rfl
@[simp] theorem dropWire_devCount (s : State) (w : Wire) : (dropWire s w).devCount = s.devCount := rfl
@[simp] theorem dropWire_sliceLists (s : State) (w : Wire) : (dropWire s w).sliceLists = s.sliceLists := rfl
@[simp] theorem dropWire_gov (s : State) (w : Wire) : (dropWire s w).gov = s.gov := rfl
@[simp] theorem dropWire_rcv (s : State) (w : Wire) : (dropWire s w).rcv = s.rcv := rfl
@[simp] theorem dropWire_ctl (s : State) (w : Wire) : (dropWire s w).ctl = s.ctl := rfl
@[simp] theorem dropWire_dev (s : State) (w : Wire) : (dropWire s w).dev = s.dev := rfl
@[simp] theorem dropWire_boot (s : State) (w : Wire) : (dropWire s w).boot = s.boot := rfl
@[simp] theorem dropWire_pins (s : State) (w : Wire) : (dropWire s w).pins = s.pins := rfl
@[simp] theorem dropWire_out (s : State) (w : Wire) : (dropWire s w).out = s.out := rfl

/-! ### pcountAdd -/
@[simp] theorem pcountAdd_pending (s : State) (p i n : Nat) : (pcountAdd s p i n).pending = s.pending := rfl
@[simp] theorem pcountAdd_fresh (s : State) (p i n : Nat) : (pcountAdd s p i n).fresh = s.fresh := rfl
@[simp] theorem pcountAdd_cycle (s : State) (p i n : Nat) : (pcountAdd s p i n).cycle = s.cycle := rfl
@[simp] theorem pcountAdd_us (s : State) (p i n : Nat) : (pcountAdd s p i n).us = s.us := rfl
@[simp] theorem pcountAdd_fs (s : State) (p i n : Nat) : (pcountAdd s p i n).fs = s.fs := rfl
@[simp] theorem pcountAdd_point (s : State) (p i n : Nat) : (pcountAdd s p i n).point = s.point := rfl
@[simp] theorem pcountAdd_tile0 (s : State) (p i n : Nat) : (pcountAdd s p i n).tile0 = s.tile0 := rfl
@[simp] theorem pcountAdd_tiles (s : State) (p i n : Nat) : (pcountAdd s p i n).tiles = s.tiles := rfl
@[simp] theorem pcountAdd_slice0 (s : State) (p i n : Nat) : (pcountAdd s p i n).slice0 = s.slice0 := rfl
@[simp] theorem pcountAdd_slices (s : State) (p i n : Nat) : (pcountAdd s p i n).slices = s.slices := rfl
@[simp] theorem pcountAdd_rings (s : State) (p i n : Nat) : (pcountAdd s p i n).rings = s.rings := rfl
@[simp] theorem pcountAdd_net (s : State) (p i n : Nat) : (pcountAdd s p i n).net = s.net := rfl
@[simp] theorem pcountAdd_wires (s : State) (p i n : Nat) : (pcountAdd s p i n).wires = s.wires := rfl
@[simp] theorem pcountAdd_esp (s : State) (p i n : Nat) : (pcountAdd s p i n).esp = s.esp := rfl
@[simp] theorem pcountAdd_xl (s : State) (p i n : Nat) : (pcountAdd s p i n).xl = s.xl := rfl
@[simp] theorem pcountAdd_stk (s : State) (p i n : Nat) : (pcountAdd s p i n).stk = s.stk := rfl
@[simp] theorem pcountAdd_dm (s : State) (p i n : Nat) : (pcountAdd s p i n).dm = s.dm := rfl
@[simp] theorem pcountAdd_seed (s : State) (p i n : Nat) : (pcountAdd s p i n).seed = s.seed := rfl
@[simp] theorem pcountAdd_graft (s : State) (p i n : Nat) : (pcountAdd s p i n).graft = s.graft := rfl
@[simp] theorem pcountAdd_coppice (s : State) (p i n : Nat) : (pcountAdd s p i n).coppice = s.coppice := rfl
@[simp] theorem pcountAdd_gt (s : State) (p i n : Nat) : (pcountAdd s p i n).gt = s.gt := rfl
@[simp] theorem pcountAdd_parts (s : State) (p i n : Nat) : (pcountAdd s p i n).parts = s.parts := rfl
@[simp] theorem pcountAdd_sessions (s : State) (p i n : Nat) : (pcountAdd s p i n).sessions = s.sessions := rfl
@[simp] theorem pcountAdd_homeReports (s : State) (p i n : Nat) : (pcountAdd s p i n).homeReports = s.homeReports := rfl
@[simp] theorem pcountAdd_devCount (s : State) (p i n : Nat) : (pcountAdd s p i n).devCount = s.devCount := rfl
@[simp] theorem pcountAdd_sliceLists (s : State) (p i n : Nat) : (pcountAdd s p i n).sliceLists = s.sliceLists := rfl
@[simp] theorem pcountAdd_gov (s : State) (p i n : Nat) : (pcountAdd s p i n).gov = s.gov := rfl
@[simp] theorem pcountAdd_rcv (s : State) (p i n : Nat) : (pcountAdd s p i n).rcv = s.rcv := rfl
@[simp] theorem pcountAdd_ctl (s : State) (p i n : Nat) : (pcountAdd s p i n).ctl = s.ctl := rfl
@[simp] theorem pcountAdd_dev (s : State) (p i n : Nat) : (pcountAdd s p i n).dev = s.dev := rfl
@[simp] theorem pcountAdd_boot (s : State) (p i n : Nat) : (pcountAdd s p i n).boot = s.boot := rfl
@[simp] theorem pcountAdd_pins (s : State) (p i n : Nat) : (pcountAdd s p i n).pins = s.pins := rfl
@[simp] theorem pcountAdd_out (s : State) (p i n : Nat) : (pcountAdd s p i n).out = s.out := rfl

/-! ### updBundle -/
@[simp] theorem updBundle_pending (s : State) (l b : Nat) (f : Bundle → Bundle) : (updBundle s l b f).pending = s.pending := rfl
@[simp] theorem updBundle_fresh (s : State) (l b : Nat) (f : Bundle → Bundle) : (updBundle s l b f).fresh = s.fresh := rfl
@[simp] theorem updBundle_cycle (s : State) (l b : Nat) (f : Bundle → Bundle) : (updBundle s l b f).cycle = s.cycle := rfl
@[simp] theorem updBundle_us (s : State) (l b : Nat) (f : Bundle → Bundle) : (updBundle s l b f).us = s.us := rfl
@[simp] theorem updBundle_fs (s : State) (l b : Nat) (f : Bundle → Bundle) : (updBundle s l b f).fs = s.fs := rfl
@[simp] theorem updBundle_point (s : State) (l b : Nat) (f : Bundle → Bundle) : (updBundle s l b f).point = s.point := rfl
@[simp] theorem updBundle_tile0 (s : State) (l b : Nat) (f : Bundle → Bundle) : (updBundle s l b f).tile0 = s.tile0 := rfl
@[simp] theorem updBundle_tiles (s : State) (l b : Nat) (f : Bundle → Bundle) : (updBundle s l b f).tiles = s.tiles := rfl
@[simp] theorem updBundle_slice0 (s : State) (l b : Nat) (f : Bundle → Bundle) : (updBundle s l b f).slice0 = s.slice0 := rfl
@[simp] theorem updBundle_slices (s : State) (l b : Nat) (f : Bundle → Bundle) : (updBundle s l b f).slices = s.slices := rfl
@[simp] theorem updBundle_rings (s : State) (l b : Nat) (f : Bundle → Bundle) : (updBundle s l b f).rings = s.rings := rfl
@[simp] theorem updBundle_net (s : State) (l b : Nat) (f : Bundle → Bundle) : (updBundle s l b f).net = s.net := rfl
@[simp] theorem updBundle_wires (s : State) (l b : Nat) (f : Bundle → Bundle) : (updBundle s l b f).wires = s.wires := rfl
@[simp] theorem updBundle_esp (s : State) (l b : Nat) (f : Bundle → Bundle) : (updBundle s l b f).esp = s.esp := rfl
@[simp] theorem updBundle_xl (s : State) (l b : Nat) (f : Bundle → Bundle) : (updBundle s l b f).xl = s.xl := rfl
@[simp] theorem updBundle_stk (s : State) (l b : Nat) (f : Bundle → Bundle) : (updBundle s l b f).stk = s.stk := rfl
@[simp] theorem updBundle_dm (s : State) (l b : Nat) (f : Bundle → Bundle) : (updBundle s l b f).dm = s.dm := rfl
@[simp] theorem updBundle_seed (s : State) (l b : Nat) (f : Bundle → Bundle) : (updBundle s l b f).seed = s.seed := rfl
@[simp] theorem updBundle_coppice (s : State) (l b : Nat) (f : Bundle → Bundle) : (updBundle s l b f).coppice = s.coppice := rfl
@[simp] theorem updBundle_gt (s : State) (l b : Nat) (f : Bundle → Bundle) : (updBundle s l b f).gt = s.gt := rfl
@[simp] theorem updBundle_parts (s : State) (l b : Nat) (f : Bundle → Bundle) : (updBundle s l b f).parts = s.parts := rfl
@[simp] theorem updBundle_sessions (s : State) (l b : Nat) (f : Bundle → Bundle) : (updBundle s l b f).sessions = s.sessions := rfl
@[simp] theorem updBundle_homeReports (s : State) (l b : Nat) (f : Bundle → Bundle) : (updBundle s l b f).homeReports = s.homeReports := rfl
@[simp] theorem updBundle_pcount (s : State) (l b : Nat) (f : Bundle → Bundle) : (updBundle s l b f).pcount = s.pcount := rfl
@[simp] theorem updBundle_devCount (s : State) (l b : Nat) (f : Bundle → Bundle) : (updBundle s l b f).devCount = s.devCount := rfl
@[simp] theorem updBundle_sliceLists (s : State) (l b : Nat) (f : Bundle → Bundle) : (updBundle s l b f).sliceLists = s.sliceLists := rfl
@[simp] theorem updBundle_gov (s : State) (l b : Nat) (f : Bundle → Bundle) : (updBundle s l b f).gov = s.gov := rfl
@[simp] theorem updBundle_rcv (s : State) (l b : Nat) (f : Bundle → Bundle) : (updBundle s l b f).rcv = s.rcv := rfl
@[simp] theorem updBundle_ctl (s : State) (l b : Nat) (f : Bundle → Bundle) : (updBundle s l b f).ctl = s.ctl := rfl
@[simp] theorem updBundle_dev (s : State) (l b : Nat) (f : Bundle → Bundle) : (updBundle s l b f).dev = s.dev := rfl
@[simp] theorem updBundle_boot (s : State) (l b : Nat) (f : Bundle → Bundle) : (updBundle s l b f).boot = s.boot := rfl
@[simp] theorem updBundle_pins (s : State) (l b : Nat) (f : Bundle → Bundle) : (updBundle s l b f).pins = s.pins := rfl
@[simp] theorem updBundle_out (s : State) (l b : Nat) (f : Bundle → Bundle) : (updBundle s l b f).out = s.out := rfl

/-! ### updSeed -/
@[simp] theorem updSeed_pending (s : State) (f : Seed → Seed) : (updSeed s f).pending = s.pending := rfl
@[simp] theorem updSeed_fresh (s : State) (f : Seed → Seed) : (updSeed s f).fresh = s.fresh := rfl
@[simp] theorem updSeed_cycle (s : State) (f : Seed → Seed) : (updSeed s f).cycle = s.cycle := rfl
@[simp] theorem updSeed_us (s : State) (f : Seed → Seed) : (updSeed s f).us = s.us := rfl
@[simp] theorem updSeed_fs (s : State) (f : Seed → Seed) : (updSeed s f).fs = s.fs := rfl
@[simp] theorem updSeed_point (s : State) (f : Seed → Seed) : (updSeed s f).point = s.point := rfl
@[simp] theorem updSeed_tile0 (s : State) (f : Seed → Seed) : (updSeed s f).tile0 = s.tile0 := rfl
@[simp] theorem updSeed_tiles (s : State) (f : Seed → Seed) : (updSeed s f).tiles = s.tiles := rfl
@[simp] theorem updSeed_slice0 (s : State) (f : Seed → Seed) : (updSeed s f).slice0 = s.slice0 := rfl
@[simp] theorem updSeed_slices (s : State) (f : Seed → Seed) : (updSeed s f).slices = s.slices := rfl
@[simp] theorem updSeed_rings (s : State) (f : Seed → Seed) : (updSeed s f).rings = s.rings := rfl
@[simp] theorem updSeed_net (s : State) (f : Seed → Seed) : (updSeed s f).net = s.net := rfl
@[simp] theorem updSeed_wires (s : State) (f : Seed → Seed) : (updSeed s f).wires = s.wires := rfl
@[simp] theorem updSeed_esp (s : State) (f : Seed → Seed) : (updSeed s f).esp = s.esp := rfl
@[simp] theorem updSeed_xl (s : State) (f : Seed → Seed) : (updSeed s f).xl = s.xl := rfl
@[simp] theorem updSeed_stk (s : State) (f : Seed → Seed) : (updSeed s f).stk = s.stk := rfl
@[simp] theorem updSeed_dm (s : State) (f : Seed → Seed) : (updSeed s f).dm = s.dm := rfl
@[simp] theorem updSeed_graft (s : State) (f : Seed → Seed) : (updSeed s f).graft = s.graft := rfl
@[simp] theorem updSeed_coppice (s : State) (f : Seed → Seed) : (updSeed s f).coppice = s.coppice := rfl
@[simp] theorem updSeed_gt (s : State) (f : Seed → Seed) : (updSeed s f).gt = s.gt := rfl
@[simp] theorem updSeed_parts (s : State) (f : Seed → Seed) : (updSeed s f).parts = s.parts := rfl
@[simp] theorem updSeed_sessions (s : State) (f : Seed → Seed) : (updSeed s f).sessions = s.sessions := rfl
@[simp] theorem updSeed_homeReports (s : State) (f : Seed → Seed) : (updSeed s f).homeReports = s.homeReports := rfl
@[simp] theorem updSeed_pcount (s : State) (f : Seed → Seed) : (updSeed s f).pcount = s.pcount := rfl
@[simp] theorem updSeed_devCount (s : State) (f : Seed → Seed) : (updSeed s f).devCount = s.devCount := rfl
@[simp] theorem updSeed_sliceLists (s : State) (f : Seed → Seed) : (updSeed s f).sliceLists = s.sliceLists := rfl
@[simp] theorem updSeed_gov (s : State) (f : Seed → Seed) : (updSeed s f).gov = s.gov := rfl
@[simp] theorem updSeed_rcv (s : State) (f : Seed → Seed) : (updSeed s f).rcv = s.rcv := rfl
@[simp] theorem updSeed_ctl (s : State) (f : Seed → Seed) : (updSeed s f).ctl = s.ctl := rfl
@[simp] theorem updSeed_dev (s : State) (f : Seed → Seed) : (updSeed s f).dev = s.dev := rfl
@[simp] theorem updSeed_boot (s : State) (f : Seed → Seed) : (updSeed s f).boot = s.boot := rfl
@[simp] theorem updSeed_pins (s : State) (f : Seed → Seed) : (updSeed s f).pins = s.pins := rfl
@[simp] theorem updSeed_out (s : State) (f : Seed → Seed) : (updSeed s f).out = s.out := rfl

/-! ### updSess -/
@[simp] theorem updSess_pending (s : State) (i : Nat) (f : Session → Session) : (updSess s i f).pending = s.pending := rfl
@[simp] theorem updSess_fresh (s : State) (i : Nat) (f : Session → Session) : (updSess s i f).fresh = s.fresh := rfl
@[simp] theorem updSess_cycle (s : State) (i : Nat) (f : Session → Session) : (updSess s i f).cycle = s.cycle := rfl
@[simp] theorem updSess_us (s : State) (i : Nat) (f : Session → Session) : (updSess s i f).us = s.us := rfl
@[simp] theorem updSess_fs (s : State) (i : Nat) (f : Session → Session) : (updSess s i f).fs = s.fs := rfl
@[simp] theorem updSess_point (s : State) (i : Nat) (f : Session → Session) : (updSess s i f).point = s.point := rfl
@[simp] theorem updSess_tile0 (s : State) (i : Nat) (f : Session → Session) : (updSess s i f).tile0 = s.tile0 := rfl
@[simp] theorem updSess_tiles (s : State) (i : Nat) (f : Session → Session) : (updSess s i f).tiles = s.tiles := rfl
@[simp] theorem updSess_slice0 (s : State) (i : Nat) (f : Session → Session) : (updSess s i f).slice0 = s.slice0 := rfl
@[simp] theorem updSess_slices (s : State) (i : Nat) (f : Session → Session) : (updSess s i f).slices = s.slices := rfl
@[simp] theorem updSess_rings (s : State) (i : Nat) (f : Session → Session) : (updSess s i f).rings = s.rings := rfl
@[simp] theorem updSess_net (s : State) (i : Nat) (f : Session → Session) : (updSess s i f).net = s.net := rfl
@[simp] theorem updSess_wires (s : State) (i : Nat) (f : Session → Session) : (updSess s i f).wires = s.wires := rfl
@[simp] theorem updSess_esp (s : State) (i : Nat) (f : Session → Session) : (updSess s i f).esp = s.esp := rfl
@[simp] theorem updSess_xl (s : State) (i : Nat) (f : Session → Session) : (updSess s i f).xl = s.xl := rfl
@[simp] theorem updSess_stk (s : State) (i : Nat) (f : Session → Session) : (updSess s i f).stk = s.stk := rfl
@[simp] theorem updSess_dm (s : State) (i : Nat) (f : Session → Session) : (updSess s i f).dm = s.dm := rfl
@[simp] theorem updSess_seed (s : State) (i : Nat) (f : Session → Session) : (updSess s i f).seed = s.seed := rfl
@[simp] theorem updSess_graft (s : State) (i : Nat) (f : Session → Session) : (updSess s i f).graft = s.graft := rfl
@[simp] theorem updSess_coppice (s : State) (i : Nat) (f : Session → Session) : (updSess s i f).coppice = s.coppice := rfl
@[simp] theorem updSess_gt (s : State) (i : Nat) (f : Session → Session) : (updSess s i f).gt = s.gt := rfl
@[simp] theorem updSess_parts (s : State) (i : Nat) (f : Session → Session) : (updSess s i f).parts = s.parts := rfl
@[simp] theorem updSess_homeReports (s : State) (i : Nat) (f : Session → Session) : (updSess s i f).homeReports = s.homeReports := rfl
@[simp] theorem updSess_pcount (s : State) (i : Nat) (f : Session → Session) : (updSess s i f).pcount = s.pcount := rfl
@[simp] theorem updSess_devCount (s : State) (i : Nat) (f : Session → Session) : (updSess s i f).devCount = s.devCount := rfl
@[simp] theorem updSess_sliceLists (s : State) (i : Nat) (f : Session → Session) : (updSess s i f).sliceLists = s.sliceLists := rfl
@[simp] theorem updSess_gov (s : State) (i : Nat) (f : Session → Session) : (updSess s i f).gov = s.gov := rfl
@[simp] theorem updSess_rcv (s : State) (i : Nat) (f : Session → Session) : (updSess s i f).rcv = s.rcv := rfl
@[simp] theorem updSess_ctl (s : State) (i : Nat) (f : Session → Session) : (updSess s i f).ctl = s.ctl := rfl
@[simp] theorem updSess_dev (s : State) (i : Nat) (f : Session → Session) : (updSess s i f).dev = s.dev := rfl
@[simp] theorem updSess_boot (s : State) (i : Nat) (f : Session → Session) : (updSess s i f).boot = s.boot := rfl
@[simp] theorem updSess_pins (s : State) (i : Nat) (f : Session → Session) : (updSess s i f).pins = s.pins := rfl
@[simp] theorem updSess_out (s : State) (i : Nat) (f : Session → Session) : (updSess s i f).out = s.out := rfl

/-! ### emit -/
@[simp] theorem emit_pending (s : State) (o : Output) : (emit s o).pending = s.pending := rfl
@[simp] theorem emit_fresh (s : State) (o : Output) : (emit s o).fresh = s.fresh := rfl
@[simp] theorem emit_cycle (s : State) (o : Output) : (emit s o).cycle = s.cycle := rfl
@[simp] theorem emit_us (s : State) (o : Output) : (emit s o).us = s.us := rfl
@[simp] theorem emit_fs (s : State) (o : Output) : (emit s o).fs = s.fs := rfl
@[simp] theorem emit_point (s : State) (o : Output) : (emit s o).point = s.point := rfl
@[simp] theorem emit_tile0 (s : State) (o : Output) : (emit s o).tile0 = s.tile0 := rfl
@[simp] theorem emit_tiles (s : State) (o : Output) : (emit s o).tiles = s.tiles := rfl
@[simp] theorem emit_slice0 (s : State) (o : Output) : (emit s o).slice0 = s.slice0 := rfl
@[simp] theorem emit_slices (s : State) (o : Output) : (emit s o).slices = s.slices := rfl
@[simp] theorem emit_rings (s : State) (o : Output) : (emit s o).rings = s.rings := rfl
@[simp] theorem emit_net (s : State) (o : Output) : (emit s o).net = s.net := rfl
@[simp] theorem emit_wires (s : State) (o : Output) : (emit s o).wires = s.wires := rfl
@[simp] theorem emit_esp (s : State) (o : Output) : (emit s o).esp = s.esp := rfl
@[simp] theorem emit_xl (s : State) (o : Output) : (emit s o).xl = s.xl := rfl
@[simp] theorem emit_stk (s : State) (o : Output) : (emit s o).stk = s.stk := rfl
@[simp] theorem emit_dm (s : State) (o : Output) : (emit s o).dm = s.dm := rfl
@[simp] theorem emit_seed (s : State) (o : Output) : (emit s o).seed = s.seed := rfl
@[simp] theorem emit_graft (s : State) (o : Output) : (emit s o).graft = s.graft := rfl
@[simp] theorem emit_coppice (s : State) (o : Output) : (emit s o).coppice = s.coppice := rfl
@[simp] theorem emit_gt (s : State) (o : Output) : (emit s o).gt = s.gt := rfl
@[simp] theorem emit_parts (s : State) (o : Output) : (emit s o).parts = s.parts := rfl
@[simp] theorem emit_sessions (s : State) (o : Output) : (emit s o).sessions = s.sessions := rfl
@[simp] theorem emit_homeReports (s : State) (o : Output) : (emit s o).homeReports = s.homeReports := rfl
@[simp] theorem emit_pcount (s : State) (o : Output) : (emit s o).pcount = s.pcount := rfl
@[simp] theorem emit_devCount (s : State) (o : Output) : (emit s o).devCount = s.devCount := rfl
@[simp] theorem emit_sliceLists (s : State) (o : Output) : (emit s o).sliceLists = s.sliceLists := rfl
@[simp] theorem emit_gov (s : State) (o : Output) : (emit s o).gov = s.gov := rfl
@[simp] theorem emit_rcv (s : State) (o : Output) : (emit s o).rcv = s.rcv := rfl
@[simp] theorem emit_ctl (s : State) (o : Output) : (emit s o).ctl = s.ctl := rfl
@[simp] theorem emit_dev (s : State) (o : Output) : (emit s o).dev = s.dev := rfl
@[simp] theorem emit_boot (s : State) (o : Output) : (emit s o).boot = s.boot := rfl
@[simp] theorem emit_pins (s : State) (o : Output) : (emit s o).pins = s.pins := rfl

/-! ### updNo -/
@[simp] theorem updNo_pending (s : State) (n : Nat) (f : Port → Port) : (updNo s n f).pending = s.pending := rfl
@[simp] theorem updNo_fresh (s : State) (n : Nat) (f : Port → Port) : (updNo s n f).fresh = s.fresh := rfl
@[simp] theorem updNo_cycle (s : State) (n : Nat) (f : Port → Port) : (updNo s n f).cycle = s.cycle := rfl
@[simp] theorem updNo_us (s : State) (n : Nat) (f : Port → Port) : (updNo s n f).us = s.us := rfl
@[simp] theorem updNo_fs (s : State) (n : Nat) (f : Port → Port) : (updNo s n f).fs = s.fs := rfl
@[simp] theorem updNo_point (s : State) (n : Nat) (f : Port → Port) : (updNo s n f).point = s.point := rfl
@[simp] theorem updNo_tile0 (s : State) (n : Nat) (f : Port → Port) : (updNo s n f).tile0 = s.tile0 := rfl
@[simp] theorem updNo_tiles (s : State) (n : Nat) (f : Port → Port) : (updNo s n f).tiles = s.tiles := rfl
@[simp] theorem updNo_slice0 (s : State) (n : Nat) (f : Port → Port) : (updNo s n f).slice0 = s.slice0 := rfl
@[simp] theorem updNo_slices (s : State) (n : Nat) (f : Port → Port) : (updNo s n f).slices = s.slices := rfl
@[simp] theorem updNo_rings (s : State) (n : Nat) (f : Port → Port) : (updNo s n f).rings = s.rings := rfl
@[simp] theorem updNo_net (s : State) (n : Nat) (f : Port → Port) : (updNo s n f).net = s.net := rfl
@[simp] theorem updNo_wires (s : State) (n : Nat) (f : Port → Port) : (updNo s n f).wires = s.wires := rfl
@[simp] theorem updNo_esp (s : State) (n : Nat) (f : Port → Port) : (updNo s n f).esp = s.esp := rfl
@[simp] theorem updNo_xl (s : State) (n : Nat) (f : Port → Port) : (updNo s n f).xl = s.xl := rfl
@[simp] theorem updNo_stk (s : State) (n : Nat) (f : Port → Port) : (updNo s n f).stk = s.stk := rfl
@[simp] theorem updNo_dm (s : State) (n : Nat) (f : Port → Port) : (updNo s n f).dm = s.dm := rfl
@[simp] theorem updNo_seed (s : State) (n : Nat) (f : Port → Port) : (updNo s n f).seed = s.seed := rfl
@[simp] theorem updNo_graft (s : State) (n : Nat) (f : Port → Port) : (updNo s n f).graft = s.graft := rfl
@[simp] theorem updNo_gt (s : State) (n : Nat) (f : Port → Port) : (updNo s n f).gt = s.gt := rfl
@[simp] theorem updNo_parts (s : State) (n : Nat) (f : Port → Port) : (updNo s n f).parts = s.parts := rfl
@[simp] theorem updNo_sessions (s : State) (n : Nat) (f : Port → Port) : (updNo s n f).sessions = s.sessions := rfl
@[simp] theorem updNo_homeReports (s : State) (n : Nat) (f : Port → Port) : (updNo s n f).homeReports = s.homeReports := rfl
@[simp] theorem updNo_pcount (s : State) (n : Nat) (f : Port → Port) : (updNo s n f).pcount = s.pcount := rfl
@[simp] theorem updNo_devCount (s : State) (n : Nat) (f : Port → Port) : (updNo s n f).devCount = s.devCount := rfl
@[simp] theorem updNo_sliceLists (s : State) (n : Nat) (f : Port → Port) : (updNo s n f).sliceLists = s.sliceLists := rfl
@[simp] theorem updNo_gov (s : State) (n : Nat) (f : Port → Port) : (updNo s n f).gov = s.gov := rfl
@[simp] theorem updNo_rcv (s : State) (n : Nat) (f : Port → Port) : (updNo s n f).rcv = s.rcv := rfl
@[simp] theorem updNo_ctl (s : State) (n : Nat) (f : Port → Port) : (updNo s n f).ctl = s.ctl := rfl
@[simp] theorem updNo_dev (s : State) (n : Nat) (f : Port → Port) : (updNo s n f).dev = s.dev := rfl
@[simp] theorem updNo_boot (s : State) (n : Nat) (f : Port → Port) : (updNo s n f).boot = s.boot := rfl
@[simp] theorem updNo_pins (s : State) (n : Nat) (f : Port → Port) : (updNo s n f).pins = s.pins := rfl
@[simp] theorem updNo_out (s : State) (n : Nat) (f : Port → Port) : (updNo s n f).out = s.out := rfl

/-! ### updGov -/
@[simp] theorem updGov_pending (s : State) (f : Gov → Gov) : (updGov s f).pending = s.pending := rfl
@[simp] theorem updGov_fresh (s : State) (f : Gov → Gov) : (updGov s f).fresh = s.fresh := rfl
@[simp] theorem updGov_cycle (s : State) (f : Gov → Gov) : (updGov s f).cycle = s.cycle := rfl
@[simp] theorem updGov_us (s : State) (f : Gov → Gov) : (updGov s f).us = s.us := rfl
@[simp] theorem updGov_fs (s : State) (f : Gov → Gov) : (updGov s f).fs = s.fs := rfl
@[simp] theorem updGov_point (s : State) (f : Gov → Gov) : (updGov s f).point = s.point := rfl
@[simp] theorem updGov_tile0 (s : State) (f : Gov → Gov) : (updGov s f).tile0 = s.tile0 := rfl
@[simp] theorem updGov_tiles (s : State) (f : Gov → Gov) : (updGov s f).tiles = s.tiles := rfl
@[simp] theorem updGov_slice0 (s : State) (f : Gov → Gov) : (updGov s f).slice0 = s.slice0 := rfl
@[simp] theorem updGov_slices (s : State) (f : Gov → Gov) : (updGov s f).slices = s.slices := rfl
@[simp] theorem updGov_rings (s : State) (f : Gov → Gov) : (updGov s f).rings = s.rings := rfl
@[simp] theorem updGov_net (s : State) (f : Gov → Gov) : (updGov s f).net = s.net := rfl
@[simp] theorem updGov_wires (s : State) (f : Gov → Gov) : (updGov s f).wires = s.wires := rfl
@[simp] theorem updGov_esp (s : State) (f : Gov → Gov) : (updGov s f).esp = s.esp := rfl
@[simp] theorem updGov_xl (s : State) (f : Gov → Gov) : (updGov s f).xl = s.xl := rfl
@[simp] theorem updGov_stk (s : State) (f : Gov → Gov) : (updGov s f).stk = s.stk := rfl
@[simp] theorem updGov_dm (s : State) (f : Gov → Gov) : (updGov s f).dm = s.dm := rfl
@[simp] theorem updGov_seed (s : State) (f : Gov → Gov) : (updGov s f).seed = s.seed := rfl
@[simp] theorem updGov_graft (s : State) (f : Gov → Gov) : (updGov s f).graft = s.graft := rfl
@[simp] theorem updGov_coppice (s : State) (f : Gov → Gov) : (updGov s f).coppice = s.coppice := rfl
@[simp] theorem updGov_gt (s : State) (f : Gov → Gov) : (updGov s f).gt = s.gt := rfl
@[simp] theorem updGov_parts (s : State) (f : Gov → Gov) : (updGov s f).parts = s.parts := rfl
@[simp] theorem updGov_sessions (s : State) (f : Gov → Gov) : (updGov s f).sessions = s.sessions := rfl
@[simp] theorem updGov_homeReports (s : State) (f : Gov → Gov) : (updGov s f).homeReports = s.homeReports := rfl
@[simp] theorem updGov_pcount (s : State) (f : Gov → Gov) : (updGov s f).pcount = s.pcount := rfl
@[simp] theorem updGov_devCount (s : State) (f : Gov → Gov) : (updGov s f).devCount = s.devCount := rfl
@[simp] theorem updGov_sliceLists (s : State) (f : Gov → Gov) : (updGov s f).sliceLists = s.sliceLists := rfl
@[simp] theorem updGov_rcv (s : State) (f : Gov → Gov) : (updGov s f).rcv = s.rcv := rfl
@[simp] theorem updGov_ctl (s : State) (f : Gov → Gov) : (updGov s f).ctl = s.ctl := rfl
@[simp] theorem updGov_dev (s : State) (f : Gov → Gov) : (updGov s f).dev = s.dev := rfl
@[simp] theorem updGov_boot (s : State) (f : Gov → Gov) : (updGov s f).boot = s.boot := rfl
@[simp] theorem updGov_pins (s : State) (f : Gov → Gov) : (updGov s f).pins = s.pins := rfl
@[simp] theorem updGov_out (s : State) (f : Gov → Gov) : (updGov s f).out = s.out := rfl

/-! ### updBoot -/
@[simp] theorem updBoot_pending (s : State) (f : Boot → Boot) : (updBoot s f).pending = s.pending := rfl
@[simp] theorem updBoot_fresh (s : State) (f : Boot → Boot) : (updBoot s f).fresh = s.fresh := rfl
@[simp] theorem updBoot_cycle (s : State) (f : Boot → Boot) : (updBoot s f).cycle = s.cycle := rfl
@[simp] theorem updBoot_us (s : State) (f : Boot → Boot) : (updBoot s f).us = s.us := rfl
@[simp] theorem updBoot_fs (s : State) (f : Boot → Boot) : (updBoot s f).fs = s.fs := rfl
@[simp] theorem updBoot_point (s : State) (f : Boot → Boot) : (updBoot s f).point = s.point := rfl
@[simp] theorem updBoot_tile0 (s : State) (f : Boot → Boot) : (updBoot s f).tile0 = s.tile0 := rfl
@[simp] theorem updBoot_tiles (s : State) (f : Boot → Boot) : (updBoot s f).tiles = s.tiles := rfl
@[simp] theorem updBoot_slice0 (s : State) (f : Boot → Boot) : (updBoot s f).slice0 = s.slice0 := rfl
@[simp] theorem updBoot_slices (s : State) (f : Boot → Boot) : (updBoot s f).slices = s.slices := rfl
@[simp] theorem updBoot_rings (s : State) (f : Boot → Boot) : (updBoot s f).rings = s.rings := rfl
@[simp] theorem updBoot_net (s : State) (f : Boot → Boot) : (updBoot s f).net = s.net := rfl
@[simp] theorem updBoot_wires (s : State) (f : Boot → Boot) : (updBoot s f).wires = s.wires := rfl
@[simp] theorem updBoot_esp (s : State) (f : Boot → Boot) : (updBoot s f).esp = s.esp := rfl
@[simp] theorem updBoot_xl (s : State) (f : Boot → Boot) : (updBoot s f).xl = s.xl := rfl
@[simp] theorem updBoot_stk (s : State) (f : Boot → Boot) : (updBoot s f).stk = s.stk := rfl
@[simp] theorem updBoot_dm (s : State) (f : Boot → Boot) : (updBoot s f).dm = s.dm := rfl
@[simp] theorem updBoot_seed (s : State) (f : Boot → Boot) : (updBoot s f).seed = s.seed := rfl
@[simp] theorem updBoot_graft (s : State) (f : Boot → Boot) : (updBoot s f).graft = s.graft := rfl
@[simp] theorem updBoot_coppice (s : State) (f : Boot → Boot) : (updBoot s f).coppice = s.coppice := rfl
@[simp] theorem updBoot_gt (s : State) (f : Boot → Boot) : (updBoot s f).gt = s.gt := rfl
@[simp] theorem updBoot_parts (s : State) (f : Boot → Boot) : (updBoot s f).parts = s.parts := rfl
@[simp] theorem updBoot_sessions (s : State) (f : Boot → Boot) : (updBoot s f).sessions = s.sessions := rfl
@[simp] theorem updBoot_homeReports (s : State) (f : Boot → Boot) : (updBoot s f).homeReports = s.homeReports := rfl
@[simp] theorem updBoot_pcount (s : State) (f : Boot → Boot) : (updBoot s f).pcount = s.pcount := rfl
@[simp] theorem updBoot_devCount (s : State) (f : Boot → Boot) : (updBoot s f).devCount = s.devCount := rfl
@[simp] theorem updBoot_sliceLists (s : State) (f : Boot → Boot) : (updBoot s f).sliceLists = s.sliceLists := rfl
@[simp] theorem updBoot_gov (s : State) (f : Boot → Boot) : (updBoot s f).gov = s.gov := rfl
@[simp] theorem updBoot_rcv (s : State) (f : Boot → Boot) : (updBoot s f).rcv = s.rcv := rfl
@[simp] theorem updBoot_ctl (s : State) (f : Boot → Boot) : (updBoot s f).ctl = s.ctl := rfl
@[simp] theorem updBoot_dev (s : State) (f : Boot → Boot) : (updBoot s f).dev = s.dev := rfl
@[simp] theorem updBoot_pins (s : State) (f : Boot → Boot) : (updBoot s f).pins = s.pins := rfl
@[simp] theorem updBoot_out (s : State) (f : Boot → Boot) : (updBoot s f).out = s.out := rfl

/-! ### updClient -/
@[simp] theorem updClient_pending (s : State) (r : Nat) (f : Client → Client) : (updClient s r f).pending = s.pending := rfl
@[simp] theorem updClient_fresh (s : State) (r : Nat) (f : Client → Client) : (updClient s r f).fresh = s.fresh := rfl
@[simp] theorem updClient_cycle (s : State) (r : Nat) (f : Client → Client) : (updClient s r f).cycle = s.cycle := rfl
@[simp] theorem updClient_us (s : State) (r : Nat) (f : Client → Client) : (updClient s r f).us = s.us := rfl
@[simp] theorem updClient_fs (s : State) (r : Nat) (f : Client → Client) : (updClient s r f).fs = s.fs := rfl
@[simp] theorem updClient_point (s : State) (r : Nat) (f : Client → Client) : (updClient s r f).point = s.point := rfl
@[simp] theorem updClient_tile0 (s : State) (r : Nat) (f : Client → Client) : (updClient s r f).tile0 = s.tile0 := rfl
@[simp] theorem updClient_tiles (s : State) (r : Nat) (f : Client → Client) : (updClient s r f).tiles = s.tiles := rfl
@[simp] theorem updClient_slice0 (s : State) (r : Nat) (f : Client → Client) : (updClient s r f).slice0 = s.slice0 := rfl
@[simp] theorem updClient_slices (s : State) (r : Nat) (f : Client → Client) : (updClient s r f).slices = s.slices := rfl
@[simp] theorem updClient_rings (s : State) (r : Nat) (f : Client → Client) : (updClient s r f).rings = s.rings := rfl
@[simp] theorem updClient_net (s : State) (r : Nat) (f : Client → Client) : (updClient s r f).net = s.net := rfl
@[simp] theorem updClient_wires (s : State) (r : Nat) (f : Client → Client) : (updClient s r f).wires = s.wires := rfl
@[simp] theorem updClient_esp (s : State) (r : Nat) (f : Client → Client) : (updClient s r f).esp = s.esp := rfl
@[simp] theorem updClient_xl (s : State) (r : Nat) (f : Client → Client) : (updClient s r f).xl = s.xl := rfl
@[simp] theorem updClient_stk (s : State) (r : Nat) (f : Client → Client) : (updClient s r f).stk = s.stk := rfl
@[simp] theorem updClient_dm (s : State) (r : Nat) (f : Client → Client) : (updClient s r f).dm = s.dm := rfl
@[simp] theorem updClient_seed (s : State) (r : Nat) (f : Client → Client) : (updClient s r f).seed = s.seed := rfl
@[simp] theorem updClient_graft (s : State) (r : Nat) (f : Client → Client) : (updClient s r f).graft = s.graft := rfl
@[simp] theorem updClient_coppice (s : State) (r : Nat) (f : Client → Client) : (updClient s r f).coppice = s.coppice := rfl
@[simp] theorem updClient_gt (s : State) (r : Nat) (f : Client → Client) : (updClient s r f).gt = s.gt := rfl
@[simp] theorem updClient_parts (s : State) (r : Nat) (f : Client → Client) : (updClient s r f).parts = s.parts := rfl
@[simp] theorem updClient_sessions (s : State) (r : Nat) (f : Client → Client) : (updClient s r f).sessions = s.sessions := rfl
@[simp] theorem updClient_homeReports (s : State) (r : Nat) (f : Client → Client) : (updClient s r f).homeReports = s.homeReports := rfl
@[simp] theorem updClient_pcount (s : State) (r : Nat) (f : Client → Client) : (updClient s r f).pcount = s.pcount := rfl
@[simp] theorem updClient_devCount (s : State) (r : Nat) (f : Client → Client) : (updClient s r f).devCount = s.devCount := rfl
@[simp] theorem updClient_sliceLists (s : State) (r : Nat) (f : Client → Client) : (updClient s r f).sliceLists = s.sliceLists := rfl
@[simp] theorem updClient_gov (s : State) (r : Nat) (f : Client → Client) : (updClient s r f).gov = s.gov := rfl
@[simp] theorem updClient_rcv (s : State) (r : Nat) (f : Client → Client) : (updClient s r f).rcv = s.rcv := rfl
@[simp] theorem updClient_dev (s : State) (r : Nat) (f : Client → Client) : (updClient s r f).dev = s.dev := rfl
@[simp] theorem updClient_boot (s : State) (r : Nat) (f : Client → Client) : (updClient s r f).boot = s.boot := rfl
@[simp] theorem updClient_pins (s : State) (r : Nat) (f : Client → Client) : (updClient s r f).pins = s.pins := rfl
@[simp] theorem updClient_out (s : State) (r : Nat) (f : Client → Client) : (updClient s r f).out = s.out := rfl

/-! ### updMbx -/
@[simp] theorem updMbx_pending (s : State) (m : Nat) (f : Mbx → Mbx) : (updMbx s m f).pending = s.pending := rfl
@[simp] theorem updMbx_fresh (s : State) (m : Nat) (f : Mbx → Mbx) : (updMbx s m f).fresh = s.fresh := rfl
@[simp] theorem updMbx_cycle (s : State) (m : Nat) (f : Mbx → Mbx) : (updMbx s m f).cycle = s.cycle := rfl
@[simp] theorem updMbx_us (s : State) (m : Nat) (f : Mbx → Mbx) : (updMbx s m f).us = s.us := rfl
@[simp] theorem updMbx_fs (s : State) (m : Nat) (f : Mbx → Mbx) : (updMbx s m f).fs = s.fs := rfl
@[simp] theorem updMbx_point (s : State) (m : Nat) (f : Mbx → Mbx) : (updMbx s m f).point = s.point := rfl
@[simp] theorem updMbx_tile0 (s : State) (m : Nat) (f : Mbx → Mbx) : (updMbx s m f).tile0 = s.tile0 := rfl
@[simp] theorem updMbx_tiles (s : State) (m : Nat) (f : Mbx → Mbx) : (updMbx s m f).tiles = s.tiles := rfl
@[simp] theorem updMbx_slice0 (s : State) (m : Nat) (f : Mbx → Mbx) : (updMbx s m f).slice0 = s.slice0 := rfl
@[simp] theorem updMbx_slices (s : State) (m : Nat) (f : Mbx → Mbx) : (updMbx s m f).slices = s.slices := rfl
@[simp] theorem updMbx_rings (s : State) (m : Nat) (f : Mbx → Mbx) : (updMbx s m f).rings = s.rings := rfl
@[simp] theorem updMbx_net (s : State) (m : Nat) (f : Mbx → Mbx) : (updMbx s m f).net = s.net := rfl
@[simp] theorem updMbx_wires (s : State) (m : Nat) (f : Mbx → Mbx) : (updMbx s m f).wires = s.wires := rfl
@[simp] theorem updMbx_esp (s : State) (m : Nat) (f : Mbx → Mbx) : (updMbx s m f).esp = s.esp := rfl
@[simp] theorem updMbx_xl (s : State) (m : Nat) (f : Mbx → Mbx) : (updMbx s m f).xl = s.xl := rfl
@[simp] theorem updMbx_stk (s : State) (m : Nat) (f : Mbx → Mbx) : (updMbx s m f).stk = s.stk := rfl
@[simp] theorem updMbx_dm (s : State) (m : Nat) (f : Mbx → Mbx) : (updMbx s m f).dm = s.dm := rfl
@[simp] theorem updMbx_seed (s : State) (m : Nat) (f : Mbx → Mbx) : (updMbx s m f).seed = s.seed := rfl
@[simp] theorem updMbx_graft (s : State) (m : Nat) (f : Mbx → Mbx) : (updMbx s m f).graft = s.graft := rfl
@[simp] theorem updMbx_coppice (s : State) (m : Nat) (f : Mbx → Mbx) : (updMbx s m f).coppice = s.coppice := rfl
@[simp] theorem updMbx_gt (s : State) (m : Nat) (f : Mbx → Mbx) : (updMbx s m f).gt = s.gt := rfl
@[simp] theorem updMbx_parts (s : State) (m : Nat) (f : Mbx → Mbx) : (updMbx s m f).parts = s.parts := rfl
@[simp] theorem updMbx_sessions (s : State) (m : Nat) (f : Mbx → Mbx) : (updMbx s m f).sessions = s.sessions := rfl
@[simp] theorem updMbx_homeReports (s : State) (m : Nat) (f : Mbx → Mbx) : (updMbx s m f).homeReports = s.homeReports := rfl
@[simp] theorem updMbx_pcount (s : State) (m : Nat) (f : Mbx → Mbx) : (updMbx s m f).pcount = s.pcount := rfl
@[simp] theorem updMbx_devCount (s : State) (m : Nat) (f : Mbx → Mbx) : (updMbx s m f).devCount = s.devCount := rfl
@[simp] theorem updMbx_sliceLists (s : State) (m : Nat) (f : Mbx → Mbx) : (updMbx s m f).sliceLists = s.sliceLists := rfl
@[simp] theorem updMbx_gov (s : State) (m : Nat) (f : Mbx → Mbx) : (updMbx s m f).gov = s.gov := rfl
@[simp] theorem updMbx_rcv (s : State) (m : Nat) (f : Mbx → Mbx) : (updMbx s m f).rcv = s.rcv := rfl
@[simp] theorem updMbx_dev (s : State) (m : Nat) (f : Mbx → Mbx) : (updMbx s m f).dev = s.dev := rfl
@[simp] theorem updMbx_boot (s : State) (m : Nat) (f : Mbx → Mbx) : (updMbx s m f).boot = s.boot := rfl
@[simp] theorem updMbx_pins (s : State) (m : Nat) (f : Mbx → Mbx) : (updMbx s m f).pins = s.pins := rfl
@[simp] theorem updMbx_out (s : State) (m : Nat) (f : Mbx → Mbx) : (updMbx s m f).out = s.out := rfl

/-! ### updPins -/
@[simp] theorem updPins_pending (s : State) (f : Pins → Pins) : (updPins s f).pending = s.pending := rfl
@[simp] theorem updPins_fresh (s : State) (f : Pins → Pins) : (updPins s f).fresh = s.fresh := rfl
@[simp] theorem updPins_cycle (s : State) (f : Pins → Pins) : (updPins s f).cycle = s.cycle := rfl
@[simp] theorem updPins_us (s : State) (f : Pins → Pins) : (updPins s f).us = s.us := rfl
@[simp] theorem updPins_fs (s : State) (f : Pins → Pins) : (updPins s f).fs = s.fs := rfl
@[simp] theorem updPins_point (s : State) (f : Pins → Pins) : (updPins s f).point = s.point := rfl
@[simp] theorem updPins_tile0 (s : State) (f : Pins → Pins) : (updPins s f).tile0 = s.tile0 := rfl
@[simp] theorem updPins_tiles (s : State) (f : Pins → Pins) : (updPins s f).tiles = s.tiles := rfl
@[simp] theorem updPins_slice0 (s : State) (f : Pins → Pins) : (updPins s f).slice0 = s.slice0 := rfl
@[simp] theorem updPins_slices (s : State) (f : Pins → Pins) : (updPins s f).slices = s.slices := rfl
@[simp] theorem updPins_rings (s : State) (f : Pins → Pins) : (updPins s f).rings = s.rings := rfl
@[simp] theorem updPins_net (s : State) (f : Pins → Pins) : (updPins s f).net = s.net := rfl
@[simp] theorem updPins_wires (s : State) (f : Pins → Pins) : (updPins s f).wires = s.wires := rfl
@[simp] theorem updPins_esp (s : State) (f : Pins → Pins) : (updPins s f).esp = s.esp := rfl
@[simp] theorem updPins_xl (s : State) (f : Pins → Pins) : (updPins s f).xl = s.xl := rfl
@[simp] theorem updPins_stk (s : State) (f : Pins → Pins) : (updPins s f).stk = s.stk := rfl
@[simp] theorem updPins_dm (s : State) (f : Pins → Pins) : (updPins s f).dm = s.dm := rfl
@[simp] theorem updPins_seed (s : State) (f : Pins → Pins) : (updPins s f).seed = s.seed := rfl
@[simp] theorem updPins_graft (s : State) (f : Pins → Pins) : (updPins s f).graft = s.graft := rfl
@[simp] theorem updPins_coppice (s : State) (f : Pins → Pins) : (updPins s f).coppice = s.coppice := rfl
@[simp] theorem updPins_gt (s : State) (f : Pins → Pins) : (updPins s f).gt = s.gt := rfl
@[simp] theorem updPins_parts (s : State) (f : Pins → Pins) : (updPins s f).parts = s.parts := rfl
@[simp] theorem updPins_sessions (s : State) (f : Pins → Pins) : (updPins s f).sessions = s.sessions := rfl
@[simp] theorem updPins_homeReports (s : State) (f : Pins → Pins) : (updPins s f).homeReports = s.homeReports := rfl
@[simp] theorem updPins_pcount (s : State) (f : Pins → Pins) : (updPins s f).pcount = s.pcount := rfl
@[simp] theorem updPins_devCount (s : State) (f : Pins → Pins) : (updPins s f).devCount = s.devCount := rfl
@[simp] theorem updPins_sliceLists (s : State) (f : Pins → Pins) : (updPins s f).sliceLists = s.sliceLists := rfl
@[simp] theorem updPins_gov (s : State) (f : Pins → Pins) : (updPins s f).gov = s.gov := rfl
@[simp] theorem updPins_rcv (s : State) (f : Pins → Pins) : (updPins s f).rcv = s.rcv := rfl
@[simp] theorem updPins_ctl (s : State) (f : Pins → Pins) : (updPins s f).ctl = s.ctl := rfl
@[simp] theorem updPins_dev (s : State) (f : Pins → Pins) : (updPins s f).dev = s.dev := rfl
@[simp] theorem updPins_boot (s : State) (f : Pins → Pins) : (updPins s f).boot = s.boot := rfl
@[simp] theorem updPins_out (s : State) (f : Pins → Pins) : (updPins s f).out = s.out := rfl

/-! ### sealChanged -/
@[simp] theorem sealChanged_pending (s : State) : (sealChanged s).pending = s.pending := rfl
@[simp] theorem sealChanged_fresh (s : State) : (sealChanged s).fresh = s.fresh := rfl
@[simp] theorem sealChanged_cycle (s : State) : (sealChanged s).cycle = s.cycle := rfl
@[simp] theorem sealChanged_us (s : State) : (sealChanged s).us = s.us := rfl
@[simp] theorem sealChanged_fs (s : State) : (sealChanged s).fs = s.fs := rfl
@[simp] theorem sealChanged_point (s : State) : (sealChanged s).point = s.point := rfl
@[simp] theorem sealChanged_tile0 (s : State) : (sealChanged s).tile0 = s.tile0 := rfl
@[simp] theorem sealChanged_tiles (s : State) : (sealChanged s).tiles = s.tiles := rfl
@[simp] theorem sealChanged_slice0 (s : State) : (sealChanged s).slice0 = s.slice0 := rfl
@[simp] theorem sealChanged_slices (s : State) : (sealChanged s).slices = s.slices := rfl
@[simp] theorem sealChanged_rings (s : State) : (sealChanged s).rings = s.rings := rfl
@[simp] theorem sealChanged_net (s : State) : (sealChanged s).net = s.net := rfl
@[simp] theorem sealChanged_wires (s : State) : (sealChanged s).wires = s.wires := rfl
@[simp] theorem sealChanged_esp (s : State) : (sealChanged s).esp = s.esp := rfl
@[simp] theorem sealChanged_xl (s : State) : (sealChanged s).xl = s.xl := rfl
@[simp] theorem sealChanged_stk (s : State) : (sealChanged s).stk = s.stk := rfl
@[simp] theorem sealChanged_dm (s : State) : (sealChanged s).dm = s.dm := rfl
@[simp] theorem sealChanged_seed (s : State) : (sealChanged s).seed = s.seed := rfl
@[simp] theorem sealChanged_graft (s : State) : (sealChanged s).graft = s.graft := rfl
@[simp] theorem sealChanged_coppice (s : State) : (sealChanged s).coppice = s.coppice := rfl
@[simp] theorem sealChanged_gt (s : State) : (sealChanged s).gt = s.gt := rfl
@[simp] theorem sealChanged_parts (s : State) : (sealChanged s).parts = s.parts := rfl
@[simp] theorem sealChanged_sessions (s : State) : (sealChanged s).sessions = s.sessions := rfl
@[simp] theorem sealChanged_homeReports (s : State) : (sealChanged s).homeReports = s.homeReports := rfl
@[simp] theorem sealChanged_pcount (s : State) : (sealChanged s).pcount = s.pcount := rfl
@[simp] theorem sealChanged_devCount (s : State) : (sealChanged s).devCount = s.devCount := rfl
@[simp] theorem sealChanged_sliceLists (s : State) : (sealChanged s).sliceLists = s.sliceLists := rfl
@[simp] theorem sealChanged_gov (s : State) : (sealChanged s).gov = s.gov := rfl
@[simp] theorem sealChanged_rcv (s : State) : (sealChanged s).rcv = s.rcv := rfl
@[simp] theorem sealChanged_ctl (s : State) : (sealChanged s).ctl = s.ctl := rfl
@[simp] theorem sealChanged_boot (s : State) : (sealChanged s).boot = s.boot := rfl
@[simp] theorem sealChanged_pins (s : State) : (sealChanged s).pins = s.pins := rfl
@[simp] theorem sealChanged_out (s : State) : (sealChanged s).out = s.out := rfl

/-! ### Tables after their updates -/

@[simp] theorem tileAt_setTile (s : State) (t : Nat) (x : Tile) : tileAt (setTile s t x) t = x := fmGet_fmSet_same ..
theorem tileAt_setTile_ne (s : State) {t j : Nat} (x : Tile) (h : j ≠ t) : tileAt (setTile s t x) j = tileAt s j :=
  fmGet_fmSet_ne _ _ _ h
@[simp] theorem tileAt_updTile (s : State) (t : Nat) (f : Tile → Tile) : tileAt (updTile s t f) t = f (tileAt s t) :=
  fmGet_fmSet_same ..
theorem tileAt_updTile_ne (s : State) {t j : Nat} (f : Tile → Tile) (h : j ≠ t) : tileAt (updTile s t f) j = tileAt s j :=
  fmGet_fmSet_ne _ _ _ h
@[simp] theorem sliceAt_updSlice (s : State) (h : Nat) (f : Slice → Slice) : sliceAt (updSlice s h f) h = f (sliceAt s h) :=
  fmGet_fmSet_same ..
theorem sliceAt_updSlice_ne (s : State) {h j : Nat} (f : Slice → Slice) (hj : j ≠ h) :
    sliceAt (updSlice s h f) j = sliceAt s j := fmGet_fmSet_ne _ _ _ hj
@[simp] theorem stackAt_updStack (s : State) (k : Nat) (f : Stack → Stack) : stackAt (updStack s k f) k = f (stackAt s k) :=
  fmGet_fmUpd_same ..
@[simp] theorem xlAt_updXl (s : State) (p : Nat) (f : Xl → Xl) : xlAt (updXl s p f) p = f (xlAt s p) := fmGet_fmUpd_same ..
theorem xlAt_updXl_ne (s : State) {p j : Nat} (f : Xl → Xl) (h : j ≠ p) : xlAt (updXl s p f) j = xlAt s j :=
  fmGet_fmUpd_ne _ _ _ h
@[simp] theorem partAt_updPart (s : State) (p : Nat) (f : Part → Part) : partAt (updPart s p f) p = f (partAt s p) :=
  fmGet_fmUpd_same ..
theorem partAt_updPart_ne (s : State) {p j : Nat} (f : Part → Part) (h : j ≠ p) : partAt (updPart s p f) j = partAt s j :=
  fmGet_fmUpd_ne _ _ _ h

/-- Tables of other kinds. -/
theorem tileAt_congr {s u : State} (h0 : u.tile0 = s.tile0) (h1 : u.tiles = s.tiles) (t : Nat) : tileAt u t = tileAt s t := by
  unfold tileAt; rw [h0, h1]

/-- A list of tiles changed alike: only the tile table differs. -/
theorem updTiles_eq (s : State) (ts : List Nat) (f : Tile → Tile) :
    updTiles s ts f = { s with tiles := (updTiles s ts f).tiles } := by
  unfold updTiles
  induction ts generalizing s with
  | nil => rfl
  | cons t ts ih => rw [List.foldl_cons, ih]; rfl

/-- A tile outside the list is as before. -/
theorem tileAt_updTiles_ne (s : State) (ts : List Nat) (f : Tile → Tile) {j : Nat} (h : j ∉ ts) :
    tileAt (updTiles s ts f) j = tileAt s j := by
  unfold updTiles
  induction ts generalizing s with
  | nil => rfl
  | cons t ts ih =>
    rw [List.mem_cons, not_or] at h
    rw [List.foldl_cons, ih _ h.2, tileAt_updTile_ne s f h.1]

/-- A tile that stands in the list once is changed once. -/
theorem tileAt_updTiles (s : State) (ts : List Nat) (f : Tile → Tile) {j : Nat} (hn : ts.Nodup) (h : j ∈ ts) :
    tileAt (updTiles s ts f) j = f (tileAt s j) := by
  induction ts generalizing s with
  | nil => cases h
  | cons t ts ih =>
    rw [List.nodup_cons] at hn
    have step : updTiles s (t :: ts) f = updTiles (updTile s t f) ts f := rfl
    rw [step]
    by_cases hj : j = t
    · subst hj; rw [tileAt_updTiles_ne _ _ _ hn.1, tileAt_updTile]
    · rw [ih _ hn.2 (by simpa [hj] using h), tileAt_updTile_ne _ _ hj]

end Sys2Proof.Machine
end

