-- ==== Sys2Proof/Laws/Bundles.lean ====
section
/-!
SUPPORT. What a slot command does when its bundle of one slot issues: the tile's next state in one equation for each kind of slot,
and what the stream keeps where it goes on.
-/

namespace Sys2Proof.Machine

/-- The fields of a bundle's bits. -/
theorem bundle_fields (a b c d : BitVec 1) (idle : BitVec 4) (m : BitVec 80) (v x : BitVec 64) (w : BitVec 40) :
    let z : BitVec 256 := a ++ b ++ c ++ d ++ idle ++ m ++ v ++ x ++ w
    z.getLsbD 255 = a.getLsbD 0 ∧ z.getLsbD 254 = b.getLsbD 0 ∧ z.getLsbD 253 = c.getLsbD 0 ∧ z.getLsbD 252 = d.getLsbD 0 ∧
    z.extractLsb' 248 4 = idle ∧ z.extractLsb' 168 80 = m ∧ z.extractLsb' 104 64 = v ∧ z.extractLsb' 40 64 = x ∧
    z.extractLsb' 0 40 = w := by
  intro z
  have g (i : Nat) : z.getLsbD i = if i < 40 then w.getLsbD i else if i < 104 then x.getLsbD (i - 40)
      else if i < 168 then v.getLsbD (i - 104) else if i < 248 then m.getLsbD (i - 168) else if i < 252 then idle.getLsbD (i - 248)
      else if i < 253 then d.getLsbD (i - 252) else if i < 254 then c.getLsbD (i - 253) else if i < 255 then b.getLsbD (i - 254)
      else a.getLsbD (i - 255) := by
    simp only [z, BitVec.getLsbD_append]
    by_cases h0 : i < 40
    · rw [if_pos h0, if_pos h0]
    rw [if_neg h0, if_neg h0]
    by_cases h1 : i < 104
    · rw [if_pos h1, if_pos (by omega)]
    rw [if_neg h1, if_neg (by omega), show i - 40 - 64 = i - 104 by omega]
    by_cases h2 : i < 168
    · rw [if_pos h2, if_pos (by omega)]
    rw [if_neg h2, if_neg (by omega), show i - 104 - 64 = i - 168 by omega]
    by_cases h3 : i < 248
    · rw [if_pos h3, if_pos (by omega)]
    rw [if_neg h3, if_neg (by omega), show i - 168 - 80 = i - 248 by omega]
    by_cases h4 : i < 252
    · rw [if_pos h4, if_pos (by omega)]
    rw [if_neg h4, if_neg (by omega), show i - 248 - 4 = i - 252 by omega]
    by_cases h5 : i < 253
    · rw [if_pos h5, if_pos (by omega)]
    rw [if_neg h5, if_neg (by omega), show i - 252 - 1 = i - 253 by omega]
    by_cases h6 : i < 254
    · rw [if_pos h6, if_pos (by omega)]
    rw [if_neg h6, if_neg (by omega), show i - 253 - 1 = i - 254 by omega]
    by_cases h7 : i < 255
    · rw [if_pos h7, if_pos (by omega)]
    rw [if_neg h7, if_neg (by omega), show i - 254 - 1 = i - 255 by omega]
  refine ⟨by rw [g]; norm_num, by rw [g]; norm_num, by rw [g]; norm_num, by rw [g]; norm_num, ?_, ?_, ?_, ?_, ?_⟩ <;>
    (apply BitVec.eq_of_getLsbD_eq; intro i hi; rw [BitVec.getLsbD_extractLsb', g])
  all_goals
    simp only [hi, decide_true, Bool.true_and]
    split_ifs <;> first | omega | exact congrArg _ (by omega)

/-- Bits of a slot's word. -/
def slotBits (k : SlotKind) : Nat := match k with | .m => 80 | .v => 64 | .x => 64 | .c => 40

/-- A bundle of one slot, taken apart again. -/
theorem bundleSlots_pack (k : SlotKind) (w : Nat) (hw : w < 2 ^ slotBits k) (idle : BitVec 4) :
    bundleSlots (packBundle [⟨k, w⟩] idle) = [⟨k, w⟩] ∧ bundleIdle (packBundle [⟨k, w⟩] idle) = idle.toNat := by
  have en (p : Bool) : (BitVec.ofBool p).getLsbD 0 = p := by cases p <;> rfl
  have cut {n : Nat} (h : w < 2 ^ n) : (BitVec.ofNat n w).toNat = w := by
    rw [BitVec.toNat_ofNat]; exact Nat.mod_eq_of_lt h
  unfold bundleSlots bundleIdle
  cases k <;>
  · obtain ⟨h1, h2, h3, h4, h5, h6, h7, h8, h9⟩ := bundle_fields _ _ _ _ idle _ _ _ _
    unfold packBundle
    rw [h1, h2, h3, h4, h5, h6, h7, h8, h9]
    simp only [en, slotWord, List.find?, decide_true, decide_false, reduceCtorEq, Option.map_some, Option.map_none, Option.isSome_some,
      Option.isSome_none, if_true, Option.getD_some, List.append_nil, List.nil_append, Bool.false_eq_true, if_false]
    simp only [slotBits] at hw
    exact ⟨by rw [cut hw], trivial⟩

/-- With no slot enabled there is none. -/
theorem bundleSlots_pause (idle : BitVec 4) : bundleSlots (packBundle [] idle) = [] ∧ bundleIdle (packBundle [] idle) = idle.toNat := by
  obtain ⟨h1, h2, h3, h4, h5, -⟩ := bundle_fields (BitVec.ofBool false) (BitVec.ofBool false) (BitVec.ofBool false) (BitVec.ofBool false) idle 0 0 0 0
  unfold bundleSlots bundleIdle packBundle
  exact ⟨by simpa [slotWord] using ⟨h1, h2, h3, h4⟩, by simpa [slotWord] using congrArg BitVec.toNat h5⟩

/-- The tile with the bundle `b` in its queue, no slot gathered. -/
def queued (b : BitVec 256) (x : Tile) : Tile := { x with seq := { x.seq with slots := [], queue := [b] } }

theorem advanceTo_self (s : State) : advanceTo s s.cycle = s := by unfold advanceTo; simp

/-- A tile with no record of a swap sends none. -/
theorem flushRecords_nil {s : State} {t : Nat} (h : (tileAt s t).cnt.recs = []) : flushRecords t s = s := by
  unfold flushRecords; simp [h]

theorem countEv_acs (a n : Nat) (x : Tile) : (countEv a n x).acs = x.acs := by unfold countEv; split <;> rfl
theorem fcAdd_acs (a n : Nat) (x : Tile) : (fcAdd a n x).acs = x.acs := by unfold fcAdd; split <;> rfl

/-- What a counter holds at the start of a cycle depends on the counters alone. -/
theorem acSeen_congr {x y : Tile} (c i : Nat) (h : x.acs = y.acs) : acSeen c x i = acSeen c y i := by
  unfold acSeen settleAcs
  rw [h]
  by_cases hs : y.acs.stamp = c
  · simp only [if_pos hs]; rw [h]
  · simp only [if_neg hs, countEv_acs, fcAdd_acs]

theorem cHold_queued (b : BitVec 256) (c : Nat) (x : Tile) : cHold c (queued b x) = cHold c x := by
  funext w
  unfold cHold
  have h : acSeen c (queued b x) (field w 35 30) = acSeen c x (field w 35 30) := acSeen_congr c _ rfl
  rw [h]; rfl

theorem bundleHold_queued (b : BitVec 256) (c : Nat) (x : Tile) (slots : List Slot) :
    bundleHold c (queued b x) slots = bundleHold c x slots := by
  have h1 := cHold_queued b c x
  have h2 : xHold c (queued b x) = xHold c x := rfl
  unfold bundleHold; rw [h1, h2]

theorem seqCycle_queued {epoch : Bool} {us c : Nat} {b : BitVec 256} {x : Tile} (h1 : computing x = true) (h2 : x.seq.stream = .issuing)
    (h6 : x.seq.nextIssue ≤ c) (h7 : x.seq.epochWait = false) (h8 : x.prune.all (fun p => c < p.1) = true)
    (h9 : x.seq.beat = x.seq.pc / 64 + 1 ∨ inLoopBuffer x.seq = true) :
    seqCycle epoch us c (queued b x) = tryBundle c us b (queued b x) := by
  have hm : mayIssue epoch c (queued b x) = true := by
    have e : mayIssue epoch c (queued b x) = mayIssue epoch c x := rfl
    rw [e, mayIssue, h1, h7, h8]; simp [h2, h6]
  have hf : fetchBeat c (queued b x) = queued b x := by
    unfold fetchBeat
    rw [if_pos]
    rcases h9 with h9 | h9
    · simp [queued, h9]
    · have : inLoopBuffer (queued b x).seq = inLoopBuffer x.seq := rfl
      simp [this, h9]
  show (if !mayIssue epoch c (queued b x) then queued b x
    else if (fetchBeat c (queued b x)).seq.stream = .issuing then tryBundle c us b (fetchBeat c (queued b x)) else fetchBeat c (queued b x)) = _
  rw [hm, hf]
  exact if_pos h2

theorem updTile_eq {s : State} {t : Nat} {f g : Tile → Tile} (h : f (tileAt s t) = g (tileAt s t)) : updTile s t f = updTile s t g := by
  unfold updTile; rw [h]

/-- A whole bundle at a tile that is ready is tried in the present cycle. -/
theorem bundleCmd_ready {t : Nat} {slots : List Slot} {idle : BitVec 4} {s : State} (hr : ReadyToIssue s t) :
    bundleCmd t slots idle s =
      flushRecords t (updTile s t (fun x => tryBundle s.cycle s.us (packBundle slots idle) (queued (packBundle slots idle) x))) := by
  obtain ⟨h1, h2, h3, h4, h5, h6, h7, h8, h9, -⟩ := hr
  unfold bundleCmd
  simp only [h4, h7, List.isEmpty_nil, if_true, Bool.false_eq_true, if_false, Nat.max_eq_left h6, advanceTo_self]
  congr 1
  apply updTile_eq
  rw [← seqCycle_queued (epoch := epochStarts s s.cycle) h1 h2 h6 h7 h8 h9]
  unfold queued
  rw [h4]; rfl

/-- A legal bundle of one slot on a tile that is ready issues in the present cycle. -/
theorem slotCmd_issues {k : SlotKind} {t w : Nat} {idle : BitVec 4} {s : State} (hw : w < 2 ^ slotBits k) (hr : ReadyToIssue s t)
    (hi : SlotIssues k w s t) :
    slotCmd k true t w (some idle) s = flushRecords t (updTile s t (fun x =>
      issueBundle s.cycle idle.toNat [⟨k, w⟩] (queued (packBundle [⟨k, w⟩] idle) x))) := by
  obtain ⟨l1, l2, l3⟩ := hi
  obtain ⟨p1, p2⟩ := bundleSlots_pack k w hw idle
  have hs : slotCmd k true t w (some idle) s = bundleCmd t [⟨k, w⟩] idle s := by
    unfold slotCmd
    simp [hr.1, hr.2.1, hr.2.2.1, gather]
  rw [hs, bundleCmd_ready hr]
  congr 1
  apply updTile_eq
  have e1 : bundleHold s.cycle (queued (packBundle [⟨k, w⟩] idle) (tileAt s t)) [⟨k, w⟩] = .none := by
    rw [bundleHold_queued]; exact l2
  have e2 : issueOk s.cycle (queued (packBundle [⟨k, w⟩] idle) (tileAt s t)) [⟨k, w⟩] = true := l3
  have e3 : slotLegal (queued (packBundle [⟨k, w⟩] idle) (tileAt s t)).nbr.getLsbD k w = true := l1
  simp only [tryBundle, p1, p2, List.all_cons, List.all_nil, e1, e2, e3, Bool.and_true, Bool.not_true, Bool.false_eq_true, if_false, if_true]

/-- The same where the bundle starts no command: it sends nothing. -/
theorem slotCmd_issues_plain {k : SlotKind} {t w : Nat} {idle : BitVec 4} {s : State} (hw : w < 2 ^ slotBits k) (hr : ReadyToIssue s t)
    (hi : SlotIssues k w s t)
    (hc : (issueBundle s.cycle idle.toNat [⟨k, w⟩] (queued (packBundle [⟨k, w⟩] idle) (tileAt s t))).cnt.recs = []) :
    slotCmd k true t w (some idle) s = updTile s t (fun x =>
      issueBundle s.cycle idle.toNat [⟨k, w⟩] (queued (packBundle [⟨k, w⟩] idle) x)) := by
  rw [slotCmd_issues hw hr hi, flushRecords_nil]
  rw [tileAt_updTile]; exact hc


theorem onlyTile_updTile (s : State) (t : Nat) (f : Tile → Tile) : OnlyTile t s (updTile s t f) :=
  ⟨rfl, fun _ h => tileAt_updTile_ne s f h⟩

theorem countEv_units (a n : Nat) (x : Tile) : (countEv a n x).units = x.units := by unfold countEv; split <;> rfl
theorem countEv_seq (a n : Nat) (x : Tile) : (countEv a n x).seq = x.seq := by unfold countEv; split <;> rfl
theorem countEv_recs (a n : Nat) (x : Tile) : (countEv a n x).cnt.recs = x.cnt.recs := by unfold countEv; split <;> rfl
theorem countEv_eq (a n : Nat) (x : Tile) : countEv a n x = { x with cnt := (countEv a n x).cnt } := by unfold countEv; split <;> rfl

theorem opFits_of {k : SlotKind} {n w : Nat} (h : slotOp k w = n) : opFits k n w = true := by simp [opFits, h]

/-- The sequencer with no slot gathered, no bundle waiting and no hold. -/
def cleared (q : Seq) : Seq := { q with slots := [], queue := [], hold := .none }

/-- All that a bundle of one matrix operation does when it issues. -/
theorem issue_one_m (c idle w : Nat) (b : BitVec 256) (x : Tile) :
    issueBundle c idle [⟨.m, w⟩] (queued b x) = { x with
      seq := goOn c idle x.seq.loops none false (cleared x.seq),
      cnt := (countEv 0x02 1 { x with seq := cleared x.seq }).cnt,
      units := (effM c x.seq w x).units } := by
  simp only [issueBundle, slotWord, List.find?, decide_true, Option.map_some, Option.getD_some, Option.map_none,
    Option.getD_none, reduceCtorEq, decide_false]
  rw [countEv_eq]
  unfold effM effClear effMma
  split_ifs <;> first | rfl | (exfalso; omega)

/-- All that a bundle of one V-slot operation does when it issues. -/
theorem issue_one_v (c idle w : Nat) (b : BitVec 256) (x : Tile) :
    issueBundle c idle [⟨.v, w⟩] (queued b x) = { x with
      seq := goOn c idle x.seq.loops none false (effV c x.seq w { x with seq := cleared x.seq }).seq,
      cnt := (countEv 0x02 1 { x with seq := cleared x.seq }).cnt,
      units := (effV c x.seq w x).units } := by
  simp only [issueBundle, slotWord, List.find?, decide_true, Option.map_some, Option.getD_some, Option.map_none,
    Option.getD_none, reduceCtorEq, decide_false]
  rw [countEv_eq]
  unfold effV
  by_cases h0 : vop w = 0
  · simp only [if_pos h0]; rfl
  by_cases h1 : vop w ≤ 29
  · simp only [if_neg h0, if_pos h1]; rfl
  by_cases h2 : vop w = 0x20
  · simp only [if_neg h0, if_neg h1, if_pos h2]; rfl
  by_cases h3 : vop w = 0x21
  · simp only [if_neg h0, if_neg h1, if_neg h2, if_pos h3]; rfl
  by_cases h4 : vop w = 0x22
  · simp only [if_neg h0, if_neg h1, if_neg h2, if_neg h3, if_pos h4]
    unfold effShell
    by_cases h5 : field w 21 6 = 0
    · simp only [if_pos h5]; rfl
    · simp only [if_neg h5]; rfl
  · simp only [if_neg h0, if_neg h1, if_neg h2, if_neg h3, if_neg h4]; rfl

/-- All that a bundle of one X-slot operation does when it issues. -/
theorem issue_one_x (c idle w : Nat) (b : BitVec 256) (x : Tile) :
    issueBundle c idle [⟨.x, w⟩] (queued b x) = { x with
      seq := goOn c idle x.seq.loops none false (cleared x.seq),
      cnt := (countEv 0x02 1 { x with seq := cleared x.seq }).cnt,
      ports := (effX c x.seq w x).ports, movers := (effX c x.seq w x).movers, regs := (effX c x.seq w x).regs } := by
  simp only [issueBundle, slotWord, List.find?, decide_true, Option.map_some, Option.getD_some, Option.map_none,
    Option.getD_none, reduceCtorEq, decide_false]
  rw [countEv_eq]
  unfold effX
  by_cases h0 : xop w = 0
  · simp only [if_pos h0]; rfl
  by_cases h1 : (xop w = 1 || xop w = 3) = true
  · simp only [if_neg h0, if_pos h1]; rfl
  by_cases h2 : (xop w = 2 || xop w = 4) = true
  · simp only [if_neg h0, if_neg h1, if_pos h2]; rfl
  simp only [if_neg h0, if_neg h1, if_neg h2]
  unfold effMove pruning
  by_cases h3 : x.prune.isSome = true
  · have : (queued b x).prune.isSome = true := h3
    simp only [this, h3, ↓reduceIte, Bool.false_and]; rfl
  · have : ¬ (queued b x).prune.isSome = true := h3
    simp only [this, h3, ↓reduceIte, Bool.false_and]; rfl

theorem goOn_none (c idle : Nat) (q : Seq) : goOn c idle [] none false q = { q with pc := q.pc + 32, nextIssue := c + 1 + idle, epochWait := false } := by
  simp [goOn, closeLoops]

theorem moverAt_updMover (x : Tile) (m : Nat) (f : Mover → Mover) : moverAt (updMover x m f) m = f (moverAt x m) := fmGet_fmUpd_same ..
theorem moverAt_updMover_ne (x : Tile) (m j : Nat) (f : Mover → Mover) (h : j ≠ m) : moverAt (updMover x m f) j = moverAt x j :=
  fmGet_fmUpd_ne _ _ _ h
theorem portAt_updPort (x : Tile) (p : Nat) (f : PortQ → PortQ) : portAt (updPort x p f) p = f (portAt x p) := fmGet_fmUpd_same ..
theorem portAt_updPort_ne (x : Tile) (p j : Nat) (f : PortQ → PortQ) (h : j ≠ p) : portAt (updPort x p f) j = portAt x j := fmGet_fmUpd_ne _ _ _ h

/-- Closing loops changes the counters and the running loops alone. -/
theorem closeLoops_kept (ls : List LoopRun) : ∀ q : Seq,
    ∃ l lo, (closeLoops ls q).1 = { q with l := l, loops := lo } := by
  induction ls with
  | nil => intro q; exact ⟨_, _, rfl⟩
  | cons r ls ih =>
    intro q
    have h : ∃ l, (if getL q r.l = 0 then q else setL q r.l (getL q r.l - 1)) = { q with l := l } := by
      split
      · exact ⟨_, rfl⟩
      · exact ⟨_, rfl⟩
    obtain ⟨l, h⟩ := h
    rw [closeLoops]
    split
    · simp only [h]
      split
      · exact ⟨_, _, rfl⟩
      · obtain ⟨l', lo, e⟩ := ih { q with l := l, loops := q.loops.erase r }
        exact ⟨l', lo, e⟩
    · exact ih q

/-- Going on changes the counters, the running loops, the pointer and the next issue cycle alone. -/
theorem goOn_kept (c idle : Nat) (ls : List LoopRun) (cw : Option Nat) (tk : Bool) (q : Seq) :
    ∃ l lo pc n e, goOn c idle ls cw tk q =
      { q with l := l, loops := lo, pc := pc, nextIssue := n, epochWait := e } := by
  obtain ⟨l, lo, h⟩ := closeLoops_kept ls q
  unfold goOn
  generalize closeLoops ls q = g at h
  obtain ⟨q', rep⟩ := g
  simp only at h ⊢
  rw [h]
  exact ⟨_, _, _, _, _, rfl⟩

section
variable (c idle : Nat) (ls : List LoopRun) (cw : Option Nat) (tk : Bool) (q : Seq)
@[simp] theorem goOn_a : (goOn c idle ls cw tk q).a = q.a := by
  obtain ⟨l, lo, pc, n, e, h⟩ := goOn_kept c idle ls cw tk q; rw [h]
@[simp] theorem goOn_scope : (goOn c idle ls cw tk q).scope = q.scope := by
  obtain ⟨l, lo, pc, n, e, h⟩ := goOn_kept c idle ls cw tk q; rw [h]
@[simp] theorem goOn_env : (goOn c idle ls cw tk q).env = q.env := by
  obtain ⟨l, lo, pc, n, e, h⟩ := goOn_kept c idle ls cw tk q; rw [h]
@[simp] theorem goOn_stream : (goOn c idle ls cw tk q).stream = q.stream := by
  obtain ⟨l, lo, pc, n, e, h⟩ := goOn_kept c idle ls cw tk q; rw [h]
@[simp] theorem goOn_slots : (goOn c idle ls cw tk q).slots = q.slots := by
  obtain ⟨l, lo, pc, n, e, h⟩ := goOn_kept c idle ls cw tk q; rw [h]
@[simp] theorem goOn_queue : (goOn c idle ls cw tk q).queue = q.queue := by
  obtain ⟨l, lo, pc, n, e, h⟩ := goOn_kept c idle ls cw tk q; rw [h]
@[simp] theorem goOn_beat : (goOn c idle ls cw tk q).beat = q.beat := by
  obtain ⟨l, lo, pc, n, e, h⟩ := goOn_kept c idle ls cw tk q; rw [h]
@[simp] theorem goOn_hold : (goOn c idle ls cw tk q).hold = q.hold := by
  obtain ⟨l, lo, pc, n, e, h⟩ := goOn_kept c idle ls cw tk q; rw [h]
@[simp] theorem goOn_holdUs : (goOn c idle ls cw tk q).holdUs = q.holdUs := by
  obtain ⟨l, lo, pc, n, e, h⟩ := goOn_kept c idle ls cw tk q; rw [h]
@[simp] theorem goOn_stallUs : (goOn c idle ls cw tk q).stallUs = q.stallUs := by
  obtain ⟨l, lo, pc, n, e, h⟩ := goOn_kept c idle ls cw tk q; rw [h]
@[simp] theorem goOn_holdAt : (goOn c idle ls cw tk q).holdAt = q.holdAt := by
  obtain ⟨l, lo, pc, n, e, h⟩ := goOn_kept c idle ls cw tk q; rw [h]
@[simp] theorem goOn_exact : (goOn c idle ls cw tk q).exact = q.exact := by
  obtain ⟨l, lo, pc, n, e, h⟩ := goOn_kept c idle ls cw tk q; rw [h]
@[simp] theorem goOn_layer : (goOn c idle ls cw tk q).layer = q.layer := by
  obtain ⟨l, lo, pc, n, e, h⟩ := goOn_kept c idle ls cw tk q; rw [h]
@[simp] theorem goOn_opid : (goOn c idle ls cw tk q).opid = q.opid := by
  obtain ⟨l, lo, pc, n, e, h⟩ := goOn_kept c idle ls cw tk q; rw [h]
@[simp] theorem goOn_grant : (goOn c idle ls cw tk q).grant = q.grant := by
  obtain ⟨l, lo, pc, n, e, h⟩ := goOn_kept c idle ls cw tk q; rw [h]
@[simp] theorem goOn_arrayBusy : (goOn c idle ls cw tk q).arrayBusy = q.arrayBusy := by
  obtain ⟨l, lo, pc, n, e, h⟩ := goOn_kept c idle ls cw tk q; rw [h]
@[simp] theorem goOn_readBusy : (goOn c idle ls cw tk q).readBusy = q.readBusy := by
  obtain ⟨l, lo, pc, n, e, h⟩ := goOn_kept c idle ls cw tk q; rw [h]
@[simp] theorem goOn_rampTick : (goOn c idle ls cw tk q).rampTick = q.rampTick := by
  obtain ⟨l, lo, pc, n, e, h⟩ := goOn_kept c idle ls cw tk q; rw [h]
@[simp] theorem goOn_rampB : (goOn c idle ls cw tk q).rampB = q.rampB := by
  obtain ⟨l, lo, pc, n, e, h⟩ := goOn_kept c idle ls cw tk q; rw [h]
@[simp] theorem goOn_rampP : (goOn c idle ls cw tk q).rampP = q.rampP := by
  obtain ⟨l, lo, pc, n, e, h⟩ := goOn_kept c idle ls cw tk q; rw [h]
@[simp] theorem goOn_lanes : (goOn c idle ls cw tk q).lanes = q.lanes := by
  obtain ⟨l, lo, pc, n, e, h⟩ := goOn_kept c idle ls cw tk q; rw [h]
end

/-- The command of one M-slot operation, as an update of its tile. -/
theorem m_slot_runs {t : TileId} {w : BitVec 80} {idle : BitVec 4} {s : State} (n : Nat) (hn : mop w.toNat = n)
    (hr : ReadyToIssue s t.val) (hi : SlotIssues .m w.toNat s t.val) :
    slotCmd .m (opFits .m n w.toNat) t.val w.toNat (some idle) s = updTile s t.val (fun x => { x with
      seq := goOn s.cycle idle.toNat x.seq.loops none false (cleared x.seq),
      cnt := (countEv 0x02 1 { x with seq := cleared x.seq }).cnt,
      units := (effM s.cycle x.seq w.toNat x).units }) := by
  rw [opFits_of (k := .m) hn, slotCmd_issues_plain (k := .m) w.isLt hr hi]
  · apply updTile_eq; rw [issue_one_m]
  · rw [issue_one_m]
    exact (countEv_recs ..).trans hr.2.2.2.2.2.2.2.2.2

/-- The command of one V-slot operation, as an update of its tile. -/
theorem v_slot_runs {t : TileId} {w : BitVec 64} {idle : BitVec 4} {s : State} (n : Nat) (hn : vop w.toNat = n)
    (hr : ReadyToIssue s t.val) (hi : SlotIssues .v w.toNat s t.val) :
    slotCmd .v (opFits .v n w.toNat) t.val w.toNat (some idle) s = updTile s t.val (fun x => { x with
      seq := goOn s.cycle idle.toNat x.seq.loops none false (effV s.cycle x.seq w.toNat { x with seq := cleared x.seq }).seq,
      cnt := (countEv 0x02 1 { x with seq := cleared x.seq }).cnt,
      units := (effV s.cycle x.seq w.toNat x).units }) := by
  rw [opFits_of (k := .v) hn, slotCmd_issues_plain (k := .v) w.isLt hr hi]
  · apply updTile_eq; rw [issue_one_v]
  · rw [issue_one_v]
    exact (countEv_recs ..).trans hr.2.2.2.2.2.2.2.2.2

/-- The command of one X-slot operation, as an update of its tile. -/
theorem x_slot_runs {t : TileId} {w : BitVec 64} {idle : BitVec 4} {s : State} (n : Nat) (hn : xop w.toNat = n)
    (hr : ReadyToIssue s t.val) (hi : SlotIssues .x w.toNat s t.val) :
    slotCmd .x (opFits .x n w.toNat) t.val w.toNat (some idle) s = updTile s t.val (fun x => { x with
      seq := goOn s.cycle idle.toNat x.seq.loops none false (cleared x.seq),
      cnt := (countEv 0x02 1 { x with seq := cleared x.seq }).cnt,
      ports := (effX s.cycle x.seq w.toNat x).ports, movers := (effX s.cycle x.seq w.toNat x).movers,
      regs := (effX s.cycle x.seq w.toNat x).regs }) := by
  rw [opFits_of (k := .x) hn, slotCmd_issues_plain (k := .x) w.isLt hr hi]
  · apply updTile_eq; rw [issue_one_x]
  · rw [issue_one_x]
    exact (countEv_recs ..).trans hr.2.2.2.2.2.2.2.2.2

/-- All that a bundle of one C-slot operation other than WAIT, MARK, PHASE and END does when it issues. -/
theorem issue_one_c (c idle w : Nat) (b : BitVec 256) (x : Tile) (h : cop w ∉ [3, 5, 11, 12]) :
    issueBundle c idle [⟨.c, w⟩] (queued b x) = { x with
      seq := goOn c idle x.seq.loops (some w) (cop w = 2 && getL x.seq (field w 35 33) ≠ 0)
        (effC c x.seq w { x with seq := cleared x.seq }).seq,
      cnt := (countEv 0x02 1 { x with seq := cleared x.seq }).cnt } := by
  simp only [List.mem_cons, List.not_mem_nil, or_false, not_or] at h
  obtain ⟨h3, h5, h11, h12⟩ := h
  simp only [issueBundle, slotWord, List.find?, decide_true, Option.map_some, Option.getD_some, Option.map_none,
    Option.getD_none, reduceCtorEq, decide_false, h3, h5, h11, h12, if_false]
  rw [countEv_eq]
  unfold effC
  by_cases h1 : cop w = 1
  · simp only [if_pos h1]
    unfold effLoop
    by_cases h0 : field w 20 0 = 0
    · simp only [if_pos h0]; rfl
    · simp only [if_neg h0]; rfl
  by_cases h2 : cop w = 2
  · simp only [if_neg h1, if_pos h2]
    unfold effBrc
    by_cases h0 : getL x.seq (field w 35 33) = 0
    · have e : ∀ q : Seq, q.l = x.seq.l → getL q (field w 35 33) = 0 := fun q hq => by unfold getL; rw [hq]; exact h0
      simp only [cleared, queued, e, if_true]; rfl
    · have e : ∀ q : Seq, q.l = x.seq.l → getL q (field w 35 33) ≠ 0 := fun q hq => by unfold getL; rw [hq]; exact h0
      simp only [cleared, queued, e, if_false]; rfl
  by_cases h4 : cop w = 4
  · simp only [if_neg h1, if_neg h2, if_pos h4]
    unfold effGrant
    by_cases h0 : field w 35 20 = 0
    · simp only [if_pos h0]; rfl
    · simp only [if_neg h0]; rfl
  simp only [if_neg h1, if_neg h2, if_neg h4]
  by_cases h7 : cop w = 7
  · simp only [if_pos h7]; rfl
  by_cases h8 : cop w = 8
  · simp only [if_neg h7, if_pos h8]; rfl
  by_cases h9 : cop w = 9
  · simp only [if_neg h7, if_neg h8, if_pos h9]; rfl
  by_cases h10 : cop w = 10
  · simp only [if_neg h7, if_neg h8, if_neg h9, if_pos h10]; rfl
  · simp only [if_neg h7, if_neg h8, if_neg h9, if_neg h10]; rfl

/-- The command of one C-slot operation other than WAIT, MARK, PHASE and END, as an update of its tile. -/
theorem c_slot_runs {t : TileId} {w : BitVec 40} {idle : BitVec 4} {s : State} (n : Nat) (hn : cop w.toNat = n)
    (h : n ∉ [3, 5, 11, 12]) (hr : ReadyToIssue s t.val) (hi : SlotIssues .c w.toNat s t.val) :
    slotCmd .c (opFits .c n w.toNat) t.val w.toNat (some idle) s = updTile s t.val (fun x => { x with
      seq := goOn s.cycle idle.toNat x.seq.loops (some w.toNat) (cop w.toNat = 2 && getL x.seq (field w.toNat 35 33) ≠ 0)
        (effC s.cycle x.seq w.toNat { x with seq := cleared x.seq }).seq,
      cnt := (countEv 0x02 1 { x with seq := cleared x.seq }).cnt }) := by
  rw [opFits_of (k := .c) hn, slotCmd_issues_plain (k := .c) w.isLt hr hi]
  · apply updTile_eq; rw [issue_one_c _ _ _ _ _ (hn ▸ h)]
  · rw [issue_one_c _ _ _ _ _ (hn ▸ h)]
    exact (countEv_recs ..).trans hr.2.2.2.2.2.2.2.2.2

@[simp] theorem getL_setL_same (q : Seq) (i v : Nat) : getL (setL q i v) i = v % 2 ^ 24 := fmGet_fmSet_same ..
theorem getL_setL_ne (q : Seq) {i j : Nat} (v : Nat) (h : j ≠ i) : getL (setL q i v) j = getL q j := fmGet_fmSet_ne _ _ _ h
theorem getA_setA_ne (q : Seq) {i j : Nat} (v : Nat) (h : j ≠ i) : getA (setA q i v) j = getA q j := by
  unfold getA setA
  split
  · rfl
  · split
    · rfl
    · exact fmGet_fmSet_ne _ _ _ h
theorem getA_setA_same (q : Seq) {i : Nat} (v : Nat) (h : i ≠ 0) : getA (setA q i v) i = v % 2 ^ 48 := by
  unfold getA setA; rw [if_neg h, if_neg h]; exact fmGet_fmSet_same ..

end Sys2Proof.Machine
end

