-- ==== Sys2Proof/Laws/Groups.lean ====
section
/-!
SUPPORT. What one instruction of a thread group does when it issues: the tile's next state, for an instruction whose effect is on its
group alone, and what a write to a register or a predicate leaves.
-/

namespace Sys2Proof.Machine

/-- With no reconvergence point above it, a group goes where it is sent. -/
theorem goTo_nil {x : Group} (p : Nat) (h : x.stack = []) : goTo p x = { x with pc := p } := by
  unfold goTo reconverge; simp only [h]

@[simp] theorem groupAt_setGroup (t : Tile) (g : Nat) (x : Option Group) : groupAt (setGroup t g x) g = x := fmGet_fmSet_same ..
theorem groupAt_setGroup_ne (t : Tile) {g j : Nat} (x : Option Group) (h : j ≠ g) : groupAt (setGroup t g x) j = groupAt t j :=
  fmGet_fmSet_ne _ _ _ h
theorem groupAt_updGroup {t : Tile} {g : Nat} {x : Group} (f : Group → Group) (h : groupAt t g = some x) :
    groupAt (updGroup t g f) g = some (f x) := by
  unfold updGroup; simp [h]
theorem updGroup_eq (t : Tile) (g : Nat) (f : Group → Group) : updGroup t g f = { t with ge := (updGroup t g f).ge } := by
  unfold updGroup; split <;> rfl

theorem countEv_ge (a n : Nat) (x : Tile) : (countEv a n x).ge = x.ge := by unfold countEv; split <;> rfl

/-- An instruction issued: of the tile the group engine and the counters differ. -/
theorem gxIssued_groups (c us slot g : Nat) (t : Tile) : TileGroups t (gxIssued c us slot g t) := by
  unfold TileGroups gxIssued
  rw [countEv_eq, updGroup_eq]

theorem groupAt_gxIssued {t : Tile} {g : Nat} {x : Group} (c us slot : Nat) (h : groupAt t g = some x) :
    groupAt (gxIssued c us slot g t) g = some { x with issueUs := us, holding := false } := by
  unfold gxIssued
  have := groupAt_updGroup (fun x => { x with issueUs := us, holding := false }) h
  unfold groupAt at this ⊢
  simp only [countEv_ge]
  exact this

theorem TileGroups.trans {x y z : Tile} (h : TileGroups x y) (k : TileGroups y z) : TileGroups x z := by
  unfold TileGroups at *; rw [k, h]

/-- The group of a ready instruction. -/
theorem GroupReady.group {s : State} {t g w : Nat} {x : Group} (h : GroupReady s t g w x) : groupAt (tileAt s t) g = some x := by
  obtain ⟨⟨slot, f, h⟩, -⟩ := h
  unfold gxReady at h
  split at h
  · cases h
  · split at h
    · split at h
      · rename_i hg _ _; cases h; exact hg
      · cases h
    · cases h

/-- A ready instruction is tried in the present cycle. -/
theorem gxCmd_ready {s : State} {t g w : Nat} {x : Group} (h : GroupReady s t g w x) (sem : Nat → Nat → Group → State → GxOut) :
    ∃ slot, gxCmd true t g w sem s =
      match (if gxListed (gOpc w) then sem s.cycle (guardMask x w) x s else .fault 0x04 0) with
      | .fault code addr => updTile s t (fun y => gxFault s.cycle code g addr x (guardMask x w) (gxIssued s.cycle s.us slot g y))
      | .wait p => updTile s t (pendGroup s.cycle s.us p g)
      | .hold pipe => updTile s t (gxHeld pipe g)
      | .go s' => updTile s' t (gxIssued s.cycle s.us slot g) := by
  obtain ⟨⟨slot, f, h1⟩, h2, h3, h4, -⟩ := h
  refine ⟨slot, ?_⟩
  have hw : (gxNeeds w ++ gxDsts w).filter (fun r => readyAt x r = never) = [] := by
    rw [List.filter_eq_nil_iff]
    intro r _
    have := h3 r
    have hn : soon < never := by decide
    simp; omega
  have ha : gxAwait t g w gxTries s = s := by
    unfold gxTries gxAwait
    rw [h2]; rfl
  unfold gxCmd
  simp only [h1, hw, ha, h2, Bool.not_true, List.isEmpty_nil, Bool.false_eq_true, if_false, ne_eq, not_true_eq_false] <;> rfl

/-- An instruction whose effect is on its group alone: nothing but its tile's engine and counters differs, and the group goes on. -/
theorem gxCmd_local {s : State} {t g w : Nat} {x : Group} (h : GroupReady s t g w x) (sem : Nat → Nat → Group → State → GxOut)
    (f : Group → Group) (hl : gxListed (gOpc w) = true) (hs : sem s.cycle (guardMask x w) x s = gxLocal t g f s) (hf : (f x).stack = []) :
    let u := gxCmd true t g w sem s
    OnlyTile t s u ∧ TileGroups (tileAt s t) (tileAt u t) ∧
    groupAt (tileAt u t) g = some { f x with pc := x.pc + 8, issueUs := s.us, holding := false } := by
  obtain ⟨slot, e⟩ := gxCmd_ready h sem
  simp only [hl, if_true, hs, gxLocal] at e
  intro u
  have hu : u = updTile (updTile s t (fun y => updGroup y g (fun x => goTo (x.pc + 8) (f x)))) t (gxIssued s.cycle s.us slot g) := e
  rw [hu]
  refine ⟨⟨rfl, fun j hj => ?_⟩, ?_, ?_⟩
  · rw [tileAt_updTile_ne _ _ hj, tileAt_updTile_ne _ _ hj]
  · rw [tileAt_updTile, tileAt_updTile]
    refine TileGroups.trans ?_ (gxIssued_groups ..)
    unfold TileGroups; rw [updGroup_eq]
  · rw [tileAt_updTile, tileAt_updTile, groupAt_gxIssued _ _ _ (groupAt_updGroup _ h.group), goTo_nil _ hf]

theorem gReg_setReg (x : Group) (d i v r lane : Nat) (hi : i < 32) (hl : lane < 32) :
    gReg (setReg x d i v) r lane = if r = d ∧ lane = i then v % 2 ^ 32 else gReg x r lane := by
  unfold gReg setReg
  rw [fmGet_fmSet]
  by_cases h : 32 * d + i = 32 * r + lane
  · rw [if_pos h, if_pos (by omega)]
  · rw [if_neg h, if_neg (by omega)]

theorem gReg_foldl_setReg (d : Nat) (f : Nat → Nat) (is : List Nat) : ∀ (x : Group) (r lane : Nat), (∀ i ∈ is, i < 32) → lane < 32 →
    gReg (is.foldl (fun x i => setReg x d i (f i)) x) r lane = if r = d ∧ lane ∈ is then f lane % 2 ^ 32 else gReg x r lane := by
  induction is with
  | nil => intro x r lane _ _; simp
  | cons i is ih =>
    intro x r lane hi hl
    rw [List.foldl_cons, ih _ _ _ (fun k hk => hi k (List.mem_cons_of_mem _ hk)) hl, gReg_setReg _ _ _ _ _ _ (hi i List.mem_cons_self) hl]
    by_cases h1 : r = d ∧ lane ∈ is
    · rw [if_pos h1, if_pos ⟨h1.1, List.mem_cons_of_mem _ h1.2⟩]
    · rw [if_neg h1]
      by_cases h2 : r = d ∧ lane = i
      · rw [if_pos h2, if_pos ⟨h2.1, by simp [h2.2]⟩, h2.2]
      · rw [if_neg h2, if_neg (by simp only [List.mem_cons]; tauto)]

/-- What a register written in the lanes of a mask leaves. -/
theorem gReg_writeReg (x : Group) (mask d : Nat) (f : Nat → Nat) (r lane : Nat) (hl : lane < 32) :
    gReg (writeReg x mask d f) r lane = if r = d ∧ mask.testBit lane then f lane % 2 ^ 32 else gReg x r lane := by
  unfold writeReg
  rw [gReg_foldl_setReg _ _ _ _ _ _ (fun i hi => by simp [lanesOf] at hi; exact hi.1) hl]
  simp [lanesOf, hl]

/-- A register write changes the registers alone. -/
theorem writeReg_eq (x : Group) (mask d : Nat) (f : Nat → Nat) : writeReg x mask d f = { x with regs := (writeReg x mask d f).regs } := by
  have h : ∀ (is : List Nat) (x : Group), is.foldl (fun x i => setReg x d i (f i)) x =
      { x with regs := (is.foldl (fun x i => setReg x d i (f i)) x).regs } := by
    intro is; induction is with
    | nil => intro x; rfl
    | cons i is ih => intro x; rw [List.foldl_cons, ih]; rfl
  exact h _ _

/-- What a predicate written in the lanes of a mask leaves. -/
theorem gPred_setPred (x : Group) (p mask v q lane : Nat) (hm : mask < 2 ^ 32) (hl : lane < 32) :
    (gPred (setPred x p mask v) q).testBit lane =
      if q = p ∧ p ≠ 0 ∧ mask.testBit lane then v.testBit lane else (gPred x q).testBit lane := by
  unfold gPred setPred
  by_cases hp : p = 0
  · subst hp; simp
  rw [if_neg hp]
  by_cases hq : q = 0
  · subst hq; simp [Ne.symm hp]
  simp only [if_neg hq]
  by_cases h : q = p
  · subst h
    rw [fmGet_fmUpd_same]
    have e : (2 ^ 32 - 1 - mask).testBit lane = !mask.testBit lane := by
      rw [Nat.sub_sub, Nat.add_comm, Nat.testBit_two_pow_sub_succ hm]; simp [hl]
    rw [Nat.testBit_or, Nat.testBit_and, Nat.testBit_and, e]
    cases mask.testBit lane <;> simp [hp]
  · rw [fmGet_fmUpd_ne _ _ _ h]; simp [h]

theorem guardMask_lt (x : Group) (w : Nat) : guardMask x w < 2 ^ 32 := by
  unfold guardMask; exact lt_of_le_of_lt Nat.and_le_left x.active.isLt

/-- A predicate write changes the predicates alone. -/
theorem setPred_eq (x : Group) (p mask v : Nat) : setPred x p mask v = { x with preds := (setPred x p mask v).preds } := by
  unfold setPred; split <;> rfl

/-- An instruction that writes register `d` in every executing lane and nothing else of its group. -/
theorem gxCmd_writes {s : State} {t g w : Nat} {x : Group} (h : GroupReady s t g w x) (sem : Nat → Nat → Group → State → GxOut)
    {d c : Nat} {v : Nat → Nat} {rs : List Nat} (hl : gxListed (gOpc w) = true)
    (hs : sem s.cycle (guardMask x w) x s = gxLocal t g (fun z => setReady (writeReg z (guardMask x w) d v) rs c) s) :
    let u := gxCmd true t g w sem s
    OnlyTile t s u ∧ TileGroups (tileAt s t) (tileAt u t) ∧ ∃ y, groupAt (tileAt u t) g = some y ∧ WritesReg x y w d v := by
  have hf : (setReady (writeReg x (guardMask x w) d v) rs c).stack = [] := by
    rw [writeReg_eq]; exact h.2.2.2.2
  obtain ⟨h1, h2, h3⟩ := gxCmd_local h sem _ hl hs hf
  refine ⟨h1, h2, _, h3, ?_, ?_, ?_⟩
  · unfold GroupOn; rw [writeReg_eq]; rfl
  · rw [writeReg_eq]; rfl
  · intro r lane hlane
    exact gReg_writeReg x (guardMask x w) d v r lane hlane

/-- An instruction that writes predicate `p` in every executing lane and nothing else of its group. -/
theorem gxCmd_writesPred {s : State} {t g w : Nat} {x : Group} (h : GroupReady s t g w x) (sem : Nat → Nat → Group → State → GxOut)
    {p c m : Nat} {v : Nat → Bool} {rs : List Nat} (hl : gxListed (gOpc w) = true)
    (hs : sem s.cycle (guardMask x w) x s = gxLocal t g (fun z => setReady (setPred z p (guardMask x w) m) rs c) s)
    (hm : ∀ i, i < 32 → (guardMask x w).testBit i = true → m.testBit i = v i) :
    let u := gxCmd true t g w sem s
    OnlyTile t s u ∧ TileGroups (tileAt s t) (tileAt u t) ∧ ∃ y, groupAt (tileAt u t) g = some y ∧ WritesPred x y w p v := by
  have hf : (setReady (setPred x p (guardMask x w) m) rs c).stack = [] := by
    rw [setPred_eq]; exact h.2.2.2.2
  obtain ⟨h1, h2, h3⟩ := gxCmd_local h sem _ hl hs hf
  refine ⟨h1, h2, _, h3, ?_, ?_, ?_⟩
  · unfold GroupOn; rw [setPred_eq]; rfl
  · rw [setPred_eq]; rfl
  · intro q lane hlane
    refine (gPred_setPred x p (guardMask x w) m q lane (guardMask_lt ..) hlane).trans ?_
    by_cases hq : q = p ∧ p ≠ 0 ∧ (guardMask x w).testBit lane
    · rw [if_pos hq, if_pos hq, hm lane hlane hq.2.2]
    · rw [if_neg hq, if_neg hq]

end Sys2Proof.Machine
end

