-- ==== Sys2Proof/Tests/Slice0.lean ====
section
/-!
SUPPORT. Small tests: operands that the checks of WellFormed refuse, worked cases of the manual, and for every statement states and operands
that meet its hypotheses (the witnesses). Expected values come from the manual's rules by hand.
-/

namespace Sys2Proof.Tests

set_option Elab.async false

open Sys2Proof Sys2Proof.Machine

/-! ### States to test on -/

/-- A word from its fields, each a value and its lowest bit. -/
def word (fs : List (Nat × Nat)) : Nat := (fs.map (fun f => f.1 * 2 ^ f.2)).sum

/-- The words of the M slot, of 64 bits, and of the C slot. -/
def w80 (fs : List (Nat × Nat)) : BitVec 80 := BitVec.ofNat 80 (word fs)
def w64 (fs : List (Nat × Nat)) : BitVec 64 := BitVec.ofNat 64 (word fs)
def w40 (fs : List (Nat × Nat)) : BitVec 40 := BitVec.ofNat 40 (word fs)

/-- Tile 5, running for partition 0, its stream issuing; every lane names a neighbour of the partition. -/
def tileI : Tile :=
  { tileReset with regs := { tileRegsReset with state := .running, partValid := true }, seq := { seqReset with stream := .issuing, beat := 1 }, nbr := 7 }

/-- A state in cycle 100 whose tile 5 is `x`. -/
def on (x : Tile) : State := { State.reset with cycle := 100, tiles := [(5, x)] }

/-! ### Bundles -/

theorem witness_clear : ReadyToIssue (on tileI) 5 ∧ SlotIssues .m (w80 [(4, 76), (3, 64)]).toNat (on tileI) 5 ∧
    mop (w80 [(4, 76), (3, 64)]).toNat = 4 := by
  unfold ReadyToIssue SlotIssues; decide +kernel

/-- A CLEAR before its cycle, and in it. -/
theorem witness_clear_cycle : let x := { tileI with units := { unitsReset with clears := [⟨3, -3, 100⟩] } }
    x.units.clears = [⟨3, -3, 100⟩] ∧ (clearCycle 99 x).units.clears ≠ [] ∧ (clearCycle 100 x).units.clears = [] := by decide +kernel

/-- The matrix operations with K = 0, and with K at both ends of its range. -/
theorem witness_matrix : ReadyToIssue (on tileI) 5 ∧
    (∀ op, op ∈ [1, 2, 3] → ∀ k, k ∈ [0, 1, 0xFFFF] →
      SlotIssues .m (w80 [(op, 76), (k, 0)]).toNat (on tileI) 5 ∧ mop (w80 [(op, 76), (k, 0)]).toNat = op ∧
      field (w80 [(op, 76), (k, 0)]).toNat 15 0 = k) := by
  unfold ReadyToIssue SlotIssues; decide +kernel

/-- READOUT, IMPORT, SHELL_START with NBLK = 0 and more, STATE_COPY. -/
theorem witness_units : ReadyToIssue (on tileI) 5 ∧
    (∀ x, x ∈ [(0x20, 0), (0x21, 0), (0x22, 0), (0x22, 1), (0x22, 0xFFFF), (0x23, 0)] →
      SlotIssues .v (w64 [(x.1, 58), (x.2, 6)]).toNat (on tileI) 5 ∧ vop (w64 [(x.1, 58), (x.2, 6)]).toNat = x.1 ∧
      (x.1 = 0x22 → field (w64 [(x.1, 58), (x.2, 6)]).toNat 21 6 = x.2)) := by
  unfold ReadyToIssue SlotIssues; decide +kernel

/-- Every vector function, in the format FP32 or INT32 that it has. -/
theorem witness_vector : ReadyToIssue (on tileI) 5 ∧
    ∀ n, 1 ≤ n → n < 30 → ∃ vf, vf ∈ [0, 3] ∧
      SlotIssues .v (w64 [(n, 58), (vf, 55)]).toNat (on tileI) 5 ∧ vop (w64 [(n, 58), (vf, 55)]).toNat = n := by
  unfold ReadyToIssue SlotIssues; decide +kernel

/-- SEND to NRECV with counts at both ends of their ranges, and MOVE without a prune and with one to come. -/
theorem witness_sends :
    (∀ x, x ∈ [(1, 35, 1), (1, 35, 64), (2, 35, 1), (2, 35, 64), (3, 33, 1), (3, 33, 32), (4, 33, 1), (4, 33, 32), (5, 0, 0)] →
      SlotIssues .x (w64 [(x.1, 60), (x.2.2, x.2.1)]).toNat (on tileI) 5 ∧ xop (w64 [(x.1, 60), (x.2.2, x.2.1)]).toNat = x.1) ∧
    ReadyToIssue (on tileI) 5 ∧ (tileAt (on tileI) 5).prune = none ∧
    (let p := { tileI with prune := some (4096, false) }
     ReadyToIssue (on p) 5 ∧ SlotIssues .x (w64 [(5, 60)]).toNat (on p) 5 ∧ (tileAt (on p) 5).prune ≠ none) := by
  unfold ReadyToIssue SlotIssues; decide +kernel

/-- LOOP with counts 0 and more, BRC on a zero and a nonzero register, ADDI to a0 and a31, SETL, ENV at both ends, SCOPE. -/
theorem witness_control_registers :
    let x := { tileI with seq := { tileI.seq with l := [(1, 2 ^ 24 - 1)], a := [(31, 2 ^ 48 - 1)] } }
    ReadyToIssue (on x) 5 ∧ (tileAt (on x) 5).seq.loops = [] ∧ getL x.seq 0 = 0 ∧ 0 < getL x.seq 1 ∧ getL x.seq 1 < 2 ^ 24 ∧
    (∀ y, y ∈ [(1, [(1, 21)]), (1, [(1, 21), (5, 0)]), (2, [(0, 33)]), (2, [(1, 33)]), (7, [(0, 31)]), (7, [(31, 31), (31, 26)]),
        (8, [(7, 33)]), (9, [(1, 29)]), (9, [(64, 29)]), (10, [(2, 34)])] →
      SlotIssues .c (w40 ((y.1, 36) :: y.2)).toNat (on x) 5 ∧ cop (w40 ((y.1, 36) :: y.2)).toNat = y.1) := by
  unfold ReadyToIssue SlotIssues; decide +kernel

/-- WAIT for a counter that has its threshold, GRANT of no cycle and of the most, MARK, EPOCH, PHASE, END. -/
theorem witness_control_stream :
    ReadyToIssue (on tileI) 5 ∧ (tileAt (on tileI) 5).seq.loops = [] ∧ (tileAt (on tileI) 5).cnt.stopped = false ∧
    (∀ y, y ∈ [(3, 0), (4, 0), (4, 0xFFFF * 2 ^ 20), (5, 0), (6, 0), (11, 0), (12, 0)] →
      SlotIssues .c (w40 [(y.1, 36), (y.2, 0)]).toNat (on tileI) 5 ∧ cop (w40 [(y.1, 36), (y.2, 0)]).toNat = y.1) := by
  unfold ReadyToIssue SlotIssues; decide +kernel

/-- A WAIT below its threshold, and an MMA of a reserved format. -/
theorem witness_hold_and_illegal :
    let x := { tileI with seq := { tileI.seq with a := [(1, 64)] } }
    let w := (w40 [(3, 36), (1, 25)]).toNat
    ReadyToIssue (on x) 5 ∧ cop w = 3 ∧ slotLegal (tileAt (on x) 5).nbr.getLsbD .c w = true ∧
    acSeen 100 (tileAt (on x) 5) (field w 35 30) < getA (tileAt (on x) 5).seq (field w 29 25) ∧
    mop (w80 [(1, 76), (8, 72)]).toNat = 1 ∧ slotLegal (tileAt (on x) 5).nbr.getLsbD .m (w80 [(1, 76), (8, 72)]).toNat = false := by
  unfold ReadyToIssue; decide +kernel

/-! ### Thread groups -/

/-- Group 3 of tile 5, all lanes active, with registers 0 to 31 free for use. -/
def groupG : Group :=
  { num := 0, cohort := 0, rpt := 4, glBase := 0, glSize := 0, regs := [], preds := [], active := 0xFFFFFFFF, exited := 0, stack := [],
    pc := 0, ready := [], pend := .none, since := 0, waitUs := 0, issueUs := 0, holding := false, stopped := false }

/-- Tile 5 with that group in its active set. -/
def tileG (x : Group) : Tile := { tileI with ge := { geReset with groups := [(3, some x)], activeSet := [(0, some (3, 0))] } }

theorem ready_all (x : Group) (h : x.ready = []) (n : Nat) : ∀ r, readyAt x r ≤ n := fun r => by simp [readyAt, h]

/-- That group is ready for the instruction of word `w` in cycle 100. -/
theorem ready_group (w : Nat) (h : gxPick 100 (tileG groupG) 3 w = some 3) : GroupReady (on (tileG groupG)) 5 3 w groupG :=
  ⟨⟨0, 0, by decide +kernel⟩, h, ready_all groupG rfl _, by decide +kernel, rfl⟩

/-- Every vector function in format R, and those that have it in format I, in the format FP32 or INT32 that it has. -/
theorem witness_gx_vector :
    regCount groupG = 32 ∧
    (∀ n, 1 ≤ n → n < 30 → ∃ vf, vf ∈ [0, 3] ∧ gOpc (w64 [(n, 56), (vf, 49)]).toNat = n ∧ gFmt (w64 [(n, 56), (vf, 49)]).toNat = vf ∧
      vecFmtOk n vf = true ∧ field (w64 [(n, 56), (vf, 49)]).toNat 8 0 = 0 ∧ gxPick 100 (tileG groupG) 3 (w64 [(n, 56), (vf, 49)]).toNat = some 3) ∧
    (∀ n, 1 ≤ n → n < 30 → vecThirdSource n = false → n ≠ 9 → ∃ vf, vf ∈ [0, 3] ∧
      gOpc (w64 [(n + 0x80, 56), (vf, 49)]).toNat = 0x80 + n ∧ vecFmtOk n vf = true ∧ gFmt (w64 [(n + 0x80, 56), (vf, 49)]).toNat ≤ 4 ∧
      gxPick 100 (tileG groupG) 3 (w64 [(n + 0x80, 56), (vf, 49)]).toNat = some 3) := by
  decide +kernel

/-- NOP, MOVI, RDSPEC of every special value, SETP of every relation, PLOG of every operation, VOTE, SHFL of every mode, LFOLD of both formats
and of the shortest and the longest segment. -/
theorem witness_gx_moves :
    regCount groupG = 32 ∧ (∀ p, gPred groupG p < 2 ^ 32) ∧
    (∀ y, y ∈ [[(0x20, 56), (31, 41)], [(0, 56)], [(0x21, 56)], [(0x21, 56), (7, 33)], [(0x22, 56), (3, 49)], [(0x22, 56), (5, 14)],
        [(0x23, 56)], [(0x23, 56), (4, 14)], [(0x24, 56)], [(0x25, 56)], [(0x25, 56), (3, 15)]] →
      gxPick 100 (tileG groupG) 3 (w64 y).toNat = some 3 ∧ gOpc (w64 y).toNat = (y.headD (0, 0)).1 ∧ gD (w64 y).toNat < 32 ∧
      (gOpc (w64 y).toNat ≠ 0x20 → rFormOk (w64 y).toNat = true) ∧ gS1 (w64 y).toNat < 8) ∧
    (∀ f, f ∈ [(0, 2), (3, 5)] → ∀ l, l ∈ [1, 5] → let w := (w64 [(0x26, 56), (f.1, 49), (f.2, 14), (l, 11)]).toNat
      gxPick 100 (tileG groupG) 3 w = some 3 ∧ gOpc w = 0x26 ∧ field w 8 0 = 0 ∧ gFmt w = f.1 ∧ field w 16 14 = f.2 ∧ field w 13 11 = l) := by
  refine ⟨by decide +kernel, fun p => ?_, by decide +kernel, by decide +kernel⟩
  unfold gPred groupG; split <;> simp

/-- The operands of the integer functions at the ends of their range. -/
theorem witness_integers : (0 : Nat) < 2 ^ 32 ∧ 2 ^ 32 - 1 < 2 ^ 32 := by decide

/-- FMA on three banks, before its read and before its write. -/
theorem witness_vector_read :
    let j : VecJob := ⟨99, 4, 0, 0, 256, 0, 128, [], 0, ⟨0, 0, 0, 0xFF⟩⟩
    let x := { tileI with units := { unitsReset with vecs := [j] } }
    x.units.vecs = [j] ∧ x.units.p1Cycle ≠ j.t + 1 ∧ x.units.p1Cycle ≠ j.t + 4 ∧ vecOneSource 4 = false ∧ vecThirdSource 4 = true ∧
    ([0, 128, 256] : List Nat).Pairwise (fun a b => ∀ k ∈ banksOf a 128, k ∉ banksOf b 128) ∧
    ∀ a ∈ [0, 128, 256], poisoned x a 128 = false := by
  decide +kernel

/-- An accumulation that may complete on a bank of any W, on its bank's W, and on another. -/
theorem witness_accumulation :
    ∀ w, w ∈ [none, some 0, some 5] → ∃ j : MmaJob, j.w = w ∧ j.k = 1 ∧
      ({ tileI with units := { unitsReset with adds := [(100, j)] } } : Tile).units.adds = [(100, j)] ∧
      (bankAt { tileI with units := { unitsReset with adds := [(100, j)] } } j.bank).w = 0 :=
  fun w _ => ⟨⟨0, w, 0, 0, false, false, 0, 0, 0, 0, 1, 0, 0, 0, 0, 0, [], [], [], [], none, ⟨0, 0, 0, 0xFF⟩⟩, rfl, rfl, rfl, rfl⟩

/-- A load by four bytes from LS and from group-local memory, executing lanes or none, and a store. -/
theorem witness_gx_loads :
    let x := { groupG with glSize := 64 }
    let y := tileG x
    (∀ sp, sp ∈ [1, 2] → ∀ o, o ∈ [0x30, 0x31] → ∀ g, g ∈ [0, 1] →
      let w := (w64 [(o, 56), (g, 53), (1, 41), (2, 33), (2, 49), (sp, 11)]).toNat
      gOpc w = o ∧ mSpace w ≠ 0 ∧ gxPick 100 y 3 w = some 3 ∧ memOk (decide (o = 0x30)) x w = true ∧ mOrd w ≠ 2 ∧
      (lsLanes y x (mSpace w) (gS1 w) (2 ^ mSize w) (mOfs w) (lanesOf (guardMask x w)) =
        some (if g = 1 then [] else (List.range 32).map (fun i => (i, 0))))) := by
  decide +kernel

/-- A load and a store of two lanes in the pipe, their sector's bank free. -/
theorem witness_pipe :
    ∀ l, l ∈ [true, false] →
      let o : PipeOp := ⟨3, l, [(0, 64, [1, 2, 3, 4]), (1, 68, [5, 6, 7, 8])], [64], 5, 2, 0, 3, false⟩
      let x := { tileG groupG with ge := { (tileG groupG).ge with pipe := [o] } }
      x.ge.pipe = [o] ∧ o.load = l ∧ bankTaken 100 7 (banksOf 64 32) x = false ∧ (∀ m ∈ o.lanes, m.2.1 / 32 = 64 / 32 ∧ m.1 < 32) ∧
      (o.lanes.map (·.1)).Nodup ∧ groupAt x o.g = some groupG ∧ (∀ m ∈ o.lanes, poisoned x m.2.1 4 = false) ∧
      (∀ m ∈ o.lanes, m.2.2.length = 2 ^ o.size) := by
  decide +kernel

/-- Partition 0 has 64 KiB of device memory, mapped at 0 for reads and writes. -/
def rangeE : Nat := word [(16, 152), (1, 13), (1, 12)]
def mapped (x : Tile) : State :=
  { on x with parts := [(0, { partReset with state := 2, dmSize := 65536 })], xl := [(0, { xlReset with table := [(0, rangeE)] })] }

/-- ATOM, ATOMN of an address that every lane names, LADD of its line. -/
theorem witness_gx_atomics :
    (∀ o, o ∈ [0x40, 0x41, 0x42] →
      let w := (w64 [(o, 56), (2, 49), (8, 41), (2, 33), (4, 25)]).toNat
      gOpc w = o ∧ gxPick 100 (tileG groupG) 3 w = some 3 ∧ field w 7 0 = 0 ∧ gS1 w = 2 ∧ gS2 w = 4 ∧ gD w = 8 ∧ mSize w = 2 ∧ aAop w = 0 ∧
      aOrd w < 2 ∧ guardMask groupG w = 2 ^ 32 - 1) ∧
    regCount groupG = 32 ∧ converged groupG = true ∧
    (translateLanes (mapped (tileG groupG)) 0 ⟨true, true⟩ groupG 2 0 (lanesOf (2 ^ 32 - 1))).toOption =
      some ((List.range 32).map (fun i => ⟨i, 0, 0⟩)) ∧
    (translateLanes (mapped (tileG groupG)) 0 ⟨true, true⟩ groupG 2 0 [0]).toOption = some [⟨0, 0, 0⟩] := by
  decide +kernel

/-- Tile 5 with a kernel at LS 64, a launch record of `n` groups at LS 0, and that group of a cohort of `live` groups. -/
def tileK (n live : Nat) : Tile :=
  { tileG groupG with
    ls := if n = 0 then [(68, 0x40)] else [(5, 0x80), (68, 0x40)]
    kernOff := 64, kernN := 1, moverGe := 15
    ge := { (tileG groupG).ge with cohorts := [⟨0, 0, 2, live, []⟩] } }

/-- BAR with a group missing and with all there, WAITAC, RDAC, MOVEG, SPAWN of no group and of one. -/
theorem witness_gx_synchronisation :
    let op (o : Nat) : Nat := (w64 [(o, 56)]).toNat
    converged groupG = true ∧ regCount groupG = 32 ∧ groupG.pend = .none ∧ (∀ o, o ∈ [0x50, 0x51, 0x52, 0x53, 0x54] →
      gOpc (op o) = o ∧ rFormOk (op o) = true ∧ guardMask groupG (op o) ≠ 0 ∧ gS1 (op o) = 0 ∧ gS2 (op o) = 0 ∧ gD (op o) = 0) ∧
    (∀ n, n ∈ [0, 1] → ∀ live, live ∈ [1, 2] → let z := tileK n live
      (∀ o, o ∈ [0x50, 0x51, 0x52, 0x53, 0x54] → gxPick 100 z 3 (op o) = some 3) ∧
      storing z 3 = false ∧ writesOut z 3 = false ∧ z.ge.cohorts.find? (·.id = 0) = some ⟨0, 0, 2, live, []⟩ ∧
      recGroups 0 ≤ residentLimit z (kernelEntry z (recKernel 0)) ∧ (fmGet [] ([] : FMap (List Nat)) 0).length + 1 = 1 ∧
      z.prune = none ∧ z.moverGe.getLsbD 0 = true ∧ gReg groupG 0 (lowLane groupG) = 0 ∧ inLs z 0 64 = true ∧
      (moverAt z 0).queue.length < 15 ∧ bankTaken 100 7 (banksOf 0 8) z = false ∧ poisoned z 0 8 = false ∧
      (let r := BitVec.ofNat 64 (leNat (memRead z.ls 0 8))
       field r.toNat 46 44 = 0 ∧ kernelEntry z (recKernel r) ≠ 0 ∧ recGroups r = n) ∧ z.ge.launchQ.length < 32) := by
  decide +kernel

/-- BR with no lane, with all and with some guarded on, to a target off the reconvergence point; EXIT of some lanes and of all. -/
theorem witness_gx_control :
    let x := { groupG with preds := [(1, 1)] }
    (∀ g, g ∈ [0, 1, 2] → let w := (w64 [(0x60, 56), (g, 53), (4, 24), (9, 0)]).toNat
      gOpc w = 0x60 ∧ field w 51 48 = 0 ∧ gxPick 100 (tileG x) 3 w = some 3 ∧
      guardMask x w = (if g = 0 then x.active.toNat else if g = 1 then 1 else 0) ∧ field w 47 24 = 4 ∧ field w 23 0 = 9) ∧
    (∀ g, g ∈ [0, 1] → let w := (w64 [(0x61, 56), (g, 53)]).toNat
      gOpc w = 0x61 ∧ rFormOk w = true ∧ gxPick 100 (tileG x) 3 w = some 3 ∧ (guardMask x w = x.active.toNat ↔ g = 0)) := by
  decide +kernel

/-- GMMA and GREAD at their issue and waiting: without a grant, with one too short and with one long enough. -/
theorem witness_gx_matrix :
    let wm := (w64 [(0x70, 56), (4, 2)]).toNat
    let wr := (w64 [(0x71, 56)]).toNat
    complete groupG = true ∧ regCount groupG = 32 ∧
    gOpc wm = 0x70 ∧ field wm 55 53 = 0 ∧ wm.testBit 52 = false ∧ field wm 51 48 < 6 ∧ field wm 47 44 < 6 ∧ field wm 1 0 = 0 ∧
    field wm 41 34 < 32 ∧ field wm 33 26 < 32 ∧ field wm 25 18 + 1 < 32 ∧ field wm 17 2 = 4 ∧
    gOpc wr = 0x71 ∧ field wr 55 53 = 0 ∧ wr.testBit 52 = false ∧ field wr 51 50 = 0 ∧ field wr 40 0 = 0 ∧ gD wr < 32 ∧
    (∀ last, last ∈ [none, some 105, some 1000] → let z := { tileG groupG with seq := { tileI.seq with grant := last.map (fun l => (90, l, 1)) } }
      gxPick 100 z 3 wm = some 3 ∧ gxPick 100 z 3 wr = some 3 ∧ storing z 3 = false ∧ mmaInLs z (gmmaJob groupG wm 3 100 0) = true ∧
      inLs z (gReg groupG (gD wr) (lowLane groupG) / 64 * 64) (64 * (readBeats 0 + 1)) = true ∧ z.units.mmas = [] ∧ z.units.reads = [] ∧
      z.seq.arrayBusy ≠ 101 ∧ lentTurn z 101 3 = true) ∧
    (100 + field wm 17 2 + 7 ≤ 1000 ∧ 105 < 100 + field wm 17 2 + 7 ∧ 100 + readBeats 0 + 3 ≤ 1000 ∧ 105 < 100 + readBeats 0 + 3) ∧
    (∀ p, p ∈ [Pend.gmma wm, .gread wr] → ∀ last, last ∈ [105, 1000] →
      let x := { groupG with pend := p }
      let z := { tileG x with seq := { tileI.seq with grant := some (90, last, 1) } }
      computing z = true ∧ z.ge.stopped = false ∧ x.stopped = false ∧ groupAt z 3 = some x ∧ lentTurn z 101 3 = true ∧
      z.units.mmas = [] ∧ z.units.reads = [] ∧ z.seq.arrayBusy ≠ 101) := by
  decide +kernel

/-- A job that waits and makes progress within 10 µs, killed without a relaunch. -/
def jobJ : Job :=
  { lockstep := false, tag := 0, t0 := 0, waitUs := 10, forwardUs := 10, watchdogMs := 0, stream := none, trace := none, traced := false,
    step := 0, open_ := [], phase := 0, readyAt := 0, started := true }
def ofJob (x : Tile) : State :=
  { on x with us := 20, parts := [(0, { partReset with state := 4, job := some jobJ })], ctl := { State.reset.ctl with vals := [(256 * 0x9020 + 1, some [0])] } }

theorem kills_plainly (x : Tile) : KillsPlainly (ofJob x) 0 := by
  have h : sampled (ofJob x) 1 = sampled (ofJob tileI) 1 ∧ dictNat (ofJob x) 0x9020 1 3 = dictNat (ofJob tileI) 0x9020 1 3 := ⟨rfl, rfl⟩
  exact ⟨h.1.trans (by decide +kernel), rfl, h.2.trans (by decide +kernel)⟩

/-- A group of a cohort of two becomes resident; a released one waits; a group beyond its limit; a job to kill. -/
theorem witness_gx_residency :
    (let z := { tileK 0 0 with ge := { geReset with cohorts := [⟨0, BitVec.ofNat 64 (2 * 2 ^ 47), 1, 2, []⟩] } }
     computing z = true ∧ z.ge.stopped = false ∧ z.ge.groups = [] ∧ z.ge.activeSet = [] ∧
     1 < recGroups (BitVec.ofNat 64 (2 * 2 ^ 47)) ∧ kernelEntry z (recKernel (BitVec.ofNat 64 (2 * 2 ^ 47))) ≠ 0 ∧
     0 < residentLimit z (kernelEntry z (recKernel (BitVec.ofNat 64 (2 * 2 ^ 47))))) ∧
    (let x := { groupG with pend := .released }
     let z := { tileI with ge := { geReset with groups := [(3, some x)] } }
     computing z = true ∧ z.ge.groups = [(3, some x)] ∧ z.ge.activeSet = [] ∧ x.stopped = false) ∧
    jobOf (ofJob (tileG groupG)) 5 = some jobJ ∧ groupAt (tileAt (ofJob (tileG groupG)) 5) 3 = some groupG ∧
    (groupG.issueUs + jobJ.forwardUs ≤ (ofJob (tileG groupG)).us) ∧ (partAt (ofJob (tileG groupG)) 0).job ≠ none ∧
    KillsPlainly (ofJob (tileG groupG)) 0 :=
  ⟨by decide +kernel, by decide +kernel, by decide +kernel, by decide +kernel, by decide +kernel, by decide +kernel, kills_plainly _⟩

/-! ### Tiles: time, jobs, prunes -/

/-- Every ready bit is set: the compute clock runs and the host has a link. -/
def awake (s : State) : State := { s with boot := { s.boot with ready := 0xFFFFFFFF } }

/-- A tile of partition 0 that is idle. -/
def idleI : Tile := { tileReset with regs := { tileRegsReset with state := .idle, partValid := true } }

/-- An accumulation due in the next cycle, an array held by its ramp, a bank of an idle tile, on a quiet device. -/
theorem witness_tile_time :
    let j : MmaJob := ⟨0, none, 0, 0, false, false, 0, 0, 0, 0, 1, 0, 0, 0, 0, 101, [], [], [], [], none, ⟨0, 0, 0, 0xFF⟩⟩
    (let z := { tileI with units := { unitsReset with adds := [(101, j)] } }
     Quiet (awake (on z)) ∧ computing z = true ∧ z.units.adds = [((awake (on z)).cycle + 1, j)]) ∧
    (let z := { tileI with units := { unitsReset with mmas := [j] }, seq := { tileI.seq with env := 1, rampTick := 1, rampB := 1 } }
     Quiet (awake (on z)) ∧ (holdFields 100 (tileAt (awake (on z)) 5)).1 = 5) ∧
    (Quiet (awake (on idleI)) ∧ computing idleI = false ∧ idleI.units.p1Cycle ≤ 100 ∧ idleI.cnt.recs = []) ∧
    (tileAt (on { tileI with seq := { tileI.seq with grant := some (10, 99, 1) } }) 5).seq.grant = some (10, 99, 1) := by
  unfold Quiet; decide +kernel

/-- A WAIT whose counter has its threshold; one that has not, and a stall of each kind, beyond the job's limit. -/
theorem witness_timeouts :
    (∀ h, h ∈ [Hold.counter 0 0, .counter 0 64, .mover, .sendQueue, .posts] →
      let z := ofJob { tileI with seq := { tileI.seq with hold := h } }
      jobOf z 5 = some jobJ ∧ owedFaults z 0 = [] ∧ (partAt z 0).faults.faults = [] ∧ (tileAt z 5).seq.hold = h ∧
      (tileAt z 5).seq.holdUs + jobJ.waitUs ≤ z.us ∧ acNow (tileAt z 5) 0 = 0) ∧
    ∀ x, KillsPlainly (ofJob x) 0 :=
  ⟨by decide +kernel, kills_plainly⟩

/-- An image of one bundle for tile 5, with one later phase. -/
def imageI : Image :=
  { tiles := [⟨5, 0, [], [], 0, [], [0, 0, 0, 0], 0, []⟩], phases := [[⟨5, 32, [], [0, 64], [3], 2, 64⟩]], slots := [], laterSlots := [], ports := [],
    declF := [], needs := [], peak := [], traced := [], tolerant := false, layoutOk := true, lockstep := false, modelTag := 0,
    svc := ⟨0, 0, 1, 1, 0, 0, 5, 0, 0, 0, 0, 0, none, 0, 0⟩ }

/-- Partition 0 exists, with tiles 5 and 6, which are idle. -/
def owned : State := { on idleI with tiles := [(5, idleI), (6, idleI)], parts := [(0, { partReset with state := 2 })] }

/-- A launch that passes its checks, and one of an image that is no legal layout. -/
theorem witness_launch :
    partExists owned 0 = true ∧ (partAt owned 0).job = none ∧ launchOk owned 0 imageI false = true ∧
    launchOk owned 0 { imageI with layoutOk := false } false = false ∧ (tileAt owned 5).regs.state = .idle ∧ inPart owned 0 6 = true ∧
    (tileAt owned 6).regs.state = .idle ∧ ∀ x ∈ imageI.tiles, x.tile ≠ 6 := by
  decide +kernel

/-- The same partition in cycle 512 with a job of that image, its tile's stream being `st`. -/
def jobbed (st : Stream) (state : TileState) : State :=
  { on { tileI with regs := { tileI.regs with state := state }, seq := { tileI.seq with stream := st } } with
    cycle := 512, parts := [(0, { partReset with state := 4, job := some jobJ, image := some imageI })] }

/-- A tile armed for the frame; at its phase's end; still issuing, done, pruned. -/
theorem witness_jobs :
    (∀ st ∈ [TileState.loading, .running], let s := jobbed (.armed 1) st
      (partAt s 0).job = some jobJ ∧ s.cycle = 512 * 1 ∧ jobJ.readyAt ≤ s.cycle ∧ jobTiles s 0 = [5] ∧
      (tileAt s 5).seq.stream = .armed 1 ∧ (tileAt s 5).regs.state = st) ∧
    (let s := jobbed (.phaseEnd true) .running
     (partAt s 0).image = some imageI ∧ imageI.phases[jobJ.phase]? = some [⟨5, 32, [], [0, 64], [3], 2, 64⟩] ∧
     ([⟨5, 32, [], [0, 64], [3], 2, 64⟩] : List PhaseTile).map (·.tile) = [5] ∧ jobTiles s 0 = [5] ∧ (tileAt s 5).regs.state = .running ∧
     (tileAt s 5).seq.stream = .phaseEnd true) ∧
    (tileAt (jobbed .issuing .running) 5).seq.stream = .issuing ∧ (tileAt (jobbed (.ended true) .running) 5).seq.stream = .ended true ∧
    (tileAt (jobbed .halted .pruned) 5).regs.state = .pruned ∧ inPart (jobbed (.ended true) .running) 0 5 = true := by
  decide +kernel

/-- The hub's own tile on die 0, running, and the header of a PRUNE to it. -/
def hub0 : Nat := hubTile 0
def hubbed (x : Tile) : State := awake { State.reset with cycle := 100, tiles := [(hub0, x)] }
def header (typ cls len tag : Nat) : BitVec 32 := BitVec.ofNat 32 (word [(typ, 28), (cls, 26), (hub0, 13), (len, 5), (tag, 0)])

/-- PRUNE that was asked for; TILE_PRUNE; frame F for a job that tolerates it and one that does not; write-backs done, left, and left too long. -/
theorem witness_prune :
    (let s := hubbed { tileI with tolerant := true }
     let s := { s with esp := { s.esp with pruneAsked := [hub0] } }
     let h := header 1 0 0 0
     let z := twigArrive (twLen h) [hub0] (fun _ x => x) s
     twType h = 1 ∧ twClass h = 0 ∧ twDest h = hub0 ∧ dieOf hub0 = 0 ∧ twigUp z hub0 = true ∧ z.esp.pruneAsked.contains hub0 = true ∧
     watched (tileAt z hub0) = true ∧ (tileAt z hub0).prune = none) ∧
    (let s := hubbed tileI
     let z := nextCycle (fun x => x) s
     (1 : BitVec 32).getLsbD 0 = true ∧ twigUp z hub0 = true ∧ watched (tileAt z hub0) = true ∧ (tileAt z hub0).prune = none ∧
     (tileAt z hub0).regs.state ≠ .loading) ∧
    (∀ b, b ∈ [true, false] → let z := { tileI with tolerant := b, prune := some (64, false) }
      (tileAt (ofJob z) 5).prune = some (64, false) ∧ 64 ≤ (ofJob z).cycle ∧ (tileAt (ofJob z) 5).regs.partValid = true ∧ z.tolerant = b) ∧
    (tileAt (on { tileI with prune := some (0, true) }) 5).prune = some (0, true) ∧ tileI.l1.wbs = [] ∧ dirtyLines tileI = [] ∧
    (let l : L1Line := { l1LineReset with st := .m }
     dirtyLines { tileI with l1 := { l1Reset with lines := [(7, l)] } } ≠ []) ∧
    0 + 128000 ≤ { on tileI with cycle := 128000 }.cycle := by
  decide +kernel

theorem witness_link : LinkUp (hubbed tileI) := by unfold LinkUp; decide +kernel

/-! ### Espalier and Twig -/

/-- Tile 5 with entry `e` of output E in the slot of cycle 100. -/
def routing (e : Nat) (x : Tile) : Tile := { x with router := { x.router with active := [(slotKey 1 100, BitVec.ofNat 8 e)] } }

/-- An idle entry; the local port with null outputs and with a queued flit; the west input with a flit that arrives. -/
theorem witness_slot_entry :
    (entryAt (on (routing 0 tileI)) 5 1 100 = 0) ∧ outTile 5 1 = some 6 ∧ crosses 5 6 = false ∧ fmGet 0 tileI.router.served 1 ≠ 101 ∧
    tileI.regs.state ≠ .off ∧ tileI.cnt.traced = false ∧
    (let y := routing 0x60 { tileI with nullOut := true }
     let e := entryAt (on y) 5 1 100
     field e 7 6 = 1 ∧ field e 5 3 = 4 ∧ y.nullOut = true) ∧
    (let y := routing 0x60 { tileI with ports := [(0, ⟨[⟨64, 99⟩], [], []⟩)] }
     let e := entryAt (on y) 5 1 100
     field e 7 6 = 1 ∧ field e 5 3 = 4 ∧ y.nullOut = false ∧ (portAt y 0).sendq = ⟨64, 99⟩ :: [] ∧ 99 < 100) ∧
    (let w : Wire := ⟨5, 3, 100, ⟨1, false, 0, false, 0, 0, zeros 64⟩⟩
     let s := { on (routing 0x58 tileI) with wires := [w] }
     let e := entryAt s 5 1 100
     field e 7 6 = 1 ∧ field e 5 3 = 3 ∧ wireAt s 5 3 100 = some w ∧ w.flit.kind ≠ 0) := by
  decide +kernel

/-- A flit and a lane unit with a post that counts, one that does not, none, and none at a full ring. -/
theorem witness_landing :
    (∀ l, l ∈ [none, some (1 : Dir)] →
      let p := match l with
        | none => 0
        | some d => 1 + d.val
      let n := unitBytes p
      (on tileI).wires = [] ∧ (zeros n).length = n ∧ tileI.regs.state = .running ∧ tileI.cnt.stopped = false ∧
      (∀ ac, ac ∈ [none, some 3] → let y := { tileI with ports := [(p, ⟨[], [⟨0, ac, 99⟩], []⟩)] }
        (portAt y p).ring = [] ∧ (portAt y p).posts = [⟨0, ac, 99⟩] ∧ 99 < (on y).cycle) ∧
      (portAt tileI p).posts = [] ∧ (portAt tileI p).ring.length < ringSize p ∧
      (let y := { tileI with ports := [(p, ⟨[], [], List.replicate (ringSize p) ⟨[], false, false⟩⟩)] }
       (portAt y p).posts = [] ∧ (portAt y p).ring.length = ringSize p)) := by
  decide +kernel

/-- A dynamic slot of partition 0 with nothing to send, with a flit for tile 6, and with one but no room there. -/
theorem witness_dynamic :
    let f : Flit := ⟨2, false, 1, true, 0, 6, zeros 64⟩
    let y := routing 0x80 { tileI with router := { routerReset with dyn := [(4 * 8 + 1, [f])] } }
    let full := { tileI with router := { routerReset with dyn := [(4 * 3 + 1, List.replicate 8 f)] } }
    field (entryAt (on (routing 0x80 tileI)) 5 1 100) 7 6 = 2 ∧ field (entryAt (on (routing 0x80 tileI)) 5 1 100) 5 1 = 0 ∧
    fmGet 0 y.router.served 1 ≠ 101 ∧ y.regs.state ≠ .off ∧
    pickDyn (on (routing 0x80 tileI)) 5 1 0 = none ∧ pickDyn (on y) 5 1 0 = some (8, 1) ∧ hasCredit (on y) 5 1 1 = true ∧
    dynBuf y.router 8 1 = [f] ∧
    pickDyn { on y with tiles := [(5, y), (6, full)] } 5 1 0 = some (8, 1) ∧ hasCredit { on y with tiles := [(5, y), (6, full)] } 5 1 1 = false := by
  decide +kernel

/-- A header as `HubTo` asks, from the hub of die 0 to its own tile. -/
theorem hub_to (typ cls len tag : Nat) (ht : twType (header typ cls len tag) = typ) (hc : twClass (header typ cls len tag) = cls)
    (hd : twDest (header typ cls len tag) = hub0) : HubTo (header typ cls len tag) 0 ⟨hub0, by decide⟩ typ cls :=
  ⟨ht, hc, hd, by decide +kernel⟩

/-- TABLE_WR of the last slots; SWAP with its lead; a swap that is due, on an output that the partition owns. -/
theorem witness_tables :
    twLen (header 0xC 2 2 0) = 2 ∧ HubTo (header 0xC 2 2 0) 0 ⟨hub0, by decide⟩ 0xC 2 ∧ HubTo (header 0x6 0 1 0) 0 ⟨hub0, by decide⟩ 0x6 0 ∧
    (let w : BitVec 32 := BitVec.ofNat 32 (word [(1, 9), (511, 0)])
     hasOutput hub0 (field w.toNat 12 9) = true ∧ field w.toNat 8 0 = 511) ∧
    twigUp (hubState (header 0xC 2 2 0) ⟨hub0, by decide⟩ (hubbed tileI)) hub0 = true ∧ (hubbed tileI).cycle / 512 + 2 ≤ 2 ∧
    (let y := { tileI with router := { routerReset with shadow := [(slotKey 1 0, 0x60)] } }
     let s := { on y with cycle := 1024, tiles := [(5, y), (6, tileI)], esp := { State.reset.esp with swaps := [(0, some 2)] } }
     s.esp.swaps = [(0, some 2)] ∧ 512 * 2 ≤ s.cycle ∧ inPart s 0 5 = true ∧ hasTable s 0 5 1 = true ∧ fmWf 0 (tileAt s 5).router.shadow = true) := by
  refine ⟨by decide +kernel, hub_to _ _ _ _ ?_ ?_ ?_, hub_to _ _ _ _ ?_ ?_ ?_, ?_⟩ <;> decide +kernel

/-- A heartbeat in its turn; four periods without one; a probe and a second one without an answer; a failing router and node. -/
theorem witness_heartbeats :
    (let s := hubbed { tileI with reports := [.heartbeat 3 1 2] }
     (tileAt s hub0).reports.find? isBeat = some (.heartbeat 3 1 2) ∧ reportTurn s hub0 (.heartbeat 3 1 2) = true) ∧
    (∀ n, n ∈ [0, 1, 2] →
      let s := { hubbed tileI with cycle := 262144, esp := { State.reset.esp with probes := [(hub0, n)].filter (fun x => x.2 ≠ 0) } }
      watched (tileAt s hub0) = true ∧ fmGet 0 s.esp.probes hub0 = n ∧ fmGet 0 s.esp.beatAt hub0 + 262144 ≤ s.cycle ∧
      fmGet 0 s.esp.probeAt hub0 + 2048 ≤ s.cycle ∧ (tileAt s hub0).reports.any isReply = false ∧ s.parts = []) ∧
    (tileAt (ofJob tileI) 5).regs.state ≠ .off := by
  decide +kernel

theorem witness_router_fault : ∀ x ∈ (ofJob tileI).parts, KillsPlainly (ofJob tileI) x.1 := fun _ h => by
  cases List.mem_singleton.1 h; exact kills_plainly _

/-- FENCE, KILL and START of a loading tile whose node works; a reserved type and a wrong class; a fence that is done. -/
theorem witness_orders :
    (∀ x, x ∈ [(2, 0), (4, 0), (5, 1)] → twType (header x.1 0 x.2 0) = x.1 ∧ twClass (header x.1 0 x.2 0) = 0 ∧ twDest (header x.1 0 x.2 0) = hub0 ∧
      twigUp (hubState (header x.1 0 x.2 0) ⟨hub0, by decide⟩ (hubbed tileI)) hub0 = true) ∧
    (let y := { idleI with regs := { idleI.regs with state := .loading } }
     let z := hubState (header 5 0 1 0) ⟨hub0, by decide⟩ (hubbed y)
     (tileAt z hub0).regs.state = .loading ∧ (tileAt z hub0).seq.stream = .idle ∧ (hubbed y).cycle / 512 + 2 ≤ 2) ∧
    twType (header 0xF 0 0 0) = 0xF ∧ twType (header 2 1 0 0) = 2 ∧ twClass (header 2 1 0 0) ≠ 0 ∧
    (let y := { tileI with router := { routerReset with fence := true } }
     let s := hubbed y
     (tileAt s hub0).router.fence = true ∧ (tileAt s hub0).router.prog = [] ∧
     reportTurn (updTile s hub0 (fun y => { y with reports := y.reports ++ [.fenceDone] })) hub0 .fenceDone = true) := by
  decide +kernel

/-- Reads, writes and launch records at a tile with a kernel and at one with none; a value, a fault and an internal error to report. -/
theorem witness_twig_registers :
    (∀ x, x ∈ [(7, 1), (8, 2), (11, 2)] → twType (header x.1 2 x.2 0) = x.1 ∧ twClass (header x.1 2 x.2 0) = 2 ∧
      twDest (header x.1 2 x.2 0) = hub0 ∧ twigUp (hubState (header x.1 2 x.2 0) ⟨hub0, by decide⟩ (hubbed (tileK 0 0))) hub0 = true) ∧
    (let z := tileAt (hubState (header 11 2 2 0) ⟨hub0, by decide⟩ (hubbed (tileK 0 0))) hub0
     kernelEntry z (recKernel 0) ≠ 0 ∧ z.ge.launchQ.length < 32 ∧ recGroups 0 = 0 ∧ recGroups (BitVec.ofNat 64 (2 ^ 47)) = 1) ∧
    kernelEntry (tileAt (hubState (header 11 2 2 0) ⟨hub0, by decide⟩ (hubbed tileI)) hub0) (recKernel 0) = 0 ∧
    (∀ n, n ∈ [0, 1] → let s := { hubbed { tileI with reports := [.regData 1 7] } with
        esp := { State.reset.esp with probes := [(hub0, n)].filter (fun x => x.2 ≠ 0) } }
      Report.regData 1 7 ∈ (tileAt s hub0).reports ∧ reportTurn s hub0 (.regData 1 7) = true ∧ fmGet 0 s.esp.probes hub0 = n) ∧
    (let f : FaultRec := ⟨9, 0, 0, 4, 0, 0, 0, 0, 0, 0xFF⟩
     let s := hubbed { tileI with reports := [.fault f] }
     (tileAt s hub0).reports.find? (isEvent (.fault 4)) = some (.fault f) ∧ reportTurn s hub0 (.fault f) = true ∧
     (partAt s (partOf s hub0)).faults.cause = 0) ∧
    twigUp (hubbed tileI) hub0 = true ∧ watched (tileAt (hubbed tileI) hub0) = true := by
  decide +kernel

/-- SNAP_REQ of both kinds and of a wrong class; the words that a tile owes. -/
theorem witness_snapshots :
    (∀ c, c ∈ [0, 3] → twType (header 13 c 0 0) = 13 ∧ twClass (header 13 c 0 0) = c ∧ twDest (header 13 c 0 0) = hub0 ∧
      twigUp (hubState (header 13 c 0 0) ⟨hub0, by decide⟩ (hubbed tileI)) hub0 = true ∧
      (tileAt (hubState (header 13 c 0 0) ⟨hub0, by decide⟩ (hubbed tileI)) hub0).frozen = false) ∧
    (let s := hubbed { tileI with reports := [.snap [1, 2]] }
     ([1, 2] : List (BitVec 32)).length ≤ 7 ∧ s.rcv.snap = none ∧ Report.snap [1, 2] ∈ (tileAt s hub0).reports ∧
     reportTurn s hub0 (.snap [1, 2]) = true ∧ fmGet [] s.esp.cntSnap hub0 = []) := by
  decide +kernel

/-! ### Movers -/

def deskD (raw : Nat) (started sent : Bool) (replies : List Nat) : Desc := ⟨0, 90, some raw, none, started, 0, sent, replies, [], ⟨0, 0, 0, 0xFF⟩, 2⟩

/-- An AC_SUB of 64 from counter 1. -/
def subD : Nat := word [(1, 60), (1, 24), (64, 384)]

/-- A COPY of one row of 8 bytes from LS 0 of the tile to LS 64 of tile 5, or of a mapped address to there. -/
def copyD (sp src : Nat) : Nat := word [(sp, 58), (5, 43), (5, 30), (src, 64), (64, 128), (1, 204), (8, 224)]

/-- Tile 5 with those descriptors in mover 2. -/
def tileM (q : List Desc) : Tile := { tileI with movers := [(2, ⟨q, 0, false⟩)] }

/-- A descriptor to start, one that must wait, an AC_SUB above and below its counter, one to retire and one that cannot. -/
theorem witness_movers :
    (∀ st, st ∈ [true, false] → ∀ sent, sent ∈ [true, false] →
      let z := tileM [deskD subD st sent []]
      (moverAt z 2).queue = [deskD subD st sent []] ∧ (moverAt z 2).stopped = false ∧ moverRuns z 2 = true ∧ z.acs.subs = [] ∧
      slotWritesEnd 89 z ≤ 100) ∧
    dKind subD = 1 ∧ subFieldsOk subD = true ∧ dAc subD = 1 ∧ dAmount subD = 64 ∧
    (let z := { tileM [] with acs := { acsReset with now := [(1, 64)] } }
     fmGet 0 (settleAcs 100 z).acs.now 1 = 64 ∧ acTaken (settleAcs 100 z).acs 1 = 0 ∧ (settleAcs 100 z).acs.subs = []) ∧
    fmGet 0 (settleAcs 100 (tileM [])).acs.now 1 < acTaken (settleAcs 100 (tileM [])).acs 1 + 64 := by
  decide +kernel

/-- A COPY whose fields fail, one from LS clean and from Poison, one from device memory. -/
theorem witness_copies :
    (∀ raw, raw ∈ [1, copyD 0 0, copyD 1 0] → let x := deskD raw true false []
      let s := mapped (tileM [x])
      current (tileAt s 5) 2 = some x ∧ dKind raw = 0 ∧ moverRuns (tileAt s 5) 2 = true ∧ windowWaits s 5 x = false) ∧
    (copyFieldsOk (mapped (tileM [])) 5 1 = false) ∧
    (let s := mapped (tileM [])
     (copyCheck s 5 (copyD 0 0)).toOption = some [] ∧ dZero (copyD 0 0) = false ∧ dSrcSp (copyD 0 0) = 0 ∧ dDstSp (copyD 0 0) = 0 ∧
     BanksFree s 5 5 0 8 ∧ poisoned (tileAt s 5) 0 8 = false ∧ poisoned { tileI with marks := [0] } 0 8 = true ∧
     (copyCheck s 5 (copyD 1 0)).toOption = some [(0, rangeE)] ∧ dZero (copyD 1 0) = false ∧ dSrcSp (copyD 1 0) = 1 ∧ dDstSp (copyD 1 0) = 0 ∧
     rHits rangeE 0 = true ∧ rTarget rangeE = 0) := by
  unfold BanksFree; decide +kernel

/-- An MW packet of 8 bytes, counted or not, to a running tile, past its LS, and to a pruned one; MACKs of every status. -/
theorem witness_packets :
    (∀ cnt, cnt ∈ [true, false] → ∀ off, off ∈ [0, 2 ^ 23 - 8] → let x : MwPacket := ⟨⟨5, off, 1, 3, cnt, 5, 2, 0⟩, zeros 8, true, 0⟩
      let s := { on tileI with net := [.mw x none] }
      s.net = [.mw x none] ∧ lostOnLink s (.mw x none) = false ∧ x.data.length = 8 * x.hdr.len8 ∧ (tileAt s 5).regs.state = .running ∧
      (tileAt s 5).prune = none ∧ (off = 0 → inLs (tileAt s 5) off 8 = true) ∧ BanksFree s 5 (landKey x none) off 8) ∧
    inLs { tileI with regs := { tileI.regs with splitCur := 3 } } (2 ^ 23 - 8) 8 = false ∧
    (∀ st, st ∈ [0, 1, 2] → let h : MwHdr := ⟨5, 64, 1, 3, false, 5, 2, st⟩
      let d := deskD (copyD 0 0) true true [keyLs 5 64]
      let s := { on (tileM [d]) with net := [.mack h] }
      s.net = [.mack h] ∧ lostOnLink s (.mack h) = false ∧ (moverAt (tileAt s 5) 2).queue = [d] ∧ d.replies = [keyLs h.dst h.off]) := by
  unfold BanksFree; decide +kernel

/-- An address in a range, and one in none. -/
theorem witness_lookup : findRange (mapped tileI) 0 0 = some (0, rangeE) ∧ findRange (mapped tileI) 0 65536 = none ∧ computing tileI = true ∧
    partOf (mapped tileI) 5 = 0 := by
  decide +kernel

/-! ### Homes and L1s -/

def lineH : HLine := ⟨zeros 128, false, false⟩

/-- Slice 3 of partition 0 on an awake device, with line 9, that entry for it and those transactions. -/
def homeS (e : DirEntry) (txns : List Txn) : State :=
  awake { on tileI with slices := [(3, { sliceReset with valid := true, lines := [(9, some lineH)], dir := [(9, e)].filter (fun x => x.2 ≠ dirReset), txns := txns })] }

/-- A message of tile 5 about line 9. -/
def askM (smask : BitVec 4) (bytes : Nat) : CMsg := { cmsg 0 9 5 smask with data := zeros 128, mask := BitVec.ofNat 128 bytes }

theorem at_home (smask : BitVec 4) (bytes : Nat) (e : DirEntry) : AtHome (homeS e []) 3 (askM smask bytes) :=
  ⟨rfl, rfl, rfl, rfl, by show 0 < 256; decide, fun _ h => absurd h (List.not_mem_nil), by show 5 < nTiles; decide, rfl⟩

/-- A line with no copy, and messages of no sector, one and all, of no byte, some and all. -/
theorem witness_home :
    HomeHolds (homeS dirReset []) 3 9 lineH ∧
    (∀ k, k ∈ [0, 1, 15] → dirRoom (homeS dirReset []) 3 tGETS (askM k 0) = .room ∧ dirRoom (homeS dirReset []) 3 tGETM (askM k 0) = .room) ∧
    (∀ n, n ∈ [0, 1, 2 ^ 128 - 1] → (askM 1 n).data.length = 128 ∧ cMask (askM 1 n) = n ∧ (askM 1 n).cntTile < nTiles) ∧
    (let s := { homeS dirReset [] with slices := [(3, { sliceReset with inbox := [(100, tGETS, askM 1 0)] })] }
     clockOn s = true ∧ portsBusy s = false ∧ busySlices s = [3]) ∧
    (let m := { askM 15 0 with vals := [0, lsDest 5 64, 1, 3, 0], mw := ⟨5, 64, 1, 3, true, 5, 2, 0⟩ }
     m.vals = [0, lsDest 5 64, 1, 3, 0] ∧ 0 < m.mw.len8 ∧ m.off + 8 * m.mw.len8 ≤ 128 ∧ 64 % 128 + 8 * m.mw.len8 ≤ 128) := by
  unfold HomeHolds; decide +kernel

/-- Lines that tile 6 owns, that tiles 6 and 7 share, and one with a transaction; a slice of another partition. -/
theorem witness_home_others :
    (askM 1 1).smask ≠ 0 ∧ cMask (askM 1 1) ≠ 0 ∧ fillLost (homeS dirReset []) 3 9 = false ∧ (askM 1 1).tile.toNat = 5 ∧
    dirAt (homeS ⟨.em, some 6, [], none, 0⟩ []) 3 9 = ⟨.em, some 6, [], none, 0⟩ ∧
    dirAt (homeS ⟨.s, none, [6, 7], none, 0⟩ []) 3 9 = ⟨.s, none, [6, 7], none, 0⟩ ∧
    (let s := homeS dirReset [⟨tGETM, askM 15 0, [6], false, false, none, none, false, 90⟩]
     s.net = [] ∧ (sliceAt s 3).inbox = [] ∧ ownsSlice s 3 (askM 1 1) = true ∧ (txnOn s 3 9).isSome = true) ∧
    ownsSlice (homeS dirReset []) 3 { askM 1 1 with part := 1 } = false := by
  decide +kernel

/-- Replies of tile 6, or of the agent of die 2, to the one transaction, of tile 5; a write-back of an owner; a reply nobody awaits. -/
theorem witness_replies :
    let m : CMsg := { askM 1 0 with tile := 6 }
    let txn (typ : Nat) (a : List Nat) : Txn := ⟨typ, askM 15 0, a, false, false, none, none, false, 90⟩
    (∀ a, a ∈ [[6], [0x1FF0 + 2]] → let s := homeS ⟨.s, none, [6], none, 0⟩ [txn tGETM a]
      OneTxn s 3 m (txn tGETM a) ∧ (dirAt s 3 9).st = .s ∧ (dirAt s 3 9).owner = none ∧ hlineAt s 3 9 = some lineH) ∧
    (let s := homeS ⟨.em, some 6, [], none, 0⟩ [txn tGETS [6]]
     OneTxn s 3 m (txn tGETS [6]) ∧ (dirAt s 3 9).st = .em ∧ (dirAt s 3 9).owner = some 6 ∧ (dirAt s 3 9).sharers = [] ∧
     (dirAt s 3 9).vec = none ∧ m.tile.toNat = 6) ∧
    (let s := homeS ⟨.em, some 5, [], none, 0⟩ []
     (dirAt s 3 9).st ≠ .p ∧ (dirAt s 3 9).owner = some (askM 1 0).tile.toNat ∧ (dirAt s 3 9).vec = none ∧ hlineAt s 3 9 = some lineH) := by
  unfold OneTxn; decide +kernel

/-- RING_INV for a die with no tile of the partition and for one with tile 5; the last reply of a ring job; a transaction past its time. -/
theorem witness_ring :
    let m : CMsg := { cmsg 0 9 7 0 with count := 2 ^ 0 }
    let j : RingJob := ⟨9, 3, 0, 7, [5], 0, []⟩
    ((on tileI).net = [] ∧ m.count = 2 ^ 0 ∧ (partTiles (on tileI) 0).filter (fun t => dieOf t = 0 && t ≠ m.tile.toNat) = [5] ∧
     (partTiles (on tileI) 1).filter (fun t => dieOf t = 0 && t ≠ m.tile.toNat) = []) ∧
    (let s := { on tileI with rings := [(0, [j])] }
     fmGet [] s.rings 0 = [j] ∧ j.line = (askM 0 0).line ∧ j.part = (askM 0 0).part ∧ j.awaits = [(askM 0 0).tile.toNat]) ∧
    (let t : Txn := ⟨tGETS, askM 15 0, [6], false, false, none, none, false, 0⟩
     let s := { homeS ⟨.em, some 6, [], none, 0⟩ [t] with cycle := 128000 }
     (sliceAt s 3).txns = [t] ∧ t.msg.line = 9 ∧ (sliceAt s 3).queue = [] ∧ t.awaits ≠ [] ∧ (dirAt s 3 9).st ≠ .i ∧ t.opened + 128000 ≤ s.cycle) := by
  decide +kernel

/-- An LADD at the adder; lines and an element of each form. -/
theorem witness_adder :
    (let s := homeS dirReset []
     let s := updSlice s 3 (fun x => { x with adds := [askM 15 0] })
     (sliceAt s 3).adds = askM 15 0 :: [] ∧ (sliceAt s 3).queue = [] ∧ (sliceAt s 3).addFree ≤ s.cycle ∧ HomeHolds s 3 9 lineH) ∧
    (zeros 128).length = 128 ∧ 31 < 32 ∧ 15 < 16 := by
  unfold HomeHolds; decide +kernel

/-- The window form's codes and its largest numbers. -/
theorem witness_window_form :
    (∀ a, a ∈ [-2 ^ 63, -(2 ^ 63 - 1), -(2 ^ 63 - 2), 0, 2 ^ 63 - 2, 2 ^ 63 - 1] → (-2 ^ 63 : Int) ≤ a ∧ a < 2 ^ 63) ∧
    (∀ a, a ∈ ([2 ^ 63 - 2, -(2 ^ 63 - 2)] : List Int) → |a| ≤ 2 ^ 63 - 2) ∧ (0 : Int) ≤ 2 ^ 63 - 2 := by
  decide +kernel

/-- Tile 5 with that state of line 9, and what its L1 has under way. -/
def cached (st : L1State) (l : L1) : Tile :=
  { tileI with l1 := { l with lines := [(9, { l1LineReset with st := st, valid := if st = .i then 0 else 15, data := if st = .i then [] else zeros 128 })].filter (fun x => x.2 ≠ l1LineReset) } }

/-- An E copy, an M copy and no copy, its way's banks free. -/
theorem witness_forwards :
    (∀ st, st ∈ [L1State.e, .m, .i] → let z := cached st l1Reset
      let x := l1Line z 9
      (on z).net = [] ∧ (tileAt (on z) 5).regs.state = .running ∧ x.st = st ∧ x.sbe = [] ∧ x.dbe = [] ∧ (st = .i → x = l1LineReset) ∧
      z.l1.wbs = [] ∧ z.l1.wbuf = [] ∧ z.l1.miss = []) ∧
    (askM 1 0).count = 0 ∧ (askM 1 0).tile.toNat < nTiles ∧ ∀ st, st ∈ [L1State.e, .m, .i] → ∀ l, l ∈ [l1Reset] → WayFree (on (cached st l)) 5 9 := by
  refine ⟨by decide +kernel, by decide +kernel, by decide +kernel, fun st hs l hl w hw => ?_⟩
  simp only [List.mem_cons, List.not_mem_nil, or_false] at hl hs
  subst hl
  have : w = 0 := by
    rcases hs with rfl | rfl | rfl <;> revert hw <;> revert w <;> decide +kernel
  subst this
  rcases hs with rfl | rfl | rfl <;> decide +kernel

/-- Way 0 of an L1 without way 0 in use is free, whatever else is under way there. -/
theorem witness_data :
    let load : LaneLoad := ⟨3, 0, 4, 2, 0, 0, 1, false⟩
    let miss (inv : Bool) : L1 := { l1Reset with miss := [⟨9, 0, [load], inv, false, false⟩] }
    let buf : WbufEntry := ⟨9, zeros 128, 15, [3], false, 0, 1⟩
    (∀ i, i ∈ [true, false] → let z := cached .i (miss i)
      z.l1.miss.find? (·.line = 9) = some ⟨9, 0, [load], i, false, false⟩ ∧ (l1Line z 9).st = .i ∧ canInstall z 9 = true ∧ load.g ≠ jobGone ∧
      needSectors [load] &&& ~~~(askM 1 0).smask = 0 ∧ (0 : BitVec 4) &&& ~~~(askM 1 0).smask = 0 ∧ (askM 1 0).poison = false ∧
      (on z).net = [] ∧ z.prune = none ∧ fillWay z 9 = some 0 ∧ bankTaken 100 8 (wayBanks z 9 0) z = false) ∧
    (let z := cached .i { l1Reset with wbuf := [buf] }
     wbufOf z 9 = some buf ∧ buf.discard = false ∧ z.l1.held = [] ∧ canInstall z 9 = true ∧ fillWay z 9 = some 0 ∧
     bankTaken 100 8 (wayBanks z 9 0) z = false) ∧
    (∀ i, i ∈ [1, 2, 3] → ({ askM 15 0 with info := BitVec.ofNat 3 i } : CMsg).info = BitVec.ofNat 3 i) := by
  decide +kernel

/-- A write-back, an acquire and a fetch awaited, a mover's write, and a CNT at a tile that is pruned and at one that is not. -/
theorem witness_acks :
    let a (fetch : Bool) : Await := ⟨9, 3, fetch, [0], 4, 4, 0, 1, true⟩
    let x : Group := { groupG with ready := [(4, never), (acqReg, never)] }
    let z (fetch : Bool) : Tile := { tileG x with l1 := { l1Reset with awaits := [a fetch] } }
    ({ tileI with l1 := { l1Reset with wbs := [⟨9, 15⟩] } } : Tile).l1.wbs.any (·.line = 9) = true ∧
    (∀ f, f ∈ [true, false] → (z f).l1.wbs = [] ∧ (z f).l1.awaits = [a f] ∧ (z f).l1.miss = [] ∧ groupAt (z f) 3 = some x ∧
      readyAt x acqReg = never ∧ readyAt x 4 = never ∧ fillWay (z f) 9 = some 0 ∧ bankTaken 100 8 (wayBanks (z f) 9 0) (z f) = false) ∧
    (let d := deskD (copyD 0 0) true true [keyLine 9]
     (moverAt (tileM [d]) 2).queue = [d] ∧ d.replies = [keyLine 9]) ∧
    isPruned tileI = false ∧ isPruned { tileI with regs := { tileI.regs with state := .pruned } } = true := by
  decide +kernel

/-! ### Translation and windows -/

/-- A free block and a busy one, for a host with a link. -/
theorem witness_xl_accept : LinkUp (hubbed tileI) ∧ (xlAt (hubbed tileI) 0).busy = false ∧
    (xlAt { hubbed tileI with xl := [(0, { xlReset with busy := true })] } 0).busy = true :=
  ⟨witness_link, by decide +kernel⟩

/-- Commands of each kind that the block accepts and refuses; `e` is staged. -/
def staged (e : Nat) : State :=
  { mapped tileI with xl := [(0, { xlReset with table := [(0, rangeE)], entry := e, busy := true })] }

theorem witness_xl_effect :
    let e := word [(1, 152), (32, 112), (1, 13), (1, 12)]
    let v (op i : Nat) : Nat := op * 2 ^ 28 + i
    xlResult (staged e) 0 (v 1 1) = 0 ∧ xlResult (staged e) 0 (v 2 0) = 0 ∧ xlResult (staged e) 0 (v 3 0) = 0 ∧ xlResult (staged e) 0 (v 4 0) = 0 ∧
    xlResult (staged 0) 0 (v 6 0) = 0 ∧ (fmGet winReset (xlAt (staged 0) 0).wins 0).enable = false ∧
    xlOp (v 8 0) = 8 ∧ 8192 ≤ xlIndex (v 1 8192) ∧ entryOk false 0 = false ∧ entryOk false e = true ∧ fmGet 0 (xlAt (staged e) 0).table 0 ≠ 0 ∧
    fmGet 0 (xlAt (staged e) 0).table 1 = 0 ∧ xlResult (staged e) 0 (v 1 0) ≠ 0 ∧
    (∀ op, op ∈ [1, 2, 3, 4, 6] → xlOp (v op 0) = op) := by
  decide +kernel

theorem witness_ranges : RangesApart (xlAt (staged 0) 0) := by
  have h (i : Nat) : fmGet 0 (xlAt (staged 0) 0).table i ≠ 0 → i = 0 := fun hi => by
    by_contra h0; exact hi (if_neg (fun h => h0 h.symm))
  intro i j hij hi hj
  exact absurd ((h i hi).trans (h j hj).symm) hij

/-- A withdrawal before its cycle; one with a tile that still has to report, the last or not, of which tile 5 uses nothing; one abandoned. -/
theorem witness_withdrawals :
    (let wd : Withdrawal := ⟨[0], [], false, 512, false, 0, [5], false⟩
     let x := { xlReset with table := [(0, rangeE)], withdrawal := some wd, busy := true }
     let s := awake { on { tileI with look := [0] } with xl := [(0, x)] }
     s.xl = [(0, x)] ∧ clockOn s = true ∧ busySlices s = [] ∧ portsBusy s = false ∧ s.wires = [] ∧ x.start = none ∧ s.cycle < wd.w) ∧
    (∀ w, w ∈ [[5], [5, 6]] → let wd : Withdrawal := ⟨[0], [rangeE], false, 64, true, 0, w, false⟩
      usesGone tileI wd = false ∧ 5 ∈ wd.waiting ∧ wd.waiting ≠ [] ∧ (wd.waiting.erase 5 = [] ↔ w = [5])) ∧
    (let s := { ofJob tileI with us := 100000 }
     0 + 100000 ≤ s.us ∧ (partAt s 0).job ≠ none) := by
  decide +kernel

/-- A window write of 8 bytes to LS of tile 5 or to device memory, its window enabled for any module, and to a window that is not enabled. -/
def writeW : LockCell :=
  { kind := 3, jobTag := 0, tick := 0, pos := 0, poison := false, dstModule := 0, srcModule := 1, rpart := 0, window := 2, offset := 0, cntTile := 5,
    ac := 3, len8 := 1, hops := 0, crc := 0, data := zeros 64 }
def windowS (e : Nat) (en : Bool) : State :=
  { mapped tileI with
    xl := [(0, { xlReset with winTab := [(32, e)], wins := [(2, ⟨en, true, 0⟩)].filter (fun x => x.2.enable) })]
    coppice := [(4, { portUnset with held := [(0, writeW)] })] }

theorem witness_windows :
    (∀ tg, tg ∈ [0, 3] → let e := rangeE + tg * 2 ^ 14 + (if tg = 3 then 5 * 2 ^ (192 + 32) else 0)
      let s := windowS e true
      (portNo s 4).held = [(0, writeW)] ∧ writeW.dstModule.toNat = memberNo s ∧ 0 < writeW.len8.toNat ∧ writeW.window.toNat ≠ 63 ∧
      partExists s 0 = true ∧ windowOk s writeW = true ∧ windowRange s writeW = some (e, if tg = 3 then 5 * 2 ^ 32 else 0) ∧ rTarget e = tg ∧
      writeW.data.length = 64 ∧ pbLsOff (if tg = 3 then 5 * 2 ^ 32 else 0) % 128 + 8 ≤ 128) ∧
    windowOk (windowS rangeE false) writeW = false := by
  decide +kernel

/-- DLOG_CTRL with no low bits; a page of the bitmap that exists. -/
theorem witness_dlog : LinkUp (hubbed tileI) ∧ (0x80000000 : BitVec 32).toNat % 32 = 0 ∧
    (let s := { mapped tileI with
       xl := [(0, { xlReset with dlogBitmap := 65536 })]
       dm := { State.reset.dm with active := [0] } }
     32768 * (0 % 1024) < granules s 0 ∧ bitmapOk s 0 = true) :=
  ⟨witness_link, by decide +kernel⟩

/-! ### Stacks and the Seedbank -/

/-- A device in cycle 100 with that stack 4, and it alone in the active list. -/
def stackS (x : Stack) : State := { on tileI with stk := [(4, x)], dm := { dmReset with active := [4] } }
def stackA : Stack := { stackReset with state := .active, seen := true }

/-- Readings on both sides of every threshold, failed ones up to the tenth, by the refresh rate in force. -/
theorem witness_readouts :
    (∀ r, r ∈ [1, 2, 3] → ∀ b, b ∈ [0, 8, 9] → let x := { stackA with ref := BitVec.ofNat 2 r, badReads := b }
      (stackAt (stackS x) 4).state = .active ∧ (stackAt (stackS x) 4).seen = true ∧ (stackAt (stackS x) 4).badReads = b ∧
      (stackAt (stackS x) 4).ref = BitVec.ofNat 2 r ∧ (stackS x).rcv.asked = none) ∧
    (∀ t, t ∈ [83, 84, 85, 86, 93, 94, 95, 96, 104] → t < 105) ∧ 105 ≤ 105 := by
  decide +kernel

/-- A stack that runs; one hot in training beyond its wait; a line with one, two and three symbols in error. -/
theorem witness_patrol :
    (stackAt (stackS stackA) 4).ref ≠ 0 ∧ (stackAt (stackS stackA) 4).state ≠ .off ∧
    (let s := { stackS { stackReset with state := .training, hot := true } with us := 60000000 }
     (stackAt s 4).state = .training ∧ (stackAt s 4).hot = true ∧ s.boot.onUs + 60000000 ≤ s.us) ∧
    (∀ n, n ∈ [1, 2, 3] → let s := { stackS stackA with dm := { dmReset with active := [4], errs := [(3, n)] } }
      (stackOf s.dm.active (64 * 3)).1 = 4 ∧ 192 < dmCapacity s ∧ (stackAt s 4).state = .active ∧ 3 ∉ s.dm.poison ∧ fmGet 0 s.dm.errs 3 = n ∧
      (stackAt s 4).ueTimes = [] ∧ 1 < dictNat s 0x4060 0 64) := by
  decide +kernel

/-- A device whose Seedbank serves, with extent 1 of partition 0. -/
def seedS (x : Seed) : State :=
  { mapped tileI with seed := { x with status := 1, extents := [(0, some ⟨0xFF, 4, 0, 0⟩), (1, some ⟨0, 1, 7, 0⟩)] } }

/-- A read to LS; a page that is held; a page write that is whole, with the Seedbank serving and read-only. -/
theorem witness_pages :
    (let r : SeedRead := ⟨5, 2, 0, 1, 0, 0, 8, .ls 5 64, 3, 5, 0⟩
     let s := seedS { seedReset with reads := [r] }
     s.seed.status = 1 ∧ (extentAt s 1).isSome = true ∧ s.seed.reads = [r] ∧ pageAddr 1 0 % 128 + 8 ≤ 128 ∧
     fmGet false s.seed.lost (pageAddr 1 0 / 16384) = false ∧ fmGet false s.seed.poison (pageAddr 1 0 / 128) = false) ∧
    (let s := seedS { seedReset with staged := [pageNo 1 0] }
     s.seed.reads = [] ∧ pageHeld s.seed (pageNo 1 0) = true ∧ fmGet false s.seed.lost (pageAddr 1 0 / 16384) = false) := by
  decide +kernel

theorem witness_page_write :
    let w : SeedWrite := ⟨(5, 2), 0, 1, 0, [(0, zeros 16384)], [], 0, 3, 5⟩
    let s := seedS { seedReset with writes := [w] }
    s.seed.writes = [w] ∧ w.left = 0 ∧ w.data = [(0, zeros 16384)] ∧ (zeros 16384).length = 16384 ∧ w.poison = [] ∧ (extentAt s w.ext).isSome = true ∧
    s.gov.nandStop ≠ 0xFFFFFFFF ∧ s.seed.staged.length < stagingPages ∧ w.cntTile < nTiles ∧ s.seed.blocks = [] ∧ w.by_.2 < 4 ∧
    ({ s with seed := { s.seed with status := 2 } } : State).seed.status = 2 :=
  ⟨rfl, rfl, rfl, List.length_replicate, rfl, rfl, by decide +kernel, by decide +kernel, by decide +kernel, rfl, by decide, rfl⟩

/-- A command of 16 bytes on extents. -/
def extC (op part ext size : Nat) : List Byte := natLe 1 op ++ natLe 1 part ++ natLe 2 ext ++ natLe 4 size ++ zeros 8

/-- CREATE of no size, for no partition, too large and that fits; DELETE of a mapped extent and of another; ATTACH of an owned one and a detached one. -/
theorem witness_extents :
    (∀ c, c ∈ [extC 1 0 0 0, extC 1 31 0 98304, extC 1 0 0 1, extC 2 0 1 0, extC 3 0 1 0] → c.length = 16) ∧ (seedS seedReset).seed.status = 1 ∧
    extOp (extC 1 0 0 0) = 1 ∧ extSize (extC 1 0 0 0) = 0 ∧ extSize (extC 1 31 0 98304) = 98304 ∧ extNo (extC 1 0 0 1) = 0 ∧
    leAt (extC 1 0 0 1) 8 8 = 0 ∧ extPart (extC 1 31 0 98304) = 31 ∧ partExists (seedS seedReset) 31 = false ∧ partExists (seedS seedReset) 0 = true ∧
    98304 < allocated (seedS seedReset).seed + 98304 ∧ allocated (seedS seedReset).seed + 1 ≤ 98304 ∧ freeExtent (seedS seedReset) = some 2 ∧
    extOp (extC 2 0 1 0) = 2 ∧ extNo (extC 2 0 1 0) = 1 ∧ (extentAt (seedS seedReset) 1).isSome = true ∧ extPart (extC 2 0 1 0) = 0 ∧
    leAt (extC 2 0 1 0) 4 12 = 0 ∧ extMapped (seedS seedReset) 1 = false ∧
    extMapped { seedS seedReset with xl := [(0, { xlReset with table := [(0, word [(1, 240), (1, 152), (1, 14), (1, 13)])] })] } 1 = true ∧
    extOp (extC 3 0 1 0) = 3 ∧ extentAt (seedS seedReset) 1 = some ⟨0, 1, 7, 0⟩ ∧
    extentAt { seedS seedReset with seed := { (seedS seedReset).seed with extents := [(1, some ⟨0xFE, 1, 7, 0⟩)] } } 1 = some ⟨0xFE, 1, 7, 0⟩ := by
  decide +kernel

/-- A block at its read limit, an old and a young one, one worn and one not; stripes; a start with a channel that works. -/
theorem witness_maintenance :
    (let s := seedS { seedReset with blocks := [(5, { blockReset with use_ := .data, reads := 50000, erases := 201, pages := 1 })], aged := [(0, 90 * 86400000000 * 2 ^ 32)] }
     s.seed.status = 1 ∧ s.gov.huskThrottle = false ∧ s.gov.nandStop = 0 ∧ (blockAt s.seed 5).use_ = .data ∧ (blockAt s.seed 5).queued = false ∧
     (blockAt s.seed 5).retire = false ∧ 50000 ≤ (blockAt s.seed 5).reads ∧ oldBlock s.seed 5 = true ∧ blockChannel 5 = 0 ∧
     5 % blocksPerChannel < tlcPerChannel ∧ 200 < (blockAt s.seed 5).erases ∧ fmGet 0 s.seed.open_ 0 ≠ 6 ∧ (validPages s.seed 5).length < (blockAt s.seed 5).pages) ∧
    (let s := seedS { seedReset with blocks := [(5, { blockReset with use_ := .data, erases := 200 })] }
     oldBlock s.seed 5 = false ∧ (blockAt s.seed 5).erases ≤ 200) ∧
    (let s := seedS { seedReset with staged := List.range 31 }
     31 ≤ s.seed.staged.length ∧ s.seed.staged.Nodup ∧ s.seed.blocks = [] ∧ s.seed.open_ = [] ∧ s.seed.deadDies = [] ∧ s.seed.loc = [] ∧
     fmGet 0 s.seed.channels 0 ≠ 2) ∧
    ({ seedS seedReset with boot := { bootReset with running := some true } } : State).boot.running = some true := by
  decide +kernel

/-- A resident session 1 whose image fills extent 1, the partition's. -/
def sessI : Session := { sessReset with st := .resident, part := 0, kvBytes := 65535 * 16384 }
def sessS (x : Session) (mv : List Moving) : State :=
  { seedS { seedReset with moving := mv } with sessions := [(1, x)], ctl := { State.reset.ctl with vals := [(256 * 0x3011 + 1, some (natLe 2 1))] } }

/-- The extent has one place for the image, whatever is drawn. -/
theorem witness_park : (sessAt (sessS sessI []) 1).st = .resident ∧ (sessAt (sessS sessI []) 1).pin = false ∧ movingOf (sessS sessI []) 1 true = none ∧
    sessExtent (sessS sessI []) 0 = some 1 ∧
    anyPlace 16384 (16384 * (sessI.kvBytes / 16384 + 1)) (gaps (((extentAt (sessS sessI []) 1).map (·.size)).getD 0 * 2 ^ 30) 0 (imageSpans (sessS sessI []) 0 1))
      (Config.freeNat (sessS sessI []).fresh) = some 0 := by
  have h1 : ((gaps (((extentAt (sessS sessI []) 1).map (·.size)).getD 0 * 2 ^ 30) 0 (imageSpans (sessS sessI []) 0 1)).map
      (placesIn 16384 (16384 * (sessI.kvBytes / 16384 + 1)))).sum = 1 := by decide +kernel
  refine ⟨by decide +kernel, by decide +kernel, by decide +kernel, by decide +kernel, ?_⟩
  unfold anyPlace
  simp only [h1, Nat.mod_one]
  decide +kernel

/-- A park to end; a parked session to bring back; a way back that answers and one that does not; a snapshot past its time. -/
theorem witness_sessions :
    (let mv : Moving := ⟨1, 0, 0, 1, [], true⟩
     let s := sessS { sessI with st := .parking, kvBytes := 16384 } [mv]
     movingOf s 1 true = some mv ∧ sessExtent s 0 = some 1 ∧ s.seed.status = 1 ∧ (partAt s 0).reqs = []) ∧
    (let x := { sessI with st := .parked, kvBytes := 0, imageOff := 16384 }
     let s := sessS x []
     (sessAt s 1).st = .parked ∧ movingOf s 1 false = none ∧ x.imageOff ≠ 2 ^ 64 - 1 ∧ (giveKv s 1 0 0 none).isSome = true) ∧
    (let x := { sessI with st := .resuming, kvBytes := 16384, generation := 2, imageOff := 16384 }
     let mv (ok : Bool) : Moving := ⟨1, 0, 0, 1, if ok then imageHeader 1 x 0 else [], false⟩
     ∀ ok, ok ∈ [true, false] → movingOf (sessS x [mv ok]) 1 false = some (mv ok) ∧ resumeOk (sessS x [mv ok]) (mv ok) = ok ∧
       hasReq (sessS x [mv ok]) 1 = false ∧ (partAt (sessS x [mv ok]) 0).reqs = []) ∧
    (let y : Snap := ⟨1, 0x16, 1, 0, 0, [], [], false⟩
     let s := { ofJob tileI with us := 50000, rcv := { rcvReset with snap := some y, after := some (1, 0x16, some 0) } }
     s.rcv.snap = some y ∧ s.rcv.after = some (1, 0x16, some 0) ∧ s.rcv.asked = none ∧ dictNat s 0x9020 1 3 = 0 ∧ y.us + 50000 ≤ s.us) := by
  decide +kernel

/-! ### Graft in service, Coppice -/

/-- A bundle past its limit and one not; a lane that goes down and lanes that lock. -/
theorem witness_links :
    63 < bundleCount 3 ∧ 7 < bundleCount 11 ∧
    (let s := { on tileI with graft := { State.reset.graft with bundles := [(64 * 3 + 63, { bundleReset with sec1 := 17 })] } }
     dictNat s 0x7150 0 16 < (bundleAt s 3 63).sec1) ∧
    (bundleAt (on tileI) 3 63).sec0 ≤ dictNat (on tileI) 0x7150 0 16 ∧
    (∀ st, st ∈ [1, 2, 3, 4, 5] → let s := awake { on tileI with coppice := [(4, { portUnset with role := 1, state := st })] }
      (portNo s 4).role ≠ 0 ∧ (portNo s 4).state = st ∧ 4 ≠ parentPort s ∧ readyBit s 2 = true ∧ s.pins.taken = false) := by
  decide +kernel

/-- Port 4 in that group cycle, of an aligned module. -/
def portS (x : Port) (c : Nat) (wires : List Wire) : State :=
  { awake (on tileI) with cycle := c, coppice := [(4, x)], gt := { gtReset with aligned := true }, wires := wires }
def portP : Port := { portUnset with role := 1, state := 4, declF := 1 }

/-- The first and the last position of a tick: scheduled, with and without a flit, and free, with and without a window cell. -/
theorem witness_cells :
    (∀ c, c ∈ [8192, 8254] → let x := { portP with sendA := [(0, 0x4000), (31, 0x4000)] }
      let s := portS x c []
      let edge := (edgeTiles 0).headD 0
      (portNo s 4).role = 1 ∧ (portNo s 4).state = 4 ∧ s.gt.aligned = true ∧ clockOn s = true ∧ s.coppice = [(4, x)] ∧ x.reqAt + 4096 ≤ c ∧
      groupCycle s c % 2 = 0 ∧ entryEdge (fmGet (0 : BitVec 16) x.sendA (c / 64 % 8 * 32 + c % 64 / 2)).toNat = some edge ∧
      (let w : Wire := ⟨edge, 10, c, ⟨1, false, 0, false, 0, 0, zeros 64⟩⟩
       (portS x c [w]).wires = [w]) ∧
      entryEdge (fmGet (0 : BitVec 16) portP.sendA (c / 64 % 8 * 32 + c % 64 / 2)).toNat = none) ∧
    portP.winQ = [] ∧ ({ portP with winQ := [writeW] } : Port).winQ = writeW :: [] ∧ 0 < creditOf portP writeW.hops.toNat := by
  decide +kernel

/-- A cell in time, a late one, one with a wrong CRC. -/
theorem witness_arrival :
    let c (tick : Nat) : LockCell := sealCell { emptyCell (portS portP 8192 []) 4 tick 0 with kind := 1 }
    portP.skip = false ∧ portP.buf.length < 2048 ∧ (∀ t, t ∈ [0, 128] → (c t).kind.toNat ≤ 2 ∧ (c t).crc = BitVec.ofNat 32 (cellCrc (c t))) ∧
    0 ≤ releaseIn (portS portP 8192 []) portP (c 128) ∧ releaseIn (portS portP 8192 []) portP (c 0) < 0 ∧
    ({ c 128 with crc := 0 } : LockCell).crc ≠ BitVec.ofNat 32 (cellCrc { c 128 with crc := 0 }) := by
  decide +kernel

/-- A release through a scheduled entry with no cell, with one of the job, and with a window cell; a window cell in a free position, sent on, and at its last hop. -/
theorem witness_release :
    (let x := { portP with landA := [(224, 0x4000)] }
     let s := portS x 8192 []
     64 * (flight x + 16) ≤ groupCycle s 8192 ∧ (groupCycle s 8192 - 64 * (flight x + 16)) / 64 = 111 ∧
     (groupCycle s 8192 - 64 * (flight x + 16)) % 64 / 2 = 0 ∧ entryEdge (fmGet (0 : BitVec 16) x.landA (111 % 8 * 32 + 0)).toNat = some ((edgeTiles 0).headD 0) ∧
     ((portJob s 4).map (·.tag)).getD 0 = 0 ∧ x.buf = []) ∧
    (∀ k, k ∈ [1, 3] → let c := { emptyCell (portS portP 8192 []) 4 111 0 with kind := BitVec.ofNat 8 k }
      c.tick = BitVec.ofNat 32 111 ∧ c.pos = BitVec.ofNat 5 0 ∧ c.jobTag.toNat = 0 ∧ c.kind = BitVec.ofNat 8 k) ∧
    entryEdge (fmGet (0 : BitVec 16) portP.landA (111 % 8 * 32 + 0)).toNat = none ∧ poolHeld portP 0 < 16 ∧
    (∀ h, h ∈ [0, 15] → let c := { writeW with dstModule := 1, hops := BitVec.ofNat 4 h }
      let s := { portS portP 8192 [] with gt := { gtReset with routes := [0, 4] }, coppice := [(4, portP), (5, { portP with held := [(h, c)] })] }
      nextCut s 4 = none ∧ nextHop s 4 c = some (5, h) ∧ (portNo s 4).winQ.length < 256) ∧
    (let c := { writeW with dstModule := 1 }
     nextCut { portS portP 8192 [] with gt := { gtReset with routes := [0, 4], cut := [(5, 2, c)] } } 4 = some (5, 2, c)) := by
  decide +kernel

/-- Blocks of every type and of one that is not listed, at a port of a member of group 7. -/
def block (type fields : Nat) : BitVec 257 := BitVec.ofNat 257 (ctlBlock type fields)
def groupS (x : Port) : State :=
  { portS x 8192 [] with ctl := { State.reset.ctl with vals := [(256 * 0x6020 + 1, some [7]), (256 * 0x6020 + 3, some [4])] } }

theorem witness_blocks :
    portP.role = 1 ∧ 3 ≤ portP.state ∧ portP.state ≠ 5 ∧ portP.linked = false ∧ portP.samples.length < 63 ∧
    (∀ t, t ∈ [0x10, 0x11, 0x12, 0x13, 0x14, 0x15, 0x1F] → (block t 0).toNat % 2 = 0 ∧ isBlock (block t 0) t = true ∧ isBlock (block 0x1E 0) t = false) ∧
    4 ≠ parentPort (portS portP 8192 []) ∧ groupId (groupS portP) = 7 ∧ dictNat (groupS portP) 0x6021 5 0xFFFF = 0xFFFF ∧
    field (blockBits (block 0x13 (7 * 2 ^ 216))) 247 216 = 7 ∧ field (blockBits (block 0x13 0)) 247 216 ≠ 7 ∧
    (let s := { groupS portP with ctl := { State.reset.ctl with vals := [(256 * 0x6021 + 5, some (natLe 2 (3 * 8 + 2)))] } }
     dictNat s 0x6021 5 0xFFFF = 3 * 8 + 2 ∧ field (blockBits (block 0x13 0)) 215 206 ≠ 3) ∧
    (let x := { portP with linked := true, reqAt := 8192 - 64 * 63 }
     x.linked = true ∧ (groupS x).cycle = x.reqAt + 64 * 63 ∧ field (blockBits (block 0x12 (63 * 2 ^ 112))) 119 112 = 63 ∧
     x.reqAt + 64 * 63 ≤ (groupS x).cycle) ∧
    field (blockBits (block 0x14 (2 ^ 200 + 7 * 2 ^ 192))) 199 192 = 7 ∧ field (blockBits (block 0x14 (2 ^ 200 + 7 * 2 ^ 192))) 247 200 = 1 ∧
    1 ∉ (groupS portP).gt.freqSeen ∧ groupCycle (groupS portP) 8192 + 64 ≤ 1 * 2 ^ 20 ∧ 1 ∈ ({ gtReset with freqSeen := [1] } : GroupTime).freqSeen := by
  decide +kernel

/-- A slip due at the parent port, its loss, the end of a holdover; a port that lost its peer; lockstep launches; a wanted point at the root. -/
theorem witness_group :
    (let s := { groupS portP with gt := { gtReset with slip := some (-5, 8000) } }
     s.gt.slip = some (-5, 8000) ∧ 4 = parentPort s ∧ 8000 ≤ s.cycle) ∧
    ((portNo (groupS portP) 4).role = 1 ∧ (groupS portP).gt.own = false ∧ (∀ y ∈ (groupS portP).parts, y.2.job.any (·.lockstep) = false) ∧
     (groupS portP).gt.holdover = none ∧ 0 + 1000000 ≤ { groupS portP with us := 1000000 }.us) ∧
    (let s := { ofJob tileI with coppice := [(4, { portP with lost := 64, part := some 0 })] }
     64 ≤ (portNo s 4).lost ∧ (portNo s 4).part = some 0 ∧ (partAt s 0).job ≠ none ∧ (portNo (ofJob tileI) 4).lost < 64) ∧
    (let s := { owned with gt := { gtReset with aligned := true }, ctl := { State.reset.ctl with vals := [(256 * 0x6020 + 1, some [7])] } }
     let img := { imageI with lockstep := true }
     partExists s 0 = true ∧ (partAt s 0).job = none ∧ (5 : BitVec 16) ≠ 0 ∧ 88 % 8 = 0 ∧ groupId s ≠ 0 ∧ s.gt.aligned = true ∧ s.cycle + 5120 ≤ 64 * 88 + s.gt.offset ∧
     img.lockstep = true ∧ launchOk s 0 img true = true ∧ 81 % 8 ≠ 0 ∧ 64 * 80 + s.gt.offset < s.cycle + 5120 ∧ owned.gt.aligned = false) ∧
    (let c := { writeW with window := 63 }
     let s := portS { portP with held := [(2, c)] } 8192 []
     isRoot s = true ∧ (portNo s 4).held.find? (fun y => y.2.dstModule.toNat = memberNo s) = some (2, c) ∧ c.window = 63 ∧ c.len8 = 1) := by
  decide +kernel

/-! ### Service -/

/-- A request of 64 bytes for session 1 of partition 0 from service port 4: no tokens, of model 0, of no units. -/
def msgM : InMsg := ⟨0, 0, 16, 4, zeros 16, 1, true, 0, 1, 1, 9, 0, zeros 64⟩

/-- The same with one token and a stated range kept. -/
def bodyB (maxTokens : Nat) : List Byte := zeros 8 ++ natLe 4 maxTokens ++ zeros 44 ++ natLe 4 1 ++ zeros 4 ++ natLe 4 7

/-- Partition 0 serves model 0, tag 5, in µs 2,000,000, its session 1 being `st`, its requests `reqs`. -/
def imageS : Image := { imageI with svc := { imageI.svc with ctxMax := 16, prefillChunk := 4, batchMax := 2 } }
def served (reqs : List Req) (st : SessState) : State :=
  { awake (on tileI) with
    us := 2000000, parts := [(0, { partReset with state := 2, sessCount := 4, model := some 0, image := some imageS, reqs := reqs })]
    sessions := [(1, { sessReset with st := st, part := 0, modelTag := 5 })]
    ctl := { State.reset.ctl with vals := [(256 * 0x3012 + 1, some (natLe 8 0 ++ natLe 4 64 ++ natLe 4 5))] } }

/-- A ping; a request that stands; one of an ill-formed body; one refused for its session; one taken. -/
theorem witness_messages :
    (let s := served [] .resident
     let m := { msgM with body := bodyB 1 }
     partExists s 0 = true ∧ s.rcv.resetting = false ∧ s.rcv.withdrawn = false ∧ findReq s 0 1 9 = none ∧ intakeFull s 0 = false ∧
     bodyOk (zeros 63) = false ∧ refusal s { m with session := 5 } = 2 ∧ refusal s m = 0 ∧ (partAt s 0).model = some (reqOf m).model ∧
     (partAt s 0).image = some imageS ∧ (sessAt s 1).st = .resident ∧ (reqOf m).firstUs = 0 ∧ (reqOf m).tokenUs = 0) ∧
    (let r := { reqOf { msgM with body := bodyB 1 } with flags := 2 }
     let s := served [r] .active
     findReq s 0 1 9 = some (0, r) ∧ rMore r = true ∧ r.early = [] ∧ r.nextSeq = 1 ∧ contOk r.mode (natLe 4 1 ++ natLe 4 2 ++ natLe 4 8) = true ∧
     modelImage s 0 r.model = some imageS ∧
     positionOf s 0 r + (r.input ++ unitsOf r.mode ((natLe 4 1 ++ natLe 4 2 ++ natLe 4 8).drop 8)).length ≤ imageS.svc.ctxMax ∧
     16 ≤ r.queue ∧ r.home = none ∧ rClose r = false ∧ r.lastIn + 1000000 ≤ s.us ∧ rMore { r with flags := 0 } = false) := by
  decide +kernel

/-- A frame from client 00…0 to the address F0…01 of port 4: Ethernet, IPv6, then what `payload` holds under the header `next`. -/
def addrF : List Byte := [0xF0] ++ zeros 14 ++ [1]
def frameF (next : Nat) (payload : List Byte) : List Byte :=
  let body := [0x33, 0x33] ++ zeros 3 ++ [1] ++ zeros 6 ++ [0x86, 0xDD, 0x60, 0, 0, 0] ++ natBe 2 payload.length ++ natLe 1 next ++ [64] ++
    zeros 16 ++ addrF ++ payload
  body ++ natLe 4 (crcReflected 0xEDB88320 0xFFFFFFFF body ^^^ 0xFFFFFFFF)

/-- A UDP datagram to port 30641 with its checksum, and an ICMPv6 message with its own. -/
def udpF (msg : List Byte) : List Byte :=
  let d (c : Nat) : List Byte := natBe 2 1 ++ natBe 2 30641 ++ natBe 2 (8 + msg.length) ++ natBe 2 c ++ msg
  d (0xFFFF - pseudoSum (zeros 16) addrF 17 (d 0))
def icmpF (type : Nat) : List Byte :=
  let d (c : Nat) : List Byte := natLe 1 type ++ zeros 1 ++ natBe 2 c ++ zeros 4
  d (0xFFFF - pseudoSum (zeros 16) addrF 58 (d 0))

/-- Port 4 serves; partition 0 takes every source; one queue pair. -/
def ported : State :=
  let s := served [] .resident
  { s with coppice := [(4, { portUnset with role := 2, state := 3 })]
           ctl := { s.ctl with vals := [(256 * 0x3012 + 1, some (natLe 8 0 ++ natLe 4 64 ++ natLe 4 5)), (256 * 0x6050 + 5, some addrF)] } }

/-- A frame for a global address that passes the checks of Ethernet and IPv6: ICMPv6 is answered, and a datagram whose own checks pass is
a message. -/
theorem frame_passes (s : State) (n : Nat) (bytes : List Byte) (us : Nat) (hv : dictNat s 0x6053 (n + 1) 0 = 0)
    (hf : leNat (bytes.drop (bytes.length - 4)) = crcReflected 0xEDB88320 0xFFFFFFFF (bytes.take (bytes.length - 4)) ^^^ 0xFFFFFFFF)
    (hl : 64 ≤ bytes.length ∧ bytes.length ≤ 9216) (hm : ∃ a ∈ ndAddrs s n, multicastMac a = bytes.take 6)
    (he : beAt bytes 12 2 = 0x86DD) :
    let ip := (bytes.take (bytes.length - 4)).drop 14
    let dst := (ip.drop 24).take 16
    let src := (ip.drop 8).take 16
    let payload := (ip.drop 40).take (beAt ip 4 2)
    leAt ip 0 1 / 16 = 6 → payload.length = beAt ip 4 2 → (globalOf s n).isEmpty = false → dst = globalOf s n →
    (leAt ip 6 1 = 58 → checkFrame s n bytes false us = .icmp (icmpAnswer s n src dst payload) src) ∧
    (leAt ip 6 1 = 17 → 8 ≤ payload.length → beAt payload 2 2 = dictNat s 0x6051 0 30641 → beAt payload 4 2 = payload.length →
      beAt payload 6 2 ≠ 0 → pseudoSum src dst 17 payload = 0xFFFF → colquaOk (payload.drop 8) = true → partExists s (leAt (payload.drop 8) 4 1) = true →
      allowed s (leAt (payload.drop 8) 4 1) src = true → intakeFull s (leAt (payload.drop 8) 4 1) = false →
      ∃ m, checkFrame s n bytes false us = .message m) := by
  intro ip dst src payload h6 hp hg hd
  have hdst : (((bytes.take (bytes.length - 4)).drop 14).drop 24).take 16 = globalOf s n := hd
  have h6' : leAt ((bytes.take (bytes.length - 4)).drop 14) 0 1 / 16 = 6 := h6
  have hpl : ((((bytes.take (bytes.length - 4)).drop 14).drop 40).take (beAt ((bytes.take (bytes.length - 4)).drop 14) 4 2)).length =
    beAt ((bytes.take (bytes.length - 4)).drop 14) 4 2 := hp
  have not_no : ∀ b : Bool, b = true → ¬ ((!b) = true) := by decide
  have and_no : ∀ a b : Bool, b = false → ¬ ((a && b) = true) := by decide
  constructor
  · intro h58
    have h58' : leAt ((bytes.take (bytes.length - 4)).drop 14) 6 1 = 58 := h58
    simp only [checkFrame, hv, ne_eq, not_true_eq_false, decide_false, Bool.false_eq_true, if_false]
    rw [if_neg (by simp [hf]), if_neg (by simpa [hl, he] using fun _ => hm), if_neg (by rw [hpl, hdst, h6', h58']; simp [hg]), if_pos h58']
  · intro h17 h8 hport hlen hsum hps hc hpe hal hin
    have h17' : leAt ((bytes.take (bytes.length - 4)).drop 14) 6 1 = 17 := h17
    refine ⟨inMsg us ⟨16, n, src, beAt payload 0 2, dst = linkLocalOf n, 0⟩ (payload.drop 8), ?_⟩
    simp only [checkFrame, hv, ne_eq, not_true_eq_false, decide_false, Bool.false_eq_true, if_false]
    rw [if_neg (by simp [hf]), if_neg (by simpa [hl, he] using fun _ => hm), if_neg (by rw [hpl, hdst, h6', h17']; simp [hg]), if_neg (by rw [h17']; decide)]
    rw [if_neg ?_, if_neg ?_, if_neg ?_, if_neg ?_, if_neg ?_]
    · exact and_no _ _ hin
    · exact not_no _ hal
    · exact not_no _ hpe
    · exact not_no _ hc
    · simp only [Bool.or_eq_true, decide_eq_true_eq, not_or]
      exact ⟨⟨⟨⟨Nat.not_lt.mpr h8, not_not.mpr hport⟩, not_not.mpr hlen⟩, hsum⟩, not_not.mpr hps⟩

/-- An echo request to the port's global address is answered. -/
theorem icmp_echo (s : State) (n : Nat) (src dst body : List Byte) (hs : pseudoSum src dst 58 body = 0xFFFF) (ht : leAt body 0 1 = 128)
    (hg : (globalOf s n).isEmpty = false) (hd : dst = globalOf s n) : ∃ a, icmpAnswer s n src dst body = some a := by
  subst hd
  simp [icmpAnswer, hs, ht, hg]

/-- A frame with a wrong FCS, a message, an echo, an ICMPv6 message that is not answered; a port that does not serve. -/
theorem witness_frames :
    mirrorsOf ported 4 0 = [] ∧ mirrorsOf ported 4 1 = [] ∧ 0 ≤ ported.us ∧ ported.rcv.resetting = false ∧ portServes ported 4 = true ∧
    portServes (served [] .resident) 4 = false ∧ checkFrame ported 4 (zeros 64) true 0 = .bad 0 ∧
    (∃ m, checkFrame ported 4 (frameF 17 (udpF ([0xA1, 0xC0, 1, 15] ++ zeros 28))) false 0 = .message m) ∧
    (∃ a, checkFrame ported 4 (frameF 58 (icmpF 128)) false 0 = .icmp (some a) (zeros 16)) ∧
    checkFrame ported 4 (frameF 58 (icmpF 1)) false 0 = .icmp none (zeros 16) := by
  have all : ∀ m, ∃ a ∈ ndAddrs ported 4, multicastMac a = (frameF 17 m).take 6 :=
    fun m => ⟨[0xFF, 0x02] ++ zeros 13 ++ [1], List.mem_append_left _ List.mem_cons_self, rfl⟩
  have all' : ∀ m, ∃ a ∈ ndAddrs ported 4, multicastMac a = (frameF 58 m).take 6 :=
    fun m => ⟨[0xFF, 0x02] ++ zeros 13 ++ [1], List.mem_append_left _ List.mem_cons_self, rfl⟩
  refine ⟨by decide +kernel, by decide +kernel, by decide +kernel, by decide +kernel, by decide +kernel, by decide +kernel, by decide +kernel, ?_, ?_, ?_⟩
  · refine (frame_passes ported 4 _ 0 ?_ ?_ ?_ (all _) ?_ ?_ ?_ ?_ ?_).2 ?_ ?_ ?_ ?_ ?_ ?_ ?_ ?_ ?_ ?_ <;> decide +kernel
  · have h := (frame_passes ported 4 (frameF 58 (icmpF 128)) 0 (by decide +kernel) (by decide +kernel) (by decide +kernel) (all' _) (by decide +kernel)
      (by decide +kernel) (by decide +kernel) (by decide +kernel) (by decide +kernel)).1 (by decide +kernel)
    obtain ⟨a, ha⟩ := icmp_echo ported 4 (zeros 16) addrF (icmpF 128) (by decide +kernel) (by decide +kernel) (by decide +kernel) (by decide +kernel)
    let ip := ((frameF 58 (icmpF 128)).take ((frameF 58 (icmpF 128)).length - 4)).drop 14
    have h1 : (ip.drop 8).take 16 = zeros 16 := by decide +kernel
    have h2 : (ip.drop 24).take 16 = addrF := by decide +kernel
    have h3 : (ip.drop 40).take (beAt ip 4 2) = icmpF 128 := by decide +kernel
    exact ⟨a, h.trans (congrArg₂ FrameIs.icmp ((congr (congr (congrArg (icmpAnswer ported 4) h1) h2) h3).trans ha) h1)⟩
  · have h := (frame_passes ported 4 (frameF 58 (icmpF 1)) 0 (by decide +kernel) (by decide +kernel) (by decide +kernel) (all' _) (by decide +kernel)
      (by decide +kernel) (by decide +kernel) (by decide +kernel) (by decide +kernel)).1 (by decide +kernel)
    exact h.trans (by decide +kernel)

/-- A queue pair that is set up, its ring empty of messages; an entry that names a message, a null one, one that is bad. -/
def pairQ : Qp := { qpReset with ctrl := 0x80C40001, tail := 1 }
def paired : State := { served [] .resident with parts := [(0, { (partAt (served [] .resident) 0) with qps := [(0, pairQ)] })] }
def entryE (n : Nat) : List Byte := natLe 8 0 ++ natLe 2 n ++ zeros 22

theorem witness_pairs :
    LinkUp paired ∧ partExists paired 0 = true ∧ partExists (nextCycle (fun x => x) paired) 0 = true ∧
    (qpAt (nextCycle (fun x => x) paired) 0 0).held = [] ∧ qpAt paired 0 0 = pairQ ∧ qpReset.head = qpReset.tail ∧ pairQ.head ≠ pairQ.tail ∧
    qpEnable pairQ = true ∧ intakeFull paired 0 = false ∧ paired.rcv.resetting = false ∧ paired.rcv.withdrawn = false ∧
    (∀ n, n ∈ [0, 32, 9150] → (∀ b ∈ (entryE n).drop 10, b = 0) ∧ leAt (entryE n) 0 8 % 8 = 0 ∧ leAt (entryE n) 8 2 = n) ∧
    leAt (natLe 8 1 ++ zeros 24) 0 8 % 8 ≠ 0 ∧
    (let b : List Byte := [0xA1, 0xC0, 1, 15] ++ zeros 28
     b.length = leAt (entryE 32) 8 2 ∧ colquaOk b = true ∧ leAt b 4 1 = 0 ∧ leAt b 3 1 = 15 ∧ pairQ.held = [] ∧ pcieUp paired = true ∧
     (b.length + 8 + 63) / 64 * 64 ≤ 2 ^ qpRqLog pairQ - pairQ.rqTail % 2 ^ qpRqLog pairQ ∧
     (pairQ.rqTail + 2 ^ 32 - pairQ.rqHead) % 2 ^ 32 + (b.length + 8 + 63) / 64 * 64 ≤ 2 ^ qpRqLog pairQ) := by
  unfold LinkUp; decide +kernel

/-- A module that is ready, without partitions; the definition of partition 0: block 0, 1 GiB of DM, 16 sessions. -/
def defP : List Byte := [1] ++ zeros 31 ++ natLe 8 (2 ^ 30) ++ zeros 2 ++ [1] ++ zeros 1 ++ natLe 2 1 ++ zeros 6 ++ natLe 4 16 ++ zeros 8
def deployed (parts : FMap Part) : State :=
  { State.reset with
    boot := { State.reset.boot with ready := 0xFFFFFFFF, life := 2, running := some (some true) }, parts := parts
    dm := { dmReset with active := List.range 20 }, ctl := { State.reset.ctl with vals := [(256 * 0x3010 + 1, some defP)] } }

/-- Where no other partition exists, every group of slots is free and the grant succeeds, whichever groups it draws. -/
theorem grant_alone (s : State) (p : Nat) (ts : List Nat) (h : others s p = []) : (grantFor s p ts).isSome = true := by
  have free : ∀ x, freeGroups s p x = List.range 64 := by
    intro x
    simp [freeGroups, h]
  have go : ∀ (l : List (Nat × Nat)) (g : FMap Nat → Nat × Nat → FMap Nat) (m : FMap Nat),
      (l.foldl (fun (acc : Option (FMap Nat)) x => acc.bind (fun m => some (g m x))) (some m)).isSome = true := by
    intro l g
    induction l with
    | nil => intro m; rfl
    | cons x l ih => intro m; exact ih (g m x)
  simp only [grantFor, free, List.length_range]
  simpa using go _ _ _

/-- CREATE of a definition without ports, where no other partition exists. -/
theorem create_alone (s : State) (p : Nat) (d : PartDef) (hd : partDef s p = some d) (ho : others s p = [])
    (hm : d.dmBase + d.dmSize + 2 ^ 30 ≤ dmCapacity s) (hl : dlogIn s d.dmBase d.dmSize = false)
    (hf : dictNat s 0x3050 (p + 1) 8 ≤ (freeSlices s p).length) (hp : ∀ n, n < 8 → d.ports.testBit n = false)
    (he : partExists s p = false) (hs : d.energyShare ≤ 65536) : createCode s p = 0 := by
  have hg := grant_alone s p (defTiles d) ho
  have hm' := Nat.not_lt.mpr hm
  have hf' := Nat.not_lt.mpr hf
  have hs' := Nat.not_lt.mpr hs
  simp only [Option.isSome_iff_ne_none, ne_eq] at hg
  delta createCode
  rw [hd]
  simp only [ho, hl, hg, he, hm', hf', hs', List.any_nil, List.map_nil, List.sum_nil, Nat.zero_add, Bool.or_false, decide_false,
    List.any_eq_true, List.mem_range, Bool.and_eq_true, Bool.false_eq_true, if_false, exists_false, and_false, Option.isNone_iff_eq_none]
  exact if_neg (fun ⟨n, hn, h, _⟩ => by simp [hp n hn] at h)

/-- A definition that passes, one that fails, none; an absent partition; an idle one; an extent that is its own and one that is not; a selection in the span. -/
theorem witness_partitions :
    partsServed (deployed []) = true ∧ createCode (deployed []) 0 = 0 ∧ createCode (deployed []) 1 ≠ 0 ∧ partDef (deployed []) 1 = none ∧
    (partDef (deployed []) 0).isSome = true ∧ partExists (deployed []) 0 = false ∧
    (let s := deployed [(0, { partReset with state := 2, sessCount := 4 })]
     partExists s 0 = true ∧ (partAt s 0).reqs = [] ∧ (partAt s 0).job = none ∧ sessionsOf s 0 = [] ∧ sampled s 2 = false ∧
     (∀ r ∈ (partAt s 0).reqs, r.inFlight = false) ∧ s.boot.life ≠ 4 ∧ runningSlot s ≠ none ∧ readyBit s 10 = true ∧ roleOf s (clientNo .i3c) ≠ 1 ∧
     inSpan s 0 (leNat (natLe 4 3)) = true ∧ (natLe 4 3).length = 4 ∧ inSpan s 0 (leNat (natLe 4 4)) = false ∧ (natLe 4 4).length = 4) ∧
    extentNameOk (deployed []) 0 0xFFFF = true ∧ extentNameOk (deployed []) 0 3 = false := by
  exact ⟨by decide +kernel,
    create_alone _ _ ⟨[0], 0, 2 ^ 30, 0, false, 1, 1, 0, 0, 16⟩ (by decide +kernel) rfl (by decide +kernel) (by decide +kernel) (by decide +kernel)
      (fun n _ => Nat.zero_testBit n) (by decide +kernel) (by decide), by decide +kernel, by decide +kernel, by decide +kernel, by decide +kernel, by decide +kernel, by decide +kernel,
    by decide +kernel⟩

/-- A running request of one token to give, its job at step 3, steps under way as stated; a slot of a prompt and one of a token. -/
def reqR : Req := { reqOf { msgM with body := bodyB 1 } with accepted := true, inFlight := true, started := true, firstAt := some 0, input := [] }
def slotR (kind : Nat) (gives : Bool) : StepSlot := ⟨1, 9, kind, [], 1, gives, 16⟩
def stepping (r : Req) (steps : List OpenStep) : State :=
  let s := served [r] .active
  { s with parts := [(0, { partAt s 0 with job := some { jobJ with started := true, step := 3, open_ := steps }, outputs := 1 })] }

/-- A boundary with a cancelled request and with one that takes its slot; an output of a prompt and of a token; the commands of a session. -/
theorem witness_steps :
    (let s := served [{ reqR with cancel := true }] .active
     let s := { s with parts := [(0, { partAt s 0 with image := none })] }
     partExists s 0 = true ∧ s.rcv.resetting = false ∧ s.rcv.withdrawn = false ∧ (partAt s 0).reqs = [{ reqR with cancel := true }] ∧ reqR.home = none ∧
     16 ≤ reqR.queue ∧ rClose reqR = false ∧ (partAt s 0).job = none ∧ (partAt s 0).image = none) ∧
    (let s := stepping reqR []
     (partAt s 0).reqs = [reqR] ∧ (partAt s 0).job = some { jobJ with started := true, step := 3, open_ := [] } ∧ (partAt s 0).image = some imageS ∧
     (partAt s 0).model = some reqR.model ∧ (partAt s 0).hold = false ∧ imageS.lockstep = false ∧ rReplay reqR = false ∧ stepable s 0 reqR = true ∧
     slotFor s 0 imageS reqR = some (slotR 1 true) ∧ capOf s (sessAt s 1) = none ∧ affordable s 0 (estimate (partAt s 0) imageS 1) = true) ∧
    (∀ k, k ∈ [0, 1] → let r := { reqR with flags := if k = 0 then 2 else 0 }
     let o : OpenStep := ⟨2, 5, 0, 0, [slotR k (k = 1)]⟩
     let s := stepping r [o]
     5 ≤ s.us ∧ 0 < (partAt s 0).outputs ∧ (partAt s 0).image = some imageS ∧ (partAt s 0).reqs = [r] ∧ r.session = (slotR k true).session ∧
     r.reqId = (slotR k true).reqId ∧ rClose r = false ∧ (k = 0 → rMore r = true)) ∧
    (let s := served [] .free
     partExists s 0 = true ∧ inSpan s 0 1 = true ∧ (sessAt s 1).st = .free) ∧
    (let s := served [reqR] .active
     let s := { s with parts := [(0, { partAt s 0 with resumes := [(1, 0, [2, 3])] })] }
     (sessAt s 1).st ≠ .free ∧ (sessAt s 1).fallback = none ∧ (partAt s 0).resumes = [(1, 0, [2, 3])] ∧ (partAt s 0).reqs = [reqR] ∧ reqR.session = 1 ∧
     0 + 10000 ≤ s.us ∧ (partAt (served [reqR] .active) 0).resumes = []) := by
  decide +kernel

/-! ### The governor, hangs, resets -/

/-- An interval without activity in calm weather. -/
def intervalX : Interval :=
  { activity := [], leaks := [], measuredStacks := [], measuredInput := 0, converterFault := [], us := 0, charges := [], sensors := ⟨[], 0, [], 0⟩,
    coolantIn := 0, coolantOut := 0, mainMv := 0, standbyMv := 0 }

/-- Partition 0 exists and owns tile 5, in cycle `c`, its governor being `g`. -/
def powered (c : Nat) (g : Gov) : State := { awake owned with cycle := c, gov := g }

/-- Without activity the estimate is 0, whatever the weights are. -/
theorem no_energy (g : Gov) (point ns : Nat) (m : FMap Int) : intervalEnergy g (rawAll point ns m intervalX) = 0 := by
  have e : rawEnergy point ns m intervalX = fun _ => 0 := funext fun d => by simp [rawEnergy, intervalX]
  have z : ∀ d, ((List.range 21).map (fun _ => 0)).getD d 0 = 0 := fun d => by
    rw [List.map_const', List.getD_eq_getElem?_getD, List.getElem?_replicate]; split <;> rfl
  unfold intervalEnergy rawAll
  rw [e, List.sum_eq_zero]
  intro x hx
  obtain ⟨d, _, rfl⟩ := List.mem_map.mp hx
  rw [z, Nat.mul_zero, Nat.zero_div]

/-- Where an interval has an estimate at all, gains exist under which it passes the fast limit. -/
theorem witness_fast_limit (point ns : Nat) (m : FMap Int) (x : Interval) (h : 0 < rawEnergy point ns m x 20) :
    ∃ g : Gov, 7500 * ns < intervalEnergy g (rawAll point ns m x) * 1000 := by
  refine ⟨{ govReset with gains := [(20, 65536 * (7500 * ns + 1))] }, ?_⟩
  have hle : (7500 * ns + 1) ≤ intervalEnergy { govReset with gains := [(20, 65536 * (7500 * ns + 1))] } (rawAll point ns m x) := by
    have : (7500 * ns + 1) ≤ gainOf { govReset with gains := [(20, 65536 * (7500 * ns + 1))] } 20 * (rawAll point ns m x).getD 20 0 / 65536 := by
      rw [Nat.le_div_iff_mul_le (by decide)]
      have e : (rawAll point ns m x).getD 20 0 = rawEnergy point ns m x 20 := rfl
      have e2 : gainOf { govReset with gains := [(20, 65536 * (7500 * ns + 1))] } 20 = 65536 * (7500 * ns + 1) := rfl
      rw [e, e2]
      calc (7500 * ns + 1) * 65536 = 65536 * (7500 * ns + 1) * 1 := by ring
        _ ≤ _ := Nat.mul_le_mul_left _ h
    refine this.trans ?_
    exact List.single_le_sum (fun _ _ => Nat.zero_le _) _ (List.mem_map.mpr ⟨20, by decide, rfl⟩)
  omega

/-- An interval that ends in cycle 4,096; a charge to a partition and to the device; a failed converter; a hot sensor. -/
theorem witness_intervals :
    (let s := powered 4096 govReset
     let ns := nowNs s - s.gov.markNs
     clockOn s = true ∧ s.cycle % 4096 = 0 ∧ s.gov.interval < s.cycle / 4096 ∧
     (∀ d, d < 4 → intervalX.sensors.hazel.getD d 0 < 100000) ∧ intervalX.sensors.husk < 100000 ∧ intervalX.sensors.regulator < 115000 ∧
     (∀ d, d < 21 → intervalX.converterFault.getD d false = false) ∧
     intervalEnergy s.gov (rawAll s.point ns (sensorMap intervalX.sensors) intervalX) * 1000 ≤ 7500 * ns ∧ s.gov.overNs + ns < 10000000) ∧
    accountOf (powered 4096 govReset) (.tile ⟨5, by decide⟩) = some 0 ∧ partExists (powered 4096 govReset) 0 = true ∧
    accountOf (powered 4096 govReset) .device = none ∧
    (({ intervalX with converterFault := List.replicate 21 true } : Interval).converterFault.getD 20 false = true) ∧
    fmGet false (powered 4096 govReset).gov.frozen 20 = false ∧
    110000 ≤ ({ intervalX with sensors := ⟨[0, 0, 0, 110000], 0, [], 0⟩ } : Interval).sensors.hazel.getD 3 0 ∧
    (powered 4096 govReset).rcv.snap = none ∧ (powered 4096 govReset).rcv.asked = none := by
  refine ⟨⟨by decide +kernel, by decide, by decide, by decide, by decide, by decide, by decide, ?_, by decide +kernel⟩, by decide +kernel⟩
  rw [no_energy, Nat.zero_mul]
  exact Nat.zero_le _

/-- A boundary of an epoch that kept its budget and of one that did not, a domain in calibration; a decision of every kind; the root of a group. -/
theorem witness_epochs :
    (∀ e, e ∈ [0, 2] → let s := powered 5 { govReset with headroom := 1, epochE := e, raw := [(20, 100)], meas := [(20, 100)] }
     Quiet s ∧ s.parts = [(0, { partReset with state := 2 })] ∧ partExists s 0 = true ∧ groupId s = 0 ∧ s.gov.clock = epochClock s ∧
     epochOverrun s.gov = decide (e = 2) ∧ fmGet false s.gov.frozen 20 = false ∧ fmGet 0 s.gov.raw 20 = 100 ∧ measuredOf s.gov 20 = 100 ∧
     ([] : List Nat).getD 20 0 ≤ 100 * 100) ∧
    (∀ th, th ∈ [true, false] → ∀ late, late ∈ [true, false] → ∀ run, run ∈ [15, 16] →
      let s := powered (2 ^ 19) { govReset with thermal := th, overrunLast := late, goodRun := run }
      readyBit s 3 = true ∧ s.gov.clockStopped = false ∧ epochCycle s s.cycle % 2 ^ 20 = 2 ^ 19 ∧ s.gov.halfDone = false ∧ groupId s = 0 ∧
      s.parts.any (fun y => partExists s y.1) = true ∧ ({ s with parts := [] } : State).parts.any (fun y => partExists s y.1) = false ∧
      ∀ d, d < 4 → declared s d = 0) ∧
    (let s := { groupS portP with cycle := 2 ^ 19, ctl := { State.reset.ctl with vals := [(256 * 0x6020 + 1, some [7])] } }
     groupId s ≠ 0 ∧ isRoot s = true ∧ s.gt.aligned = true ∧ epochCycle s s.cycle % 2 ^ 20 = 2 ^ 19 ∧ readyBit s 3 = true ∧ s.gov.clockStopped = false ∧
     s.gov.halfDone = false ∧ (portNo s 4).role = 1 ∧ 3 ≤ (portNo s 4).state ∧ (portNo s 4).state ≠ 5) ∧
    (let s := powered 5 { govReset with stretchLeft := 256 }
     clockOn s = true ∧ Quiet s ∧ s.gov.stretchLeft = 256 ∧ s.gt.lag + 128 ≤ 1024) ∧
    (∀ n, n ∈ [9999999, 10000000] → let s := powered 5 { govReset with overNs := n }
     s.gov.stretchLeft = 0 ∧ s.gt.lag ≤ 1024 ∧ s.gov.overNs = n) := by
  unfold Quiet
  refine ⟨?_, ?_, ?_, ?_, ?_⟩ <;> decide +kernel

/-- Where nothing is declared, no point passes its rating. -/
theorem no_rating (s : State) (h : ∀ d, d < 4 → declared s d = 0) (q : Nat) : overRating s q = false := by
  unfold overRating
  rw [List.any_eq_false]
  intro d hd
  rw [h d (List.mem_range.mp hd)]
  simp

/-- A step beyond its watchdog; a job without open steps; resets with and without a snapshot, and during one. -/
theorem witness_hangs :
    (let j := { jobJ with open_ := [⟨2, 0, 0, 0, []⟩] }
     let s := { awake (ofJob tileI) with us := 1000 * jobJ.watchdogMs, parts := [(0, { partReset with state := 4, job := some j })] }
     (partAt s 0).job = some j ∧ j.open_ = ⟨2, 0, 0, 0, []⟩ :: [] ∧ 0 + 1000 * j.watchdogMs ≤ s.us ∧ partExists s 0 = true ∧ jobJ.open_ = []) ∧
    (∀ v, v ∈ [0, 0x0C] → let s := { deployed [] with esp := { (deployed []).esp with hubOk := 0xF }, ctl := { State.reset.ctl with vals := [(256 * 0x9040, some [BitVec.ofNat 8 v])] } }
     s.boot.running = some (some true) ∧ s.pins.taken = false ∧ s.seed.writes = [] ∧ s.rcv.snap = none ∧ sampled s 3 = decide (v = 0x0C) ∧
     sampled s 4 = decide (v = 0x0C) ∧ s.esp.hubOk.getLsbD 0 = true ∧ s.rcv.withdrawn = false ∧ readyBit s 6 = true ∧ s.gov.clockStopped = false ∧
     ({ s with rcv := { s.rcv with withdrawn := true } } : State).rcv.withdrawn = true) ∧
    (∀ c, c ∈ [0, 1] → let y : Snap := ⟨1, 0x16, 1, c, 0, [], [], false⟩
     let s := { deployed [] with rcv := { rcvReset with snap := some y } }
     s.rcv.snap = some y ∧ (y.cycle ≠ s.cycle ↔ c = 1) ∧ s.rcv.asked = none ∧ y.domain < 3 ∧ s.gov.clockStopped = false) ∧
    (deployed []).esp.hubOk.getLsbD 0 = false := by
  decide +kernel

/-- A snapshot past its bound at each level, a reset past its own; a hold flag of a job that is launched again and of one that is not. -/
theorem witness_escalation :
    (∀ k, k ∈ [1, 2] → let y : Snap := ⟨k, 0x11, 1, 0, 0, [], [], false⟩
     let s := { deployed [] with us := 100000, rcv := { rcvReset with snap := some y, after := some (k, 0x11, some 0) } }
     s.rcv.after = some (k, 0x11, some 0) ∧ s.rcv.snap = some y ∧ y.us + 100000 ≤ s.us ∧ s.rcv.resetting = false) ∧
    (let s := { deployed [] with us := 10000000, rcv := { rcvReset with resetting := true }, ctl := { State.reset.ctl with vals := [(256 * 0x9040, some [0])] } }
     s.rcv.resetting = true ∧ s.rcv.began + 10000000 ≤ s.us ∧ s.rcv.snap = none ∧ sampled s 4 = false ∧ s.boot.running = some (some true) ∧
     s.pins.taken = false ∧ s.seed.writes = []) ∧
    (let s := { awake owned with parts := [(0, { partReset with state := 2, image := some imageI, hold := true })] }
     (partAt s 0).image = some imageI ∧ (partAt s 0).hold = true ∧ (partAt s 0).job = none ∧ imageI.lockstep = false ∧ dictNat s 0x9020 1 3 ≠ 0 ∧
     launchOk (updPart s 0 (fun x => { x with hold := false })) 0 imageI false = true ∧ (partAt owned 0).image = none) := by
  decide +kernel

/-! ### Control plane -/

/-- A Hedgerow frame. -/
def fr (op seq idx sub off len : Nat) (data : List Byte) : HFrame :=
  ⟨0x4E48, 1, BitVec.ofNat 8 op, 0, seq, idx, sub, 0, off, len, 0, data⟩

/-- A deployed module whose bus requester has the record `k`. -/
def asked (k : Client) : State := { deployed [] with ctl := { State.reset.ctl with clients := [(0, k)] } }

/-- The frames of the bus requester: repeated, next, out of order; a short, a long, an absent value; a read-only and a writable entry; an entry with and one without an empty value. -/
theorem witness_requests :
    (let s := asked { clientReset with seq := 5, resp := [1] }
     readyBit s 0 = true ∧ s.boot.running ≠ none ∧ (clientAt s 0).resp ≠ [] ∧ (clientAt s 0).seq = 5 ∧ (clientAt s 0).snap = none ∧
     (5 + 1) % 2 ^ 32 = 6 ∧ 7 ≠ 5 ∧ 7 ≠ (5 + 1) % 2 ^ 32) ∧
    (∀ q, q ∈ [5, 6, 7] → frameOk 1 (fr 1 q 0x1001 1 0 0 []) = true ∧ frameOk 2 (fr 2 q 0x3070 1 0 4 (natLe 4 7)) = true ∧
      frameOk 3 (fr 3 q 0x1001 1 0 4 []) = true ∧ frameOk 3 (fr 3 q 0x1001 1 4 4 []) = true ∧ frameOk 4 (fr 4 q 0x6050 1 0 0 []) = true) ∧
    frameOk 2 (fr 2 6 0x3070 1 0 0 []) = true := by
  decide +kernel

theorem witness_values :
    let s := asked clientReset
    dictRead s 0 0x1001 1 = .ok ([0x44, 0x72, 0x61, 0x76, 0x68, 0x65, 0x6C] : List Byte) ∧ dictRead s 0 0 0 = .error 0x01000001 ∧
    dictRead { s with stk := [(4, { stackReset with record := zeros 1025 })] } 0 0x4040 5 = .ok (zeros 1025) ∧ 1024 < (zeros 1025).length ∧
    findEntry s 0 0x1001 1 = .ok (some (sized 0 16 (allRow 0x1001 1 3 .str .const false)), .const) ∧
    findEntry s 0 0x1010 0 = .ok (some (allRow 0x1010 0 0 .u32 .ro false), .ro) ∧
    findEntry s 0 0x3070 1 = .ok (some (partRow 0x3070 .u32 .rw .ro true), .rw) ∧
    valueOk s 0 (partRow 0x3070 .u32 .rw .ro true) 1 (natLe 4 7) = true ∧ valueOk s 0 (partRow 0x3070 .u32 .rw .ro true) 1 (natLe 4 0) = false ∧
    (clientAt (asked { clientReset with snap := some (256 * 0x1001 + 1, zeros 7) }) 0).snap = some (256 * 0x1001 + 1, zeros 7) ∧
    findEntry s 0 0x6050 1 = .ok (some (orEmpty (sized 16 16 (opRow 0x6050 1 8 .octets .rw true))), .rw) ∧ stateRo s 0x6050 1 0 = false ∧
    stateRo s 0x3070 1 0 = false ∧ (orEmpty (sized 16 16 (opRow 0x6050 1 8 .octets .rw true))).empty = true ∧
    (partRow 0x3070 .u32 .rw .ro true).empty = false := by
  refine ⟨rfl, rfl, rfl, by decide +kernel, rfl, rfl, rfl, ?_⟩
  refine ⟨by decide +kernel, by decide +kernel, by decide +kernel, rfl, by decide +kernel, by decide +kernel, rfl, rfl⟩

/-- A source that the list allows, a free session number and none, a session with a nonce, an authenticated and an idle one. -/
def udpS (k : Client) : State :=
  let s := deployed []
  { s with
    us := 60000000
    ctl := { s.ctl with clients := [(65, k)], vals := [(256 * 0x1030 + 3, some (zeros 17)), (256 * 0xA010, some (zeros 32))] } }
def udpK : Client := { clientReset with open_ := true, nonce := zeros 16, src := zeros 16 }

theorem witness_udp :
    (let s := udpS udpK
     readyBit s 0 = true ∧ firmwareRuns s = true ∧ s.pins.taken = false ∧ sourceOk s (zeros 16) = true ∧ frameOk 0x10 (fr 0x10 0 0 0 0 1 [0]) = true ∧
     leAt (fr 0x10 0 0 0 0 1 [0]).data 0 1 = 0 ∧ leAt (fr 0x10 0 0 0 0 1 [2]).data 0 1 = 2 ∧ freeUdp s = some 2 ∧ (clientAt s 65).open_ = true ∧
     sourceOk s (clientAt s 65).src = true ∧ ((clientAt s 65).seq + 1) % 2 ^ 32 = 0 ∧ (clientAt s 65).vendor = false ∧ (clientAt s 65).nonce ≠ [] ∧
     dictVal s 0xA010 0 = some (zeros 32) ∧ frameOk 0x12 (fr 0x12 0 0 0 0 0 []) = true ∧ frameOk 1 (fr 1 0 0x1001 1 0 0 []) = true ∧
     (clientAt s 65).authed = false ∧ (clientAt s 65).lastUs + 60000000 ≤ s.us) ∧
    freeUdp { deployed [] with ctl := { State.reset.ctl with clients := (List.range 8).map (fun k => (65 + k, udpK)) } } = none ∧
    (let proof := hmacSha256 (zeros 32) (zeros 16 ++ natLe 4 1)
     frameOk 0x11 (fr 0x11 0 0 0 0 proof.length proof) = true ∧ (fr 0x11 0 0 0 0 proof.length proof).data = proof ∧
     frameOk 0x11 (fr 0x11 0 0 0 0 0 []) = true ∧ (fr 0x11 0 0 0 0 0 []).data ≠ proof) ∧
    (let s := asked { clientReset with snap := some (0, []) }
     (clientAt { s with us := 1000000 } 0).snap ≠ none ∧ (clientAt { s with us := 1000000 } 0).snapAt + 1000000 ≤ 1000000 ∧
     (clientAt (asked clientReset) 0).snap = none) := by
  refine ⟨?_, ?_, ?_, ?_⟩ <;> decide +kernel

/-- The host reaches a running tile; mailboxes that are idle and busy; a partition's sweep of its own sums. -/
theorem witness_registers :
    (let s := awake (deployed [(0, { partReset with state := 2 })])
     let s := { s with tiles := [(5, { tileI with regs := { tileI.regs with twigOk := true } })] }
     LinkUp s ∧ twigUp s 5 = true ∧ (tileAt s 5).cnt.cntSel < 16 ∧ twigUp (nextCycle (fun y => y) s) 5 = true ∧ pcieUp s = true ∧ partExists s 0 = true ∧
     s.boot.life ≠ 4 ∧ runningSlot s ≠ none ∧ readyBit s 10 = true ∧ (mbxAt (nextCycle (fun y => y) s) 0).busy = false ∧
     (mbxAt (nextCycle (fun y => y) { s with ctl := { s.ctl with mbx := [(0, { mbxReset with busy := true })] } }) 0).busy = true) ∧
    ((1 : BitVec 32).getLsbD 0 = true ∧ (0 : BitVec 32).getLsbD 0 = false) := by
  unfold LinkUp; decide +kernel

/-- A sweep in which nothing sealed was written, armed, whose result is not the reference. -/
theorem witness_sweeps :
    ∃ s : State, s.dev.touched = false ∧ s.dev.enable = true ∧ s.dev.armed = true ∧ s.dev.stale = false ∧ s.dev.refSweep = false ∧
      BitVec.ofNat 32 (crc32c ((sealedWords s).flatMap (natLe 4))) ≠ s.dev.ref := by
  let c := BitVec.ofNat 32 (crc32c ((sealedWords (deployed [])).flatMap (natLe 4)))
  refine ⟨{ deployed [] with dev := { (deployed []).dev with enable := true, armed := true, stale := false, ref := c + 1 } }, rfl, rfl, rfl, rfl, rfl, ?_⟩
  show c ≠ c + 1
  generalize c = d
  bv_omega

/-- A sweep that is the reference sweep, and one whose reference was written. -/
theorem witness_reference :
    let s := deployed []
    ({ s with dev := { s.dev with refSweep := true } } : State).dev.touched = false ∧ ({ s with dev := { s.dev with refWait := true } } : State).dev.refWait = true ∧
    s.dev.refSweep = false ∧ s.dev.refWait = false ∧ pcieUp s = true := by
  decide +kernel

/-! ### Bring-up, life cycle, pins -/

/-- At the boot ROM; with the image of slot B running; a chunk of every kind. -/
theorem witness_firmware :
    State.reset.boot.running = none ∧ State.reset.boot.record = none ∧ (deployed []).boot.running = some (some true) ∧ (deployed []).boot.fusedMin ≤ 64 ∧
    (∀ at_, at_ ∈ [0, 48 * 2 ^ 20 - 4, 48 * 2 ^ 20] → let data := natLe 4 at_ ++ zeros 4
      8 ≤ data.length ∧ data.length ≤ 1024 ∧ leAt data 0 4 % 4 = 0 ∧ (leAt data 0 4 + data.length - 4 ≤ 48 * 2 ^ 20 ↔ at_ ≠ 48 * 2 ^ 20)) := by
  decide +kernel

/-- A module with those ready bits. -/
def ready (bits : Nat) (life : Nat) : State := { State.reset with boot := { State.reset.boot with ready := BitVec.ofNat 32 bits, life := life, running := some (some true) } }

/-- Before admission, in the start sequence, before device ready; retired; with main power; after a trip that cleared and one that has not. -/
theorem witness_power :
    (let s := ready 1 2
     readyBit s 0 = true ∧ s.boot.life ≠ 4 ∧ firmwareRuns s = true ∧ readyBit s 2 = false ∧ s.gov.huskTrip = false ∧ s.gov.regTrip = false) ∧
    (ready 1 4).boot.life = 4 ∧
    (let s := ready 7 2
     readyBit s 2 = true ∧ readyBit s 3 = false ∧ readyBit s 4 = false ∧ readyBit s 7 = false ∧ s.rcv.withdrawn = false ∧ s.rcv.snap = none ∧
     s.gov.clockStopped = false ∧ s.pins.refHold = false ∧ s.pins.taken = false ∧ s.seed.writes = [] ∧
     ({ s with rcv := { s.rcv with withdrawn := true } } : State).rcv.withdrawn = true) ∧
    (let s := ready 0xFF 1
     (∀ n, n ∈ [3, 4, 5, 6, 7] → readyBit s n = true) ∧ readyBit s 10 = false ∧ s.boot.life = 1 ∧ s.rcv.withdrawn = false) ∧
    (∀ t, t ∈ [89999, 90000] → let s := { ready 0xFF 2 with gov := { govReset with clockStopped := true, sensors := [(0, t)] } }
      s.gov.clockStopped = true ∧ s.gov.huskTrip = false ∧ s.gov.regTrip = false ∧ (hottestHazel s.gov < 90000 ↔ t = 89999)) ∧
    keptKey (256 * 0x2010 + 1) = true ∧ fmGet none ({ ready 0 2 with ctl := { State.reset.ctl with vals := [(256 * 0x2010 + 1, some [0, 0])] } } : State).ctl.vals (256 * 0x2010 + 1) = some [0, 0] := by
  decide +kernel

/-- A CRC of 32 bits is below 2^32. -/
theorem crcBit_lt {p c : Nat} (hp : p < 2 ^ 32) (hc : c < 2 ^ 32) : crcBit p c < 2 ^ 32 := by
  unfold crcBit
  split
  · exact Nat.xor_lt_two_pow (by omega) hp
  · omega

theorem crc32c_lt (bs : List Byte) : crc32c bs < 2 ^ 32 := by
  have go : ∀ (bs : List Byte) (c : Nat), c < 2 ^ 32 → bs.foldl (crcByte 0x82F63B78) c < 2 ^ 32 := by
    intro bs
    induction bs with
    | nil => exact fun _ h => h
    | cons b bs ih =>
      intro c h
      have hp : (0x82F63B78 : Nat) < 2 ^ 32 := by decide
      have hb : c ^^^ b.toNat < 2 ^ 32 := Nat.xor_lt_two_pow h (by have := b.isLt; omega)
      exact ih _ (crcBit_lt hp (crcBit_lt hp (crcBit_lt hp (crcBit_lt hp (crcBit_lt hp (crcBit_lt hp (crcBit_lt hp (crcBit_lt hp hb))))))))
  exact Nat.xor_lt_two_pow (go bs _ (by decide)) (by decide)

/-- Commands that transition to a state, sure and not sure, with and without the reserved bytes at 0. -/
theorem witness_transition :
    (∀ a, a ∈ [0, 1] → ∃ c : List Byte, c.length = 8 ∧ leAt c 0 1 = 3 ∧ (leAt c 1 3 = 0 ↔ a = 0) ∧ leAt c 4 4 = crc32c Config.serial) ∧
    (∃ c : List Byte, c.length = 8 ∧ leAt c 0 1 = 3 ∧ leAt c 4 4 ≠ crc32c Config.serial) ∧
    (let s := { deployed [] with ctl := { State.reset.ctl with vals := [(256 * 0x9040, some [0])] } }
     roleOf s (clientNo .i3c) ≠ 1 ∧ lifeReady s = true ∧ lifeAllowed s.boot.life 3 (roleOf s (clientNo .i3c)) = true ∧
     lifeAllowed s.boot.life 0 (roleOf s (clientNo .i3c)) = false ∧ s.parts = [] ∧ s.rcv.snap = none ∧ s.pins.taken = false ∧ sampled s 3 = false) := by
  have back : ∀ n, n < 2 ^ 32 → leNat (natLe 4 n) = n := by
    intro n h
    simp only [natLe, leNat, BitVec.toNat_ofNat]
    omega
  have h := crc32c_lt Config.serial
  refine ⟨fun a ha => ⟨[3, BitVec.ofNat 8 a, 0, 0] ++ natLe 4 (crc32c Config.serial), rfl, rfl, ?_, back _ h⟩, ?_, by decide +kernel⟩
  · fin_cases ha <;> decide
  · by_cases e : crc32c Config.serial = 0
    · exact ⟨[3, 0, 0, 0, 1, 0, 0, 0], rfl, rfl, by rw [e]; decide⟩
    · exact ⟨[3, 0, 0, 0, 0, 0, 0, 0], rfl, rfl, fun x => e (x.symm.trans (by decide))⟩

/-- PERST_N low and high, main power there and not, REFCLK running and stopped. -/
theorem witness_perst :
    ({ ready 5 2 with pins := { pinsReset with perst := true } } : State).pins.perst = true ∧ readyBit (ready 5 2) 2 = true ∧
    (ready 5 2).pins.refclk = true ∧ (ready 5 2).pins.taken = false ∧ (ready 5 2).pins.perst = false ∧ readyBit (ready 1 2) 2 = false := by
  decide +kernel

/-- Pulses of MOD_RESET_N; a REFCLK lost for a second at a module that needs it and at one that does not; pins taken and let go. -/
theorem witness_pins :
    (1999 < 2000 ∧ 10000 ≤ 10000 ∧ (ready 0xFF 2).rcv.snap = none ∧ (ready 0xFF 2).pins.refclk = true ∧ (ready 0xFF 2).pins.refLost = none) ∧
    (∀ p, p ∈ [0xFF, 4] → let s := { ready 0xFF 2 with
        us := 1000000, pins := { pinsReset with refclk := false, refLost := some 0 }
        ctl := { State.reset.ctl with vals := [(256 * 0x6020 + 1, some [7]), (256 * 0x6020 + 3, some [BitVec.ofNat 8 p]), (256 * 0x9040, some [0])] } }
      s.pins.refclk = false ∧ s.pins.refLost = some 0 ∧ 0 + 1000000 ≤ s.us ∧ clockFromRef s = decide (p = 0xFF) ∧ s.boot.running ≠ none ∧ s.rcv.snap = none ∧
      s.pins.taken = false ∧ sampled s 3 = false ∧ sampled s 4 = false) ∧
    ({ pinsReset with refHold := true } : Pins).refclk = true ∧
    (∀ i : BitVec 8, i ∈ [(3 : BitVec 8), 1] → let s := { ready 0xFF 0 with pins := { pinsReset with taken := true, tap := i, vendorTap := true } }
      s.pins.taken = true ∧ pinDriving s.pins.tap = decide (i = 3) ∧ s.pins.vendorTap = true ∧ s.boot.life = 0 ∧ readyBit s 0 = true) ∧
    (let y : PinLevels × PinCells := (⟨true, true, true, 3⟩, ⟨false, true, 5⟩)
     let s := { ready 0xFF 0 with pins := { pinsReset with scans := [y] } }
     s.pins.scans = y :: [] ∧ s.pins.taken = false) ∧
    (ready 0xFF 2).pins.scans = [] ∧ (ready 0xFF 2).pins.vendorTap = false ∧ (0x80 : BitVec 8).toNat = 0x80 ∧ (8 : Byte) ≠ 0 ∧ (8 : Byte) ≠ 0xFF := by
  decide +kernel

/-! ### The machine as a whole -/

/-- A queue with a command in front, an empty one; a state that meets the invariant and whose step answers a next state. -/
theorem witness_queue :
    ({ on tileI with pending := [Instr.boot] } : State).pending = Instr.boot :: [] ∧ (on tileI).pending = [] ∧ Machine.Inv (on tileI) ∧
    ∃ t, step { on tileI with pending := [Instr.trstN] } = .next t :=
  ⟨rfl, rfl, by unfold Machine.Inv; decide +kernel, _, rfl⟩

/-! ### Operands that no sender can send -/

def msg0 : CMsg := askM 0 0
def hdr0 : MwHdr := ⟨0, 0, 1, 0, false, 0, 0, 0⟩

theorem test_ill_formed_images_and_flits :
    (Instr.launch 0 { imageI with tiles := [⟨2112, 0, [], [], 0, [], [0, 0, 0, 0], 0, []⟩] }).wf = false ∧
    (Instr.lockstepLaunch 0 (2 ^ 64) 0 imageI).wf = false ∧
    (Instr.flitLanding ⟨5, by decide⟩ none ⟨1, false, 0, false, 0, 0, zeros 63⟩).wf = false ∧
    (Instr.mw ⟨hdr0, zeros 9, false, 0⟩).wf = false ∧ (Instr.mack { hdr0 with ac := 64 }).wf = false ∧
    (Instr.windowWrite 0 { writeW with data := zeros 65 }).wf = false := by
  decide +kernel

theorem test_ill_formed_messages :
    (Instr.gets 0 { msg0 with line := 2 ^ 34 }).wf = false ∧ (Instr.wru 0 { msg0 with data := zeros 129 }).wf = false ∧
    (Instr.cnt 0 { msg0 with ac := 64 }).wf = false ∧ (Instr.homeTimeout 0 (2 ^ 34)).wf = false ∧ (Instr.request { msgM with queue := 17 }).wf = false ∧
    (Instr.submissionEntry 0 0 (entryE 0).tail none 0).wf = false ∧ (Instr.submissionEntry 0 0 (entryE 0) none 0).wf = true := by
  decide +kernel

theorem test_ill_formed_accesses :
    (Instr.tableWr ⟨0, 0x20⟩ []).wf = false ∧ (Instr.regRd ⟨0, 0⟩ 256).wf = false ∧ (Instr.snapData 0 []).wf = false ∧
    (Instr.readDisturbRefresh (32 * 131072)).wf = false ∧ (Instr.retentionScan [32 * 131072]).wf = false ∧
    (Instr.sessionIdleTimeout 9).wf = false ∧ (Instr.sessionSelect (.udp 0) 0 []).wf = false ∧ (Instr.read .i3c { fr 1 0 0 0 0 0 [] with sub := 256 }).wf = false ∧
    (Instr.aliasWrite 0x4000000 0).wf = false ∧ (Instr.registerWrite .pf 2 0).wf = false ∧ (Instr.bypass 7).wf = false ∧
    (Instr.vendorInstruction 0xFF).wf = false := by
  decide +kernel

/-! ### Worked cases of the manual -/

/-- R4, R15: tiles (30, 25), (5, 43) and (5, 21). -/
theorem test_tile_numbers :
    30 * 44 + 25 = 1345 ∧ dieOf 1345 = 3 ∧ dieOf 263 = 1 ∧ blockOf 1345 = 83 ∧ blockOf (5 * 44 + 21) = 16 := by
  decide +kernel

/-- R41: 40 registers, 24 KiB and an area of 512 KiB give 21 groups. -/
theorem test_residents :
    residentLimit { tileI with regs := { tileI.regs with glCur := 8 } } (word [(5, 38), (384, 28)]) = 21 := by
  decide +kernel

/-- The worked case of R66 and R73: two orders of eight products in a window of weight 88, one accumulator, one result. -/
def factors : List (Nat × Nat) :=
  [(0x4040, 0x40E0), (0x3F81, 0x3F81), (0x4580, 0x4580), (0xC580, 0x4580), (0x3C00, 0x3B80), (0x3F80, 0xBF00), (0x40A0, 0x3DD0), (0xC040, 0x4040)]
def added (st : AccSt) (ps : List (Nat × Nat)) : AccSt :=
  ps.foldl (fun st p => addProduct 88 st (decodeFloat fmtBF16 p.1) (decodeFloat fmtBF16 p.2)) st

theorem test_two_orders :
    let zero : AccSt := ⟨accZero, none, noFlags⟩
    let one := added zero factors
    let y := added zero (factors.take 4)
    let x := added zero (factors.drop 4)
    one.acc.a = 3334 ∧ one.eMax = some 24 ∧ one.fl = ⟨false, true, false⟩ ∧ floatReadout fmtFP32 88 one.acc = (0x41506000, false) ∧
    floatReadout fmtBF16 88 one.acc = (0x4150, false) ∧ (rawExport y.acc).1 = 0x1604 ∧ (rawExport x.acc).1 = -2302 ∧
    (addRaw 88 x (rawExport y.acc).1).acc = one.acc := by
  decide +kernel

/-- R291, R292: PA 0x0000_0001_0000_0200 with 20 stacks, and with S07 excluded. -/
theorem test_interleave :
    stackOf (List.range 20) 0x100000200 = (13, 0x0CCCCC00) ∧ stackOf ((List.range 20).erase 7) 0x100000200 = (15, 0x0D794200) := by
  decide +kernel

/-- R456: the first epoch at the defaults, at point 0. -/
theorem test_first_epoch : headroomNow { on tileI with point := 0, gov := { govReset with capNow := 6000, winNow := 5, ceilNow := 6600 } } = 3145728 := by
  decide +kernel

/-- R528: the alias of ERR of mover 2 on tile 263. -/
theorem test_alias_of_mover_error :
    let s := awake (deployed [])
    let s := { s with tiles := [(263, { tileReset with regs := { tileRegsReset with state := .idle, moverErr := 0xF } })] }
    (match exec (.aliasWrite 0x0220E354 1) s with
      | .next u => decide ((tileAt u 263).regs.moverErr = 0xB)
      | _ => false) = true := by
  decide +kernel

end Sys2Proof.Tests
end

section
/-!
PROOF. CLEAR (R100, R74): what it does when its bundle issues, and what the clear it leaves behind does in the cycle in which it is due.
-/

namespace Sys2Proof.Machine

/-! ### A bank replaced -/

/-- An operation that sets no flag leaves MATRIX_FLAGS as it is (R78). -/
@[simp] theorem orFlags_noFlags (mf : BitVec 12) (b : Nat) : orFlags mf b noFlags = mf := by
  simp [orFlags, flagBits, noFlags, bnat]

@[simp] theorem bankAt_setBank_same (t : Tile) (b : Nat) (x : Bank) (f : FlagSet) : bankAt (setBank t b x f) b = x :=
  fmGet_fmSet_same ..

theorem bankAt_setBank_ne (t : Tile) {b j : Nat} (x : Bank) (f : FlagSet) (h : j ≠ b) : bankAt (setBank t b x f) j = bankAt t j :=
  fmGet_fmSet_ne _ _ _ h

theorem regs_setBank_noFlags (t : Tile) (b : Nat) (x : Bank) : (setBank t b x noFlags).regs = t.regs := by
  simp [setBank]

/-! ### The issue -/

/-- An M-slot word with the operation code of CLEAR has the effect of CLEAR. -/
theorem effM_of_clear {w : Nat} (c : Nat) (q : Seq) (x : Tile) (h : mop w = 4) : effM c q w x = effClear c w x := by
  simp [effM, h]

/-- CLEAR on a tile that is ready: the stream goes on, the bundle counts, and the clear of the next cycle is noted. -/
theorem exec_clear_issues {t : TileId} {w : BitVec 80} {idle : BitVec 4} {s : State} (hw : mop w.toNat = 4)
    (hr : ReadyToIssue s t.val) (hi : SlotIssues .m w.toNat s t.val) :
    exec (.clear t w (some idle)) s = .next (updTile s t.val (fun x => { x with
      seq := goOn s.cycle idle.toNat x.seq.loops none false (cleared x.seq),
      cnt := (countEv 0x02 1 { x with seq := cleared x.seq }).cnt,
      units := (effClear s.cycle w.toNat x).units })) := by
  have hrun : exec (.clear t w (some idle)) s = .next (slotCmd .m (opFits .m 4 w.toNat) t.val w.toNat (some idle) s) := rfl
  rw [hrun, m_slot_runs 4 hw hr hi]
  congr 1
  apply updTile_eq
  rw [effM_of_clear _ _ _ hw]

/-! ### The cycle of the clear -/

/-- In any other cycle than the one it is due in, a clear has no effect. -/
theorem clearCycle_of_ne_due {x : Tile} {j : ClearJob} {c : Nat} (h : x.units.clears = [j]) (hc : c ≠ j.due) : clearCycle c x = x := by
  have hkeep : clearCycle c x = { x with units := { x.units with clears := [j] } } := by simp [clearCycle, h, hc.symm]
  rw [hkeep, ← h]

/-- In the cycle it is due in, a clear replaces its bank, sets no flag, and is done. -/
theorem clearCycle_due {x : Tile} {j : ClearJob} (h : x.units.clears = [j]) :
    clearCycle j.due x = setBank { x with units := { x.units with clears := [] } } j.bank (bankClear j.w) noFlags := by
  simp [clearCycle, h]

/-! ### The statement -/

/-- Settles O6: the issue only notes the clear, and the clear, when due, sets its bank to `bankClear` with no flag. -/
theorem clearEmptiesItsBank : Obligations.ClearEmptiesItsBank := by
  unfold Obligations.ClearEmptiesItsBank
  refine ⟨fun t w idle s hw hr hi => ?_, fun x j c hj => ⟨clearCycle_of_ne_due hj, ?_⟩⟩
  · refine ⟨_, exec_clear_issues hw hr hi, onlyTile_updTile .., ?_⟩
    rw [tileAt_updTile]
    exact ⟨rfl, goOn_arrayBusy .., rfl⟩
  · rintro rfl
    rw [clearCycle_due hj, bankAt_setBank_same]
    exact ⟨rfl, rfl, fun _ => rfl, fun b hb => bankAt_setBank_ne _ _ _ hb, rfl, rfl, regs_setBank_noFlags .., rfl⟩

end Sys2Proof.Machine
end

section
/-!
PROOF. The window form (R260): what one addition gives, case by case, and what additions of finite addends, one after another, give.
-/

namespace Sys2Proof.Machine

/-! ### The codes and the finite values -/

/-- A value of the window form within ±(2^63 − 2): none of the three codes. -/
def WinFinite (a : Int) : Prop := |a| ≤ 2 ^ 63 - 2

/-- One of the two saturation codes, or invalid. -/
def WinCode (a : Int) : Prop := a = winTop ∨ a = -winTop ∨ a = -2 ^ 63

theorem winFinite_iff {a : Int} : WinFinite a ↔ -winTop < a ∧ a < winTop := by
  rw [WinFinite, abs_le, winTop]
  omega

theorem WinFinite.ne_invalid {a : Int} (h : WinFinite a) : a ≠ -2 ^ 63 := by
  rintro rfl
  revert h
  unfold WinFinite
  decide

theorem WinFinite.ne_top {a : Int} (h : WinFinite a) : a ≠ winTop :=
  (winFinite_iff.mp h).2.ne

theorem WinFinite.ne_negTop {a : Int} (h : WinFinite a) : a ≠ -winTop :=
  (winFinite_iff.mp h).1.ne'

/-! ### One addition -/

theorem winAdd_comm (a b : Int) : winAdd a b = winAdd b a := by
  simp only [winAdd, Int.add_comm a b, Bool.or_comm, Bool.and_comm]

theorem winAdd_invalid_left (b : Int) : winAdd (-2 ^ 63) b = -2 ^ 63 := by
  simp [winAdd]

theorem winAdd_opposite_codes : winAdd winTop (-winTop) = -2 ^ 63 := by
  decide

theorem winAdd_top_left {b : Int} (hinv : b ≠ -2 ^ 63) (hopp : b ≠ -winTop) : winAdd winTop b = winTop := by
  have hcodes : winTop ≠ -2 ^ 63 ∧ winTop ≠ -winTop := by decide
  simp [winAdd, hinv, hopp, hcodes, -Int.reducePow]

theorem winAdd_negTop_left {b : Int} (hinv : b ≠ -2 ^ 63) (hopp : b ≠ winTop) : winAdd (-winTop) b = -winTop := by
  have hcodes : -winTop ≠ -2 ^ 63 ∧ -winTop ≠ winTop := by decide
  simp [winAdd, hinv, hopp, hcodes, -Int.reducePow]

/-- A code plus a finite value is that code. -/
theorem winAdd_code_left {c a : Int} (hc : WinCode c) (ha : WinFinite a) : winAdd c a = c := by
  rcases hc with rfl | rfl | rfl
  · exact winAdd_top_left ha.ne_invalid ha.ne_negTop
  · exact winAdd_negTop_left ha.ne_invalid ha.ne_top
  · exact winAdd_invalid_left a

/-- Two finite values add to their sum, limited by the saturation codes. -/
theorem winAdd_of_finite {a b : Int} (ha : WinFinite a) (hb : WinFinite b) : winAdd a b = clampInt (-winTop) winTop (a + b) := by
  simp [winAdd, ha.ne_invalid, ha.ne_top, ha.ne_negTop, hb.ne_invalid, hb.ne_top, hb.ne_negTop, -Int.reducePow]

theorem winAdd_exact {a b : Int} (ha : WinFinite a) (hb : WinFinite b) (h : WinFinite (a + b)) : winAdd a b = a + b := by
  obtain ⟨hlo, hhi⟩ := winFinite_iff.mp h
  rw [winAdd_of_finite ha hb, clampInt, if_neg hlo.not_gt, if_neg hhi.not_gt]

theorem winAdd_saturates {a b : Int} (ha : WinFinite a) (hb : WinFinite b) (h : 2 ^ 63 - 2 < a + b) : winAdd a b = winTop := by
  rw [winAdd_of_finite ha hb, clampInt, winTop]
  split_ifs <;> omega

theorem winAdd_saturates_neg {a b : Int} (ha : WinFinite a) (hb : WinFinite b) (h : a + b < -(2 ^ 63 - 2)) :
    winAdd a b = -winTop := by
  rw [winAdd_of_finite ha hb, clampInt, winTop]
  split_ifs <;> omega

/-- The sum of two finite values is finite and exact, or it is a code. -/
theorem winAdd_exact_or_code {a b : Int} (ha : WinFinite a) (hb : WinFinite b) :
    WinFinite (a + b) ∧ winAdd a b = a + b ∨ WinCode (winAdd a b) := by
  by_cases h : WinFinite (a + b)
  · exact .inl ⟨h, winAdd_exact ha hb h⟩
  · rw [WinFinite, abs_le, not_and_or, not_le, not_le] at h
    rcases h with h | h
    · exact .inr (.inr (.inl (winAdd_saturates_neg ha hb h)))
    · exact .inr (.inl (winAdd_saturates ha hb h))

/-! ### Additions one after another -/

/-- A code stays what it is under finite addends. -/
theorem foldl_winAdd_code {c : Int} (hc : WinCode c) {as : List Int} (has : ∀ a ∈ as, WinFinite a) : as.foldl winAdd c = c := by
  induction as with
  | nil => rfl
  | cons a as ih =>
    obtain ⟨ha, has⟩ := List.forall_mem_cons.mp has
    rw [List.foldl_cons, winAdd_code_left hc ha, ih has]

/-- Finite addends give the exact sum, unless some addition on the way gives a code, which then stays. -/
theorem foldl_winAdd_exact_or_code {x : Int} (hx : WinFinite x) {as : List Int} (has : ∀ a ∈ as, WinFinite a) :
    as.foldl winAdd x = x + as.sum ∨ WinCode (as.foldl winAdd x) := by
  induction as generalizing x with
  | nil => simp
  | cons a as ih =>
    obtain ⟨ha, has⟩ := List.forall_mem_cons.mp has
    rw [List.foldl_cons, List.sum_cons, ← Int.add_assoc]
    rcases winAdd_exact_or_code hx ha with ⟨hsum, heq⟩ | hcode
    · rw [heq]
      exact ih hsum has
    · rw [foldl_winAdd_code hcode has]
      exact .inr hcode

/-- The positive part, summed over a list. -/
def plusSum (as : List Int) : Int := (as.map (fun a => max a 0)).sum

/-- The negative part, summed over a list. -/
def minusSum (as : List Int) : Int := (as.map (fun a => min a 0)).sum

/-- R260's bound: the positive parts and the negative parts of the values each add up to a finite value. -/
def PartsFinite (as : List Int) : Prop := plusSum as ≤ 2 ^ 63 - 2 ∧ -(2 ^ 63 - 2) ≤ minusSum as

@[simp] theorem plusSum_cons (a : Int) (as : List Int) : plusSum (a :: as) = max a 0 + plusSum as := rfl

@[simp] theorem minusSum_cons (a : Int) (as : List Int) : minusSum (a :: as) = min a 0 + minusSum as := rfl

theorem plusSum_nonneg (as : List Int) : 0 ≤ plusSum as :=
  List.sum_nonneg (List.forall_mem_map.mpr fun _ _ => le_max_right ..)

theorem minusSum_nonpos (as : List Int) : minusSum as ≤ 0 := by
  have h := List.sum_le_card_nsmul (as.map (fun a => min a 0)) 0 (List.forall_mem_map.mpr fun _ _ => min_le_right ..)
  rwa [smul_zero] at h

theorem PartsFinite.head {x : Int} {as : List Int} (h : PartsFinite (x :: as)) : WinFinite x := by
  obtain ⟨hplus, hminus⟩ := h
  rw [plusSum_cons] at hplus
  rw [minusSum_cons] at hminus
  have := plusSum_nonneg as
  have := minusSum_nonpos as
  rw [WinFinite, abs_le]
  omega

theorem PartsFinite.tail {x : Int} {as : List Int} (h : PartsFinite (x :: as)) : PartsFinite as := by
  obtain ⟨hplus, hminus⟩ := h
  rw [plusSum_cons] at hplus
  rw [minusSum_cons] at hminus
  have := le_max_right x 0
  have := min_le_right x 0
  constructor <;> omega

/-- Two values replaced by their sum stay within the bound: the parts of a sum are at most the sums of the parts. -/
theorem PartsFinite.add {x a : Int} {as : List Int} (h : PartsFinite (x :: a :: as)) : PartsFinite ((x + a) :: as) := by
  obtain ⟨hplus, hminus⟩ := h
  simp only [plusSum_cons, minusSum_cons] at hplus hminus
  constructor <;> simp only [plusSum_cons, minusSum_cons] <;> omega

/-- Within R260's bound the values taken in, in any order, give their exact sum: no addition on the way saturates. -/
theorem foldl_winAdd_exact {x : Int} {as : List Int} (h : PartsFinite (x :: as)) : as.foldl winAdd x = x + as.sum := by
  induction as generalizing x with
  | nil => simp
  | cons a as ih =>
    have hexact : winAdd x a = x + a := winAdd_exact h.head h.tail.head h.add.head
    rw [List.foldl_cons, hexact, ih h.add, List.sum_cons, Int.add_assoc]

/-! ### The statement -/

/-- Settles O33: the table of R260 is the lemmas about one addition; the exact sum and the other results are inductions over the addends. -/
theorem windowFormAdditions : Obligations.WindowFormAdditions := by
  unfold Obligations.WindowFormAdditions
  refine ⟨fun a b _ _ _ _ => ⟨?_, ?_, ?_, ?_, ?_, ?_, fun ha hb => ⟨winAdd_exact ha hb, winAdd_saturates ha hb, winAdd_saturates_neg ha hb⟩⟩,
    fun x as hx has => ⟨fun hplus hminus => foldl_winAdd_exact ⟨hplus, hminus⟩, foldl_winAdd_exact_or_code hx has⟩⟩
  · rintro (rfl | rfl)
    · exact winAdd_invalid_left b
    · rw [winAdd_comm, winAdd_invalid_left]
  · rintro (⟨rfl, rfl⟩ | ⟨rfl, rfl⟩)
    · exact winAdd_opposite_codes
    · exact (winAdd_comm ..).trans winAdd_opposite_codes
  · rintro rfl
    exact winAdd_top_left
  · rintro rfl
    exact winAdd_negTop_left
  · rintro rfl hinv hopp
    exact (winAdd_comm ..).trans (winAdd_top_left hinv hopp)
  · rintro rfl hinv hopp
    exact (winAdd_comm ..).trans (winAdd_negTop_left hinv hopp)

end Sys2Proof.Machine
end

section
/-!
PROOF of O55 EmptyValues (R507): the row that an access finds is one of the dictionary's rows, of which only rows of type STR and
OCTETS have an empty value; a write of zero length and each case of CLEAR follow the order of the checks.
-/

namespace Sys2Proof.Machine

/-! ### The stored values -/

/-- The value just stored is the one read back, the empty value too. -/
@[simp] theorem dictVal_dictPut_same (s : State) (idx sub : Nat) (v : List Byte) : dictVal (dictPut s idx sub v) idx sub = some v := by
  rw [dictVal, dictPut, fmGet_fmSet_same]

/-! ### The rows -/

/-- The tables give an empty value to rows of type STR and OCTETS only. -/
theorem ty_of_mem_entryRows_of_empty : ∀ row ∈ entryRows, row.empty = true → row.ty = .str ∨ row.ty = .octets := by
  simp only [entryRows, List.forall_mem_append]
  refine ⟨⟨⟨⟨⟨⟨?_, ?_⟩, ?_⟩, ?_⟩, ?_⟩, ?_⟩, ?_⟩ <;> decide

/-- A row that a requester finds is the entry's row. -/
theorem entryRow_of_findEntry {s : State} {r idx sub : Nat} {row : EntryRow} {a : Access}
    (h : findEntry s r idx sub = .ok (some row, a)) : entryRow idx sub = some row := by
  simp only [findEntry] at h
  split at h
  · cases h
  · split at h
    · split at h <;> cases h
    · split at h
      · cases h
      · next found hfound =>
        split at h
        · cases h
        · cases h
          exact hfound

/-! ### Writes and CLEAR, by the row found -/

section
variable {s : State} {r idx sub : Nat} {stored : Bool} {row : EntryRow} {a : Access}

/-- A write of zero length fails once the access lets the requester write: no check after the length is reached. -/
theorem dictWrite_nil (h : findEntry s r idx sub = .ok (some row, a)) (ha : a = .rw ∨ a = .wo)
    (hro : stateRo s idx sub 0 = false) (hudp : ¬ (idx = 0xA010 ∧ 64 ≤ r)) :
    dictWrite r idx sub [] stored s = (s, cZeroLength) := by
  have hlen : leNat ([] : List Byte) = 0 := rfl
  obtain rfl | rfl := ha <;> simp [dictWrite, h, hlen, hro, hudp]

/-- CLEAR of an entry whose row gives empty no meaning. -/
theorem dictClear_of_not_empty (h : findEntry s r idx sub = .ok (some row, a)) (he : row.empty = false) :
    dictClear r idx sub stored s = (s, cValueRange) := by
  simp [dictClear, h, he]

/-- CLEAR of a writable entry whose row gives empty a meaning, where NOR takes the value. -/
theorem dictClear_of_empty (h : findEntry s r idx sub = .ok (some row, a)) (he : row.empty = true) (ha : a = .rw ∨ a = .wo)
    (hro : stateRo s idx sub 0 = false) (hstored : row.kept = true → stored = true) :
    dictClear r idx sub stored s = (dictPut s idx sub [], 0) := by
  have hfits : (row.kept && !stored) = false := by simpa using hstored
  obtain rfl | rfl := ha <;> simp [dictClear, h, he, hro, hfits]

end

/-! ### The statement -/

/-- Settles O55: each clause is the lemma about its case; the type of a row with an empty value is read off the tables. -/
theorem emptyValues : Obligations.EmptyValues := by
  unfold Obligations.EmptyValues
  intro s r idx sub stored row a h
  refine ⟨dictWrite_nil h, dictClear_of_not_empty h,
    ty_of_mem_entryRows_of_empty row (List.mem_of_find?_eq_some (entryRow_of_findEntry h)), fun he ha hro hstored => ?_⟩
  rw [dictClear_of_empty h he ha hro hstored]
  exact ⟨rfl, dictVal_dictPut_same ..⟩

end Sys2Proof.Machine
end

section
/-!
PROOF of O59 PerstHoldsTheLinkDown (R554, R539): raising or dropping a bit of 0x1010 changes that bit alone, PERST_N acts on its own
level and, when it goes low, on bit 9, and the link comes up exactly when nothing holds it down.
-/

namespace Sys2Proof.Machine

/-! ### The bits of 0x1010 -/

theorem readyBit_eq_getLsbD (s : State) (n : Nat) : readyBit s n = s.boot.ready.getLsbD n := BitVec.testBit_toNat ..

/-- The word that raises or drops bit `k` has that bit alone. -/
theorem getLsbD_ofNat_two_pow {n : Nat} (k : Nat) (hn : n < 32) : (BitVec.ofNat 32 (2 ^ k)).getLsbD n = decide (n = k) := by
  rw [BitVec.getLsbD_ofNat, Nat.testBit_two_pow]
  simp [hn, eq_comm]

/-- Raising bit `k` sets it and keeps every other bit. -/
theorem readyBit_updBoot_raiseReady (s : State) {n : Nat} (k : Nat) (hn : n < 32) :
    readyBit (updBoot s (raiseReady k)) n = (readyBit s n || decide (n = k)) := by
  simp only [readyBit_eq_getLsbD, updBoot, raiseReady, BitVec.getLsbD_or, getLsbD_ofNat_two_pow k hn]

/-- Dropping bit `k` clears it and keeps every other bit. -/
theorem readyBit_updBoot_dropReady (s : State) {n : Nat} (k : Nat) (hn : n < 32) :
    readyBit (updBoot s (dropReady k)) n = (readyBit s n && decide (n ≠ k)) := by
  simp only [readyBit_eq_getLsbD, updBoot, dropReady, BitVec.getLsbD_and, BitVec.getLsbD_not, getLsbD_ofNat_two_pow k hn]
  simp [hn]

/-- Whether a bit of 0x1010 is set does not depend on the pins. -/
@[simp] theorem readyBit_updPins (s : State) (f : Pins → Pins) (n : Nat) : readyBit (updPins s f) n = readyBit s n := rfl

/-! ### The link goes down and comes up -/

/-- What has to hold for the link to come up (R539, R554): main power, PERST_N high, REFCLK running, the pins not taken by the TAP. -/
theorem linkUp_of_free {s : State} (hpower : readyBit s 2 = true) (hperst : s.pins.perst = true) (href : s.pins.refclk = true)
    (htaken : s.pins.taken = false) : linkUp s = updBoot s (raiseReady 9) := by
  simp [linkUp, hpower, hperst, href, htaken]

/-- PERST_N low, no main power or no REFCLK: the link stays as it is. -/
theorem linkUp_of_held {s : State} (h : s.pins.perst = false ∨ readyBit s 2 = false ∨ s.pins.refclk = false) : linkUp s = s := by
  obtain h | h | h := h <;> simp [linkUp, h]

/-! ### PERST_N -/

theorem perstN_low {s : State} (htaken : s.pins.taken = false) :
    perstN false s = updBoot (updPins s fun x => { x with perst := false }) (dropReady 9) := by
  simp [perstN, linkLost, htaken]

theorem perstN_high {s : State} (htaken : s.pins.taken = false) : perstN true s = updPins s fun x => { x with perst := true } := by
  simp [perstN, htaken]

/-! ### The statement -/

/-- Settles O59: PERST_N low drops bit 9 and no other, and the link comes up when PERST_N, main power and REFCLK all let it. -/
theorem perstHoldsTheLinkDown : Obligations.PerstHoldsTheLinkDown := by
  unfold Obligations.PerstHoldsTheLinkDown
  intro s htaken
  have low : exec (.perstN false) s = .next _ := congrArg Host.Outcome.next (perstN_low htaken)
  have high : exec (.perstN true) s = .next _ := congrArg Host.Outcome.next (perstN_high htaken)
  have held (h : s.pins.perst = false ∨ readyBit s 2 = false ∨ s.pins.refclk = false) : Completes .pcieLinkUp s (fun u => u = s) :=
    ⟨linkUp s, rfl, linkUp_of_held h⟩
  refine ⟨⟨_, low, rfl, ?_, rfl, rfl, fun n hn hne => ?_⟩, ⟨_, high, rfl, rfl⟩, fun hperst => held (.inl hperst),
    fun h => held (.inr h), fun hperst hpower href => ?_⟩
  · simp [readyBit_updBoot_dropReady]
  · simp [readyBit_updBoot_dropReady, hn, hne]
  · have up : exec .pcieLinkUp s = .next _ := congrArg Host.Outcome.next (linkUp_of_free hpower hperst href htaken)
    refine ⟨_, up, ?_, rfl, rfl, fun n hn hne => ?_⟩
    · simp [readyBit_updBoot_raiseReady]
    · simp [readyBit_updBoot_raiseReady, hn, hne]

end Sys2Proof.Machine
end
